-- ==== Sys2Proof/Word.lean ====
section
/-! DEFINITION. The word types of the Terrik K4 (00_scope R3, R7; 10 R213). -/

namespace Sys2Proof

/-- A 32-bit register value. -/
abbrev Word := BitVec 32

/-- A memory byte. -/
abbrev Byte := BitVec 8

/-- One bit for each of the 64 lanes of a group. -/
abbrev Lanes := BitVec 64

/-- A typed pointer as its 128 bits (Table 5-1). -/
abbrev PtrBits := BitVec 128

end Sys2Proof
end

