-- ==== Sys2Proof/Syntax.lean ====
section
/-! DEFINITION. The instructions and the events of the Terrik K4: one constructor for each row of
spec/opcode_table.json. The rows with a word (Table 3-8) take their operands as their encoding tables give them.
The rows without a word are the steps the part's other agents take; each names what the step acts on. -/

namespace Sys2Proof

/-- A vector register designator, 383 naming lk (Table 2-2). -/
abbrev VReg := Fin 384
/-- A uniform register number. -/
abbrev SReg := Fin 128
/-- A pointer register number. -/
abbrev AReg := Fin 32
/-- A predicate number. -/
abbrev PReg := Fin 8
/-- A rejoin register number. -/
abbrev JReg := Fin 8
/-- A tile number. -/
abbrev TReg := Fin 16
/-- A format slot number. -/
abbrev Slot := Fin 8

/-- The fields every instruction word carries beside its operands: dist and fsel (Table 3-2). -/
structure Ctl where
  dist : Fin 8
  fsel : Bool
  deriving DecidableEq, Repr, Inhabited

/-- A vector source with its hold bit (R59). -/
structure VSrc where
  r : VReg
  hold : Bool
  deriving DecidableEq, Repr, Inhabited

/-- A source that may be a vector or a uniform register (R256). -/
inductive Src where
  | v (r : VReg) (hold : Bool)
  | s (r : SReg)
  deriving DecidableEq, Repr, Inhabited

/-- A destination that may be a vector or a uniform register. -/
inductive Reg where
  | v (r : VReg)
  | s (r : SReg)
  deriving DecidableEq, Repr, Inhabited

/-- Wrap or saturate (Table 12-3). -/
inductive Sat where | wrap | sats | satu
  deriving DecidableEq, Repr, Inhabited

/-- Integer comparison codes (Table 12-3). -/
inductive CmpI where | eq | ne | lt | le | gt | ge
  deriving DecidableEq, Repr, Inhabited

/-- Floating comparison codes (Table 12-4). -/
inductive CmpF where | eq | ne | lt | le | gt | ge | un | num
  deriving DecidableEq, Repr, Inhabited

/-- Rounding modes (R237). -/
inductive Rm where | rne | rz | rup | rdn
  deriving DecidableEq, Repr, Inhabited

/-- The two formats of the float instructions (R271). -/
inductive FFmt where | f32 | f64
  deriving DecidableEq, Repr, Inhabited

/-- The conversion formats (Table 11-5). -/
inductive CvtFmt where
  | f32 | f64 | f16 | bf16 | e4m3 | e5m2 | sint8 | uint8 | sint16 | uint16 | sint32 | uint32 | sint64 | uint64
  deriving DecidableEq, Repr, Inhabited

/-- The byte formats of VPACK.b4 and VUNPK.b4 (Table 11-8). -/
inductive B4Fmt where | e4m3 | e5m2 | sint8 | uint8
  deriving DecidableEq, Repr, Inhabited

/-- The formats of VCLASS (R254). -/
inductive ClassFmt where | f32 | f64 | f16 | bf16 | e4m3 | e5m2
  deriving DecidableEq, Repr, Inhabited

/-- The three forms of VPACK (Table 11-8). -/
inductive PackForm where
  | h2 (bf : Bool) (rm : Rm) (nosat : Bool) (d : VReg) (a b : VSrc)
  | b4 (fmt : B4Fmt) (rm : Rm) (nosat : Bool) (d : VReg) (a : VSrc)
  | blk (rm : Rm) (nosat : Bool) (d : VReg) (e : SReg) (a : VSrc) (slot : Slot)
  deriving DecidableEq, Repr

/-- The three forms of VUNPK (Table 11-8). -/
inductive UnpackForm where
  | h2 (bf : Bool) (d : VReg) (a : VSrc)
  | b4 (fmt : B4Fmt) (d : VReg) (a : VSrc)
  | blk (d : VReg) (a : VSrc) (e : SReg) (slot : Slot)
  deriving DecidableEq, Repr

/-- The lane modes of V2S, S2V and VLANE (R224). The mod bits that lane mode 1 does not use are kept as `spare`. -/
inductive LaneSel where
  | imm (lane : Fin 64)
  | reg (s : SReg) (spare : Fin 64)
  | first
  deriving DecidableEq, Repr

/-- Segment widths (R224). -/
inductive Seg where | w64 | w2 | w4 | w8 | w16 | w32
  deriving DecidableEq, Repr, Inhabited

/-- The shuffles that take one distance for all lanes (R229). -/
inductive ShflMode where | xor | up | down
  deriving DecidableEq, Repr

/-- A distance: a uniform register or an immediate. -/
inductive Dist6 where
  | reg (s : SReg)
  | imm (k : Fin 64)
  deriving DecidableEq, Repr

/-- The source selection of VSHFL (Table 10-7). -/
inductive Shfl where
  | idx (i : VSrc)
  | by (m : ShflMode) (k : Dist6)
  deriving DecidableEq, Repr

/-- Reduction and scan operations (Table 10-8). -/
inductive RedOp where | add | mins | minu | maxs | maxu | and | or | xor | fadd | fmin | fmax
  deriving DecidableEq, Repr, Inhabited

/-- The forms of PMOV (Table 10-7). -/
inductive PmovForm where
  | pp (d a : PReg)
  | ps (d : PReg) (a : SReg)
  | sp (d : SReg) (a : PReg)
  | pv (d : PReg) (a : VSrc)
  | vp (d : VReg) (a : PReg)
  deriving DecidableEq, Repr

/-- The forms of PCNT (Table 10-7). -/
inductive PcntForm where
  | count (d : SReg) (a : PReg)
  | below (d : VReg) (a : PReg)
  deriving DecidableEq, Repr

/-- The destination of SCMP (Table 12-9). -/
inductive ScmpDst where
  | s (d : SReg)
  | p (d : PReg)
  deriving DecidableEq, Repr

/-- JOIN's operations (Table 17-1). -/
inductive JoinOp where | set | or | clr
  deriving DecidableEq, Repr, Inhabited

/-- The index of a memory operand (R153). -/
inductive Idx where
  | none
  | v (r : VSrc)
  | s (r : SReg)
  | imm (x : Word)
  deriving DecidableEq, Repr

/-- Element counts (Table 7-3). -/
inductive Cnt where | x1 | x2 | x4
  deriving DecidableEq, Repr, Inhabited

/-- Cache hints (Table 7-3). -/
inductive Hint where | none | na | ev
  deriving DecidableEq, Repr, Inhabited

/-- ATOM operations (Table 7-5). -/
inductive AtomOp where | add | sub | min | max | and | or | xor | xchg | cas | incw
  deriving DecidableEq, Repr, Inhabited

/-- ATOMF operations (R166). -/
inductive AtomfOp where | add | min | max
  deriving DecidableEq, Repr, Inhabited

/-- WAITA comparisons (R169). -/
inductive WaitCmp where | eq | ne | ge | nem
  deriving DecidableEq, Repr, Inhabited

/-- PREF levels (R171). -/
inductive PrefLevel where | l1 | cl | die
  deriving DecidableEq, Repr, Inhabited

/-- CMO operations (Table 6-3). -/
inductive CmoOp where | cln | inv | cinv
  deriving DecidableEq, Repr, Inhabited

/-- CMO levels (Table 6-3). -/
inductive CmoLevel where | l1 | cl | rdc | l2
  deriving DecidableEq, Repr, Inhabited

/-- The offset and length of PSUB (Table 5-5). -/
inductive PsubArg where
  | reg (o l : SReg)
  | imm (off len : BitVec 39)
  deriving DecidableEq, Repr

/-- The amount of PADV (Table 5-5). -/
inductive PadvArg where
  | reg (o : SReg)
  | imm (n : BitVec 39)
  deriving DecidableEq, Repr

/-- The forms of PGET (Table 5-5). -/
inductive PgetForm where | quad | base | len | form | attr
  deriving DecidableEq, Repr, Inhabited

/-- The forms of PSETF (Table 5-5). -/
inductive PsetfArg where
  | code (c : BitVec 6)
  | swz (m : BitVec 3)
  deriving DecidableEq, Repr

/-- Sharing classes (Table 5-1). -/
inductive PClass where | priv | rs | sync
  deriving DecidableEq, Repr, Inhabited

/-- NARROW targets (Table 5-5). -/
inductive NarrowTo where | core | cl | die
  deriving DecidableEq, Repr, Inhabited

/-- WIDEN targets (Table 5-5). -/
inductive WidenTo where | cl | die | pkg | pod
  deriving DecidableEq, Repr, Inhabited

/-- The notify operands of CPY and CPYRD (Table 8-2). -/
structure Notify where
  aN : AReg
  sV : SReg
  nadd : Bool
  deriving DecidableEq, Repr

/-- The operands CPY and CPYRD share (Table 8-2). -/
structure CpyArgs where
  pL : PReg
  ord : Bool
  aT : AReg
  aR : AReg
  sC : SReg
  aB : AReg
  notify : Option Notify
  deriving DecidableEq, Repr

/-- CPYRD operations (Table 8-4). -/
inductive CpyrdOp where | add | min | max | and | or
  deriving DecidableEq, Repr, Inhabited

/-- Words per queue entry (R194). -/
inductive QWords where | w1 | w2 | w4
  deriving DecidableEq, Repr, Inhabited

/-- Where MLOOP reads A (R298). -/
inductive MloopA where
  | ptr (a : AReg) (slot : Slot) (ad : Option Src)
  | tile (t : TReg)
  deriving DecidableEq, Repr

/-- The operands of MLOOP (Tables 13-2 and 13-3). -/
structure MloopArgs where
  d : TReg
  a : MloopA
  bslot : Slot
  vb : VReg
  rc : Bool
  n1 : Fin 256
  p : Fin 256
  ra : BitVec 24
  ka : Word
  soa : SReg
  sob : SReg
  deriving DecidableEq, Repr

/-- The forms of AFLUSH (Table 14-3). -/
inductive AflushForm where
  | id (s : SReg)
  | all
  deriving DecidableEq, Repr

/-- The forms of APREF (Table 14-3). -/
inductive AprefForm where
  | a (i k : SReg) (n1 : Fin 256)
  | b (i n : SReg)
  deriving DecidableEq, Repr

/-- The forms of ASTAT (Table 14-3). -/
inductive AstatForm where
  | id (d i : SReg)
  | cache (d : SReg)
  deriving DecidableEq, Repr

/-- The forms of SETTLE (Table 15-1). -/
inductive SettleForm where
  | tile (t : TReg)
  | all
  deriving DecidableEq, Repr

/-- COLL operations (R360). -/
inductive CollOp where | sum | min | max
  deriving DecidableEq, Repr, Inhabited

/-- What RANK reads (Table 16-5). -/
inductive RankSel where | rank | size | coord (i : Fin 4)
  deriving DecidableEq, Repr

/-- An operand that is a uniform register or a 32-bit immediate. -/
inductive SOrImm where
  | reg (s : SReg)
  | imm (x : Word)
  deriving DecidableEq, Repr

/-! ### What the events name -/

/-- A block: its launch's id and its linear index. -/
structure BRef where
  launch : Nat
  block : Nat
  deriving DecidableEq, Repr, Inhabited

/-- A group: its block and its index in the block (R20). -/
structure GRef where
  b : BRef
  k : Nat
  deriving DecidableEq, Repr, Inhabited

/-- A gang of a block. -/
structure GangRef where
  b : BRef
  gang : Nat
  deriving DecidableEq, Repr, Inhabited

/-- A cache level of one unit (Table 6-1). -/
inductive CacheId where
  | l1 (core : Nat)
  | cl (cluster : Nat)
  | rdc (die : Nat)
  | l2 (die : Nat)
  deriving DecidableEq, Repr

/-- The driver's answer to a fault record (R125). -/
inductive FaultAnswer where | replay | failNoMap | failRefused
  deriving DecidableEq, Repr

/-- The kinds of an access as a fault record codes them (Table 5-8). -/
inductive AccKind where | read | write | atomic | fetch | engRead | engWrite
  deriving DecidableEq, Repr

/-- The kinds of a tile add: an ordinary one, the first add of a provisional source, and its second, which names the first
(R339). -/
inductive AddKind where
  | plain
  | first
  | second (first : Nat)
  deriving DecidableEq, Repr

/-- What an incoming peer request asks (R355). -/
inductive PeerOp where
  | load (n : Nat)
  | store (bytes : List Byte)
  /-- n bits of one byte, from bit sh on. -/
  | bits (sh n v : Nat)
  | atom (op : AtomOp) (w : Nat) (v n : Nat) (signed : Bool)
  | atomf (op : AtomfOp) (v : Word) (flush : Bool)
  | tileAdd (block gang tile : Nat) (vals : List (Nat × Word)) (kind : AddKind)
  /-- The sector is written poisoned. -/
  | poison
  deriving DecidableEq, Repr

/-- One access of a peer instruction: its address and what it asks. -/
structure PeerAcc where
  va : Nat
  op : PeerOp
  deriving DecidableEq, Repr

/-- An incoming peer instruction, all of whose packets have arrived: its accesses in order (R353, R355). -/
structure PeerReq where
  src : Nat
  id : Nat
  key : Nat
  accs : List PeerAcc
  deriving DecidableEq, Repr

/-- What answers a request this device sent to a peer (Table 16-4); the data of each access, none where it is poisoned. -/
inductive PeerAnswer where
  | performed (data : List (Option (List Byte)))
  | failXlate
  | failAccess
  | keyLacking
  /-- A target that cannot take a first add (R339), or that names no tile (R308). -/
  | addRefused
  | addFails
  deriving DecidableEq, Repr

/-- One member's part of a collective: what it asked for and its elements, none where poisoned (R363). -/
structure CollPart where
  op : CollOp
  fp : Bool
  vals : List (Option Word)
  deriving DecidableEq, Repr

/-- Why an instance of a collective is aborted (R364). -/
inductive CollAbortWhy where | disagree | drop | time
  deriving DecidableEq, Repr

/-- What a command names, with the function that gives the command: 0 is PF 0 (R449). -/
structure Cmd (α : Type) where
  by_ : Nat
  arg : α
  deriving DecidableEq, Repr

/-- A firmware image offered to the recovery loader (R458). -/
structure FwImage where
  version : Nat
  bytes : List Byte
  deriving DecidableEq, Repr

/-- A membership table entry as the driver writes it (Table 16-3). -/
structure MemberWrite where
  valid : Bool
  key : Nat
  vif : Nat
  ctx : Nat
  deriving DecidableEq, Repr

/-- The device registers that are written as registers and have no event of their own (R6, R83, Table 27-2), and the debug
registers that a debugger sets for new groups and rewrites in stopped ones (R440). -/
inductive DevReg where
  | ctxRoot (vif ctx : Nat)
  | windowPage (page : Nat)
  | ats (vif : Nat)
  | debugInit (vif n : Nat)
  | debugReg (g : GRef) (n : Nat)
  | ro (number : Nat)
  deriving DecidableEq, Repr

/-- One constructor for each row of spec/opcode_table.json. -/
inductive Instr where
  -- control (Table 17-1)
  | nop (c : Ctl)
  | exit (c : Ctl)
  | bra (c : Ctl) (t : Word)
  | brc (c : Ctl) (inv : Bool) (p : PReg) (t : Word)
  | brx (c : Ctl) (a : Src)
  | call (c : Ctl) (t : Word)
  | callx (c : Ctl) (a : Src)
  | ret (c : Ctl)
  | join (c : Ctl) (op : JoinOp) (k : JReg)
  | jwait (c : Ctl) (k : JReg)
  | reform (c : Ctl) (a : Src) (mask : BitVec 48)
  | reorder (c : Ctl) (sgn : Bool) (a : VSrc) (mask : BitVec 48)
  | gatherComplete (g : GRef)
  | reformDraw (b : BRef) (pos : Nat)
  -- scalar (Tables 10-7 and 12-9)
  | smov (c : Ctl) (x2 : Bool) (d a : SReg)
  | simm (c : Ctl) (d : SReg) (x : Word)
  | sadd (c : Ctl) (m : Sat) (w : Bool) (d a b : SReg)
  | ssub (c : Ctl) (m : Sat) (w : Bool) (d a b : SReg)
  | smul (c : Ctl) (d a b : SReg)
  | smulh (c : Ctl) (u : Bool) (d a b : SReg)
  | smad (c : Ctl) (d a b e : SReg)
  | sand (c : Ctl) (w : Bool) (d a b : SReg)
  | sor (c : Ctl) (w : Bool) (d a b : SReg)
  | sxor (c : Ctl) (w : Bool) (d a b : SReg)
  | snot (c : Ctl) (w : Bool) (d a : SReg)
  | sshl (c : Ctl) (w : Bool) (d a b : SReg)
  | sshr (c : Ctl) (w : Bool) (d a b : SReg)
  | ssar (c : Ctl) (w : Bool) (d a b : SReg)
  | smin (c : Ctl) (u w : Bool) (d a b : SReg)
  | smax (c : Ctl) (u w : Bool) (d a b : SReg)
  | scmp (c : Ctl) (cc : CmpI) (u w : Bool) (d : ScmpDst) (a b : SReg)
  | ssel (c : Ctl) (w : Bool) (d a b e : SReg)
  | sdivu (c : Ctl) (rem w : Bool) (d a b : SReg)
  -- vector integer (Tables 10-7 and 12-3)
  | vmov (c : Ctl) (x2 : Bool) (d : VReg) (a : Src)
  | vimm (c : Ctl) (d : VReg) (x : Word)
  | vadd (c : Ctl) (m : Sat) (d : VReg) (a b : Src)
  | vsub (c : Ctl) (m : Sat) (d : VReg) (a b : Src)
  | vaddc (c : Ctl) (sub : Bool) (d : VReg) (pO : PReg) (a b : Src) (pI : Option PReg)
  | vmul (c : Ctl) (rc : Bool) (d : VReg) (a b : Src)
  | vmulh (c : Ctl) (u : Bool) (d : VReg) (a b : Src)
  | vmad (c : Ctl) (rc : Bool) (d : VReg) (a b e : Src)
  | vand (c : Ctl) (d : VReg) (a b : Src)
  | vor (c : Ctl) (d : VReg) (a b : Src)
  | vxor (c : Ctl) (d : VReg) (a b : Src)
  | vnot (c : Ctl) (d : VReg) (a : Src)
  | vshl (c : Ctl) (d : VReg) (a b : Src)
  | vshr (c : Ctl) (d : VReg) (a b : Src)
  | vsar (c : Ctl) (d : VReg) (a b : Src)
  | vmin (c : Ctl) (u : Bool) (d : VReg) (a b : Src)
  | vmax (c : Ctl) (u : Bool) (d : VReg) (a b : Src)
  | vabs (c : Ctl) (sat : Bool) (d : VReg) (a : Src)
  | vneg (c : Ctl) (sat : Bool) (d : VReg) (a : Src)
  | vclz (c : Ctl) (d : VReg) (a : Src)
  | vpopc (c : Ctl) (d : VReg) (a : Src)
  | vbfe (c : Ctl) (sgn : Bool) (d : VReg) (a b : Src)
  | vbfi (c : Ctl) (d : VReg) (a b e : Src)
  | vsel (c : Ctl) (d : VReg) (a b : Src) (p : PReg)
  | vcmp (c : Ctl) (cc : CmpI) (u : Bool) (d : PReg) (a b : Src)
  -- float (Table 12-4)
  | vfadd (c : Ctl) (f : FFmt) (rm : Rm) (rc : Bool) (d : VReg) (a b : Src)
  | vfsub (c : Ctl) (f : FFmt) (rm : Rm) (d : VReg) (a b : Src)
  | vfmul (c : Ctl) (f : FFmt) (rm : Rm) (rc : Bool) (d : VReg) (a b : Src)
  | vfma (c : Ctl) (f : FFmt) (rm : Rm) (nab nc rc : Bool) (d : VReg) (a b e : Src)
  | vfmin (c : Ctl) (f : FFmt) (d : VReg) (a b : Src)
  | vfmax (c : Ctl) (f : FFmt) (d : VReg) (a b : Src)
  | vfcmp (c : Ctl) (f : FFmt) (cc : CmpF) (d : PReg) (a b : Src)
  | vrcp (c : Ctl) (rm : Rm) (d : VReg) (a : Src)
  | vrsq (c : Ctl) (rm : Rm) (d : VReg) (a : Src)
  | vsqrt (c : Ctl) (f : FFmt) (rm : Rm) (d : VReg) (a : Src)
  | vexp2 (c : Ctl) (d : VReg) (a : Src)
  | vlog2 (c : Ctl) (d : VReg) (a : Src)
  | vsin (c : Ctl) (d : VReg) (a : Src)
  | vcos (c : Ctl) (d : VReg) (a : Src)
  | vldexp (c : Ctl) (f : FFmt) (rm : Rm) (d : VReg) (a b : Src)
  -- conversion (Tables 11-6 and 11-8)
  | vcvt (c : Ctl) (dst src : CvtFmt) (rm : Rm) (nosat : Bool) (d : VReg) (a : VSrc)
  | vpack (c : Ctl) (f : PackForm)
  | vunpk (c : Ctl) (f : UnpackForm)
  | vrnd (c : Ctl) (f : FFmt) (rm : Rm) (d : VReg) (a : VSrc)
  | vclass (c : Ctl) (f : ClassFmt) (d : VReg) (a : VSrc)
  -- lane exchange and predicates (Table 10-7)
  | v2s (c : Ctl) (l : LaneSel) (d : SReg) (a : VSrc)
  | s2v (c : Ctl) (l : LaneSel) (d : VReg) (a : SReg)
  | vlane (c : Ctl) (l : LaneSel) (d : VReg) (a : VSrc)
  | vshfl (c : Ctl) (x : Shfl) (w : Seg) (d : VReg) (a : VSrc)
  | vrot (c : Ctl) (w : Seg) (d : VReg) (a : VSrc) (k : Dist6)
  | vballot (c : Ctl) (d : SReg) (p : PReg)
  | vredu (c : Ctl) (op : RedOp) (w : Seg) (d : Reg) (a : VSrc)
  | vscan (c : Ctl) (op : RedOp) (excl : Bool) (w : Seg) (d : VReg) (a : VSrc)
  | pand (c : Ctl) (ia ib : Bool) (d a b : PReg)
  | por (c : Ctl) (ia ib : Bool) (d a b : PReg)
  | pxor (c : Ctl) (ia ib : Bool) (d a b : PReg)
  | pnot (c : Ctl) (d a : PReg)
  | pmov (c : Ctl) (f : PmovForm)
  | pcnt (c : Ctl) (f : PcntForm)
  -- memory (Table 7-3)
  | ld (c : Ctl) (n : Cnt) (raw : Bool) (h : Hint) (d : Reg) (p : AReg) (i : Idx)
  | st (c : Ctl) (n : Cnt) (raw nosat : Bool) (h : Hint) (p : AReg) (i : Idx) (x : Src)
  | atom (c : Ctl) (op : AtomOp) (d : Option Reg) (p : AReg) (i : Idx) (x : Src)
  | atomf (c : Ctl) (op : AtomfOp) (d : Option Reg) (p : AReg) (i : Idx) (x : Src)
  | waita (c : Ctl) (cmp : WaitCmp) (d : PReg) (p : AReg) (i : Idx) (x : SReg) (timeout : Word)
  | waitaRetest (g : GRef) (lane : Nat)
  | pref (c : Ctl) (l : PrefLevel) (rng : Bool) (p : AReg) (i : Idx)
  | cmo (c : Ctl) (op : CmoOp) (l : CmoLevel) (p : AReg)
  | locq (c : Ctl) (d : SReg) (p : AReg) (i : SReg)
  -- pointers (Table 5-5)
  | pmake (c : Ctl) (d : AReg) (a : SReg)
  | psub (c : Ctl) (d p : AReg) (x : PsubArg)
  | padv (c : Ctl) (d p : AReg) (x : PadvArg)
  | pget (c : Ctl) (f : PgetForm) (d : SReg) (p : AReg)
  | psetf (c : Ctl) (d p : AReg) (x : PsetfArg)
  | pclass (c : Ctl) (k : PClass) (d p : AReg)
  | pchk (c : Ctl) (st : Bool) (n : Cnt) (d : PReg) (p : AReg) (i : Src)
  | narrow (c : Ctl) (s : NarrowTo) (d p : AReg)
  | widen (c : Ctl) (s : WidenTo) (d p : AReg)
  -- copies and queues (Table 8-2, R188, R194)
  | cpyLd (c : Ctl) (x : CpyArgs)
  | cpySt (c : Ctl) (x : CpyArgs)
  | cpyrd (c : Ctl) (op : CpyrdOp) (x : CpyArgs)
  | copyChunkDone (id k : Nat)
  | copyNotifyWrite (id : Nat)
  | copyFault (id k : Nat)
  | heldCopyApply (b : BRef)
  | ctest (c : Ctl) (d : PReg) (p : AReg) (i : Idx) (m : SReg)
  | cwait (c : Ctl) (d : PReg) (p : AReg) (i : Idx) (m : SReg) (timeout : Word)
  | enq (c : Ctl) (k : QWords) (d : PReg) (q : AReg) (v : SReg)
  | deq (c : Ctl) (k : QWords) (d : SReg) (q : AReg)
  | deqWake (g : GRef) (lane : Nat)
  -- matrix (Table 13-2)
  | mloop (c : Ctl) (x : MloopArgs)
  | mloopStep (core quad : Nat)
  | mloopSuspend (core quad : Nat)
  | mzero (c : Ctl) (d : TReg)
  | mload (c : Ctl) (d : TReg) (p : AReg) (i r : SReg)
  | quadAccessFault (core quad : Nat)
  | mdrainReg (c : Ctl) (d : VReg) (a : TReg)
  | mdrainMem (c : Ctl) (slot : Slot) (rm : Rm) (nosat : Bool) (p : AReg) (a : TReg) (i r : SReg)
  | mdrainAdd (c : Ctl) (a : TReg) (t : SReg)
  | remoteTileAdd (id : Nat)
  | tadd (c : Ctl) (d a b : TReg) (x : SReg)
  | tscale (c : Ctl) (d a : TReg) (x : SReg)
  | mstat (c : Ctl) (d : SReg) (a : TReg)
  -- adapters (Table 14-3)
  | aflush (c : Ctl) (f : AflushForm)
  | apref (c : Ctl) (f : AprefForm)
  | astat (c : Ctl) (f : AstatForm)
  | adapterChunkFill (g : GangRef) (op : Nat)
  | adapterRowReplay (g : GangRef) (op : Nat)
  -- provisional tiles (Table 15-1)
  | mpub (c : Ctl) (d : TReg) (m1 : Fin 16)
  | lineageCorrection (core tag : Nat)
  | correctionAdd (id : Nat)
  | lineageSettle (core tag : Nat)
  | settle (c : Ctl) (f : SettleForm)
  | linq (c : Ctl) (d : SReg) (a : TReg)
  -- fabric (R360, Table 16-5)
  | coll (c : Ctl) (op : CollOp) (ch : Fin 16) (pL : PReg) (aD aS : AReg) (n : SReg)
  | collReduce (ch : Nat) (others : List CollPart)
  | collAbort (ch : Nat) (why : CollAbortWhy)
  | nbr (c : Ctl) (dim : Fin 4) (nw : Bool) (d : SReg) (o : SOrImm)
  | rank (c : Ctl) (x : RankSel) (d : SReg)
  -- scheduling (Table 20-6)
  | bar (c : Ctl)
  | cbar (c : Ctl)
  | spawn (c : Ctl) (d : SReg) (pL : PReg) (r : AReg)
  | cjoin (c : Ctl) (d : SReg)
  | cjoinRelease (b : BRef)
  | sleep (c : Ctl) (n : SOrImm)
  | sleepWake (g : GRef) (lane : Nat)
  | yield (c : Ctl)
  -- system (Tables 23-4 and 26-4, R454)
  | trap (c : Ctl) (code : BitVec 16)
  | eret (c : Ctl)
  | bkpt (c : Ctl) (code : BitVec 16)
  | sread (c : Ctl) (n : Fin 512) (d : Reg)
  | swrite (c : Ctl) (n : Fin 512) (a : SReg)
  | mark (c : Ctl) (code : BitVec 16) (a : Src)
  | clk (c : Ctl) (d : Reg)
  | ckpt (c : Ctl) (d : SReg)
  -- the part's other steps
  | flagCompletion (g : GRef) (op : Nat)
  | takeTrap (g : GRef) (lane : Nat)
  | instructionFetchFill (die line : Nat)
  | l1Fill (core sector : Nat)
  | cacheEviction (u : CacheId) (line : Nat)
  | memoryRead (vif dpa grain : Nat)
  | memoryWrite (vif sector : Nat)
  | patrolRead (sector : Nat)
  | refresh (die chan bank : Nat)
  | remapSramRepair (die chan : Nat) (second : Bool)
  | remapTableReload (die chan : Nat)
  | emergencyRetirement (die chan : Nat)
  | channelRetirementSwitch (die : Nat) (chan : Cmd Nat)
  | keyRotationRequest (vif : Nat)
  | keyRotationComplete (vif : Nat)
  | translationWalk (core vif ctx va : Nat) (kind : AccKind)
  | faultResponse (vif tag : Nat) (ans : FaultAnswer)
  | invalidationCommand (vif ctx lo hi : Nat)
  | snoopInvalidate (die sector : Nat)
  | snoopFilterFree (port region : Nat)
  | linkFailure (link : Nat)
  | dieSplit
  | orderedAtomicLogApply (launch : Nat)
  | peerRequest (r : PeerReq)
  | peerResponse (id : Nat) (ans : PeerAnswer)
  | peerTimeout (id : Nat)
  | packetDrop (r : PeerReq)
  | peerCancel (src id : Nat)
  | denordPortFailure (port : Nat)
  | membershipTableWrite (vif entry : Nat) (w : MemberWrite)
  | launchDoorbell (vif queue : Nat) (entries : List Nat)
  | launchStart (vif queue : Nat)
  | blockPlacement (b : BRef)
  | launchCompletion (launch : Nat)
  | terminateLaunch (launch : Nat)
  | blockEviction (b : BRef)
  | wakeConditionTest (b : BRef)
  | blockResumption (b : BRef)
  | interfaceWeightSet (by_ : Nat) (vif weight : Nat)
  | watchdogLimitSet (by_ : Nat) (vif ms : Nat)
  | watchdogExpiry (vif : Nat)
  | breakpointStop (g : GRef) (lane : Nat)
  | stepStop (g : GRef) (lane : Nat)
  | watchpointStop (g : GRef) (lane : Nat)
  | debugAttach (vif : Nat)
  | debugResume (g : GRef)
  | traceRecordWrite (vif : Nat)
  | laneCycleCount (launch : Nat) (core part : Nat)
  | laneCycleRecordEnable (launch : Nat) (bins : Option (List Nat))
  | traceRingSet (vif base slots kinds : Nat)
  | hostMemRead (addr n : Nat)
  | hostMemWrite (addr : Nat) (bytes : List Byte)
  | featureAcceptWrite (vif : Nat) (x : BitVec 128)
  | launchQueueCreate (vif queue k ctx : Nat)
  | virtualMeshSet (by_ : Nat) (vif x y w h : Nat)
  | savePoolGrant (by_ : Nat) (vif base len : Nat)
  | checkpointSetRegister (vif desc : Nat)
  | checkpointRequest (vif : Nat)
  | checkpointGranuleCopy (vif granule : Nat)
  | checkpointComplete (vif : Nat)
  | patrolPeriodSet (hours : Nat)
  | coldReset
  | deviceReset
  | interfaceReset (vif : Nat)
  | firmwareImageLoad (img : Cmd FwImage)
  | raiseFusedMinimum (by_ : Nat)
  | powerLimitSet (by_ : Nat) (watts : Nat) (core : Nat) (lo hi : Nat)
  | dvfsPredict (core : Nat)
  | powerLimitThrottle
  | registerWrite (r : DevReg) (x : BitVec 128)
  | hostAccessResponse (id : Nat) (refused : Bool)
  | patrolRekeyPassedSector (sector : Nat)
  deriving DecidableEq, Repr

end Sys2Proof
end

