-- ==== Sys2Proof/WellFormed.lean ====
section
/-! DEFINITION. The instructions the spec allows: every check on an instruction's own operands that R46, R47, R54,
R105, R154, R157, R225, R245 to R254, R264, R279, R292, R299 and R427 make without looking at the state. What also needs
the state (the group's allocation, the declared flags, slots and tiles) is checked where the instruction issues. -/

namespace Sys2Proof

/-- The registers from `r` on that an operand of `n` registers covers exist. -/
def VReg.fits (r : VReg) (n : Nat) : Bool := decide (r.val + n ≤ 384)

/-- An even pair (R45). -/
def VReg.pair (r : VReg) : Bool := r.val % 2 == 0

/-- An even pair of uniform registers (R45). -/
def SReg.pair (r : SReg) : Bool := r.val % 2 == 0

/-- A uniform quad (R104). -/
def SReg.quad (r : SReg) : Bool := r.val % 4 == 0

/-- The uniform run exists (R157). -/
def SReg.fits (r : SReg) (n : Nat) : Bool := decide (r.val + n ≤ 128)

/-- An even pair in either file. -/
def Src.pair : Src → Bool
  | .v r _ => r.pair
  | .s r => r.pair

/-- An even pair in either file. -/
def Reg.pair : Reg → Bool
  | .v r => r.pair
  | .s r => r.pair

/-- A run of registers exists in its file. -/
def Reg.fits : Reg → Nat → Bool
  | .v r, n => r.fits n
  | .s r, n => r.fits n

/-- A destination in the vector file. -/
def Reg.isV : Reg → Bool
  | .v _ => true
  | .s _ => false

/-- A vector index, ix 1 (R153). -/
def Idx.isV : Idx → Bool
  | .v _ => true
  | _ => false

/-- Integer conversion formats (Table 11-5). -/
def CvtFmt.isInt : CvtFmt → Bool
  | .f32 | .f64 | .f16 | .bf16 | .e4m3 | .e5m2 => false
  | _ => true

/-- The bits of a conversion format (Table 11-5). -/
def CvtFmt.bits : CvtFmt → Nat
  | .f64 | .sint64 | .uint64 => 64
  | .f32 | .sint32 | .uint32 => 32
  | .f16 | .bf16 | .sint16 | .uint16 => 16
  | .e4m3 | .e5m2 | .sint8 | .uint8 => 8

/-- The registers one element of a conversion format takes (R245). -/
def CvtFmt.regs (f : CvtFmt) : Nat := if f.bits = 64 then 2 else 1

/-- Integer byte formats of VPACK.b4. -/
def B4Fmt.isInt : B4Fmt → Bool
  | .e4m3 | .e5m2 => false
  | .sint8 | .uint8 => true

/-- The element format codes of Table 5-2. -/
def fmtCodeListed (c : BitVec 6) : Bool :=
  decide (c.toNat ≤ 0x0D) || (decide (0x12 ≤ c.toNat) && decide (c.toNat ≤ 0x18)) || c.toNat == 0x20

/-- A pair needed only in the 64-bit format. -/
def FFmt.ok (f : FFmt) (pair : Bool) : Bool := f == .f32 || pair

/-- A system register's shape: one value for each lane, or one uniform value of a width (Tables 10-6, 12-2, 14-2, 23-5,
26-3). -/
inductive SrKind where
  | perLane
  | uniform (bits : Nat)
  deriving DecidableEq, Repr

/-- The shape of a system register and whether it is RW; none for an unassigned number (R428). -/
def srInfo (n : Nat) : Option (SrKind × Bool) :=
  if n < 0x002 then some (.perLane, false)
  else if n < 0x00E then some (.uniform 32, false)
  else if n < 0x010 then some (.uniform 64, false)
  else if n = 0x010 then some (.uniform 32, true)
  else if n = 0x011 then some (.uniform 32, false)
  else if n = 0x012 then some (.uniform 128, false)
  else if n = 0x013 then some (.uniform 32, true)
  else if n = 0x018 ∨ n = 0x019 then some (.uniform 32, true)
  else if n = 0x020 then some (.uniform 32, true)
  else if 0x021 ≤ n ∧ n ≤ 0x024 then some (.uniform 32, true)
  else if n = 0x025 ∨ n = 0x026 then some (.uniform 64, true)
  else if n = 0x027 ∨ n = 0x028 then some (.uniform 32, true)
  else none

/-- SREAD's destination fits the register (R427). -/
def sreadOk (n : Nat) (d : Reg) : Bool :=
  match srInfo n, d with
  | some (.perLane, _), .v _ => true
  | some (.perLane, _), .s _ => false
  | some (.uniform w, _), .v r => w == 32 || (w == 64 && r.pair)
  | some (.uniform w, _), .s r => w == 32 || (w == 64 && r.pair) || (w == 128 && r.quad)
  | none, _ => false

/-- SWRITE's register is RW and its source fits (R427). -/
def swriteOk (n : Nat) (a : SReg) : Bool :=
  match srInfo n with
  | some (.uniform w, true) => w == 32 || (w == 64 && a.pair)
  | _ => false

/-- An instruction that counts itself in a completion flag (R53, Table 10-4 and the encoding tables). -/
def Instr.setsFlag : Instr → Bool
  | .sdivu .. => true
  | .vfadd _ f .. | .vfsub _ f .. | .vfmul _ f .. | .vfma _ f .. | .vfmin _ f .. | .vfmax _ f .. | .vfcmp _ f ..
  | .vldexp _ f .. => f == .f64
  | .vrcp .. | .vrsq .. | .vsqrt .. | .vexp2 .. | .vlog2 .. | .vsin .. | .vcos .. => true
  | .vredu _ op .. | .vscan _ op .. => op == .fadd
  | .ld .. => true
  | .atom _ _ d .. | .atomf _ _ d .. => d.isSome
  | .cmo .. | .locq .. | .narrow .. | .widen .. => true
  | .ctest .. | .enq .. => true
  | .mloop .. | .mload .. | .mdrainReg .. | .mdrainMem .. | .mdrainAdd .. | .mstat .. => true
  | .aflush .. | .astat .. | .settle .. | .linq .. | .coll .. | .spawn .. | .ckpt .. => true
  | _ => false

/-- The fields dist and fsel of an instruction that has a word. -/
def Instr.ctl : Instr → Option Ctl
  | .nop c | .exit c | .bra c _ | .brc c .. | .brx c _ | .call c _ | .callx c _ | .ret c | .join c .. | .jwait c _
  | .reform c .. | .reorder c .. => some c
  | .smov c .. | .simm c .. | .sadd c .. | .ssub c .. | .smul c .. | .smulh c .. | .smad c .. | .sand c .. | .sor c ..
  | .sxor c .. | .snot c .. | .sshl c .. | .sshr c .. | .ssar c .. | .smin c .. | .smax c .. | .scmp c .. | .ssel c ..
  | .sdivu c .. => some c
  | .vmov c .. | .vimm c .. | .vadd c .. | .vsub c .. | .vaddc c .. | .vmul c .. | .vmulh c .. | .vmad c .. | .vand c ..
  | .vor c .. | .vxor c .. | .vnot c .. | .vshl c .. | .vshr c .. | .vsar c .. | .vmin c .. | .vmax c .. | .vabs c ..
  | .vneg c .. | .vclz c .. | .vpopc c .. | .vbfe c .. | .vbfi c .. | .vsel c .. | .vcmp c .. => some c
  | .vfadd c .. | .vfsub c .. | .vfmul c .. | .vfma c .. | .vfmin c .. | .vfmax c .. | .vfcmp c .. | .vrcp c ..
  | .vrsq c .. | .vsqrt c .. | .vexp2 c .. | .vlog2 c .. | .vsin c .. | .vcos c .. | .vldexp c .. => some c
  | .vcvt c .. | .vpack c _ | .vunpk c _ | .vrnd c .. | .vclass c .. => some c
  | .v2s c .. | .s2v c .. | .vlane c .. | .vshfl c .. | .vrot c .. | .vballot c .. | .vredu c .. | .vscan c .. | .pand c ..
  | .por c .. | .pxor c .. | .pnot c .. | .pmov c _ | .pcnt c _ => some c
  | .ld c .. | .st c .. | .atom c .. | .atomf c .. | .waita c .. | .pref c .. | .cmo c .. | .locq c .. => some c
  | .pmake c .. | .psub c .. | .padv c .. | .pget c .. | .psetf c .. | .pclass c .. | .pchk c .. | .narrow c ..
  | .widen c .. => some c
  | .cpyLd c _ | .cpySt c _ | .cpyrd c .. | .ctest c .. | .cwait c .. | .enq c .. | .deq c .. => some c
  | .mloop c _ | .mzero c _ | .mload c .. | .mdrainReg c .. | .mdrainMem c .. | .mdrainAdd c .. | .tadd c .. | .tscale c ..
  | .mstat c .. => some c
  | .aflush c _ | .apref c _ | .astat c _ | .mpub c .. | .settle c _ | .linq c .. => some c
  | .coll c .. | .nbr c .. | .rank c .. | .bar c | .cbar c | .spawn c .. | .cjoin c _ | .sleep c _ | .yield c => some c
  | .trap c _ | .eret c | .bkpt c _ | .sread c .. | .swrite c .. | .mark c .. | .clk c _ | .ckpt c _ => some c
  | _ => none

/-- The operand checks that the instruction word alone decides. -/
def Instr.operandsOk : Instr → Bool
  | .smov _ x2 d a => !x2 || (d.pair && a.pair)
  | .vmov _ x2 d a => !x2 || (d.pair && a.pair)
  | .sadd _ _ w d a b | .ssub _ _ w d a b => !w || (d.pair && a.pair && b.pair)
  | .sand _ w d a b | .sor _ w d a b | .sxor _ w d a b => !w || (d.pair && a.pair && b.pair)
  | .smin _ _ w d a b | .smax _ _ w d a b | .sdivu _ _ w d a b => !w || (d.pair && a.pair && b.pair)
  | .snot _ w d a => !w || (d.pair && a.pair)
  | .sshl _ w d a _ | .sshr _ w d a _ | .ssar _ w d a _ => !w || (d.pair && a.pair)
  | .scmp _ _ _ w _ a b => !w || (a.pair && b.pair)
  | .ssel _ w d a b _ => !w || (d.pair && a.pair && b.pair)
  | .vfadd _ f _ _ d a b | .vfmul _ f _ _ d a b => f.ok (d.pair && a.pair && b.pair)
  | .vfsub _ f _ d a b => f.ok (d.pair && a.pair && b.pair)
  | .vfma _ f _ _ _ _ d a b e => f.ok (d.pair && a.pair && b.pair && e.pair)
  | .vfmin _ f d a b | .vfmax _ f d a b => f.ok (d.pair && a.pair && b.pair)
  | .vfcmp _ f _ _ a b => f.ok (a.pair && b.pair)
  | .vsqrt _ f _ d a => f.ok (d.pair && a.pair)
  | .vldexp _ f _ d a _ => f.ok (d.pair && a.pair)
  | .vcvt _ dst src rm nosat d a =>
    (dst.bits != 64 || d.pair) && (src.bits != 64 || a.r.pair) && !(nosat && !src.isInt && dst.isInt) &&
      !(rm != .rne && src.isInt && dst.isInt)
  | .vpack _ (.b4 fmt rm _ _ a) => a.r.fits 4 && (!fmt.isInt || rm == .rne)
  | .vunpk _ (.h2 _ d _) => d.fits 2
  | .vunpk _ (.b4 _ d _) => d.fits 4
  | .vrnd _ f _ d a => f.ok (d.pair && a.r.pair)
  | .vclass _ f _ a => f != .f64 || a.r.pair
  | .vballot _ d _ => d.pair
  | .vredu _ _ w d _ => d.isV || w == .w64
  | .pmov _ (.ps _ a) => a.pair
  | .pmov _ (.sp d _) => d.pair
  | .ld _ _ _ _ d _ i => d.isV || !i.isV
  | .st _ _ raw nosat _ _ _ _ => !(raw && nosat)
  | .atom _ _ (some (.s _)) _ i _ | .atomf _ _ (some (.s _)) _ i _ => !i.isV
  | .waita _ cmp _ _ i x _ => !i.isV && (cmp != .nem || x.pair)
  | .pref _ _ rng _ i => !rng || i == .none
  | .pmake _ _ a => a.quad
  | .psub _ _ _ (.reg o l) => o.pair && l.pair
  | .padv _ _ _ (.reg o) => o.pair
  | .pget _ .quad d _ => d.quad
  | .pget _ .base d _ | .pget _ .len d _ => d.pair
  | .ctest _ _ _ i _ | .cwait _ _ _ i _ _ => !i.isV
  | .enq _ k _ _ v => v.fits (match k with | .w1 => 1 | .w2 => 2 | .w4 => 4)
  | .deq _ k d _ => d.fits (match k with | .w1 => 1 | .w2 => 2 | .w4 => 4)
  | .mdrainReg _ d _ => d.fits 16
  | .mdrainAdd _ _ t => t.pair
  | .tadd _ _ _ _ x => x.pair
  | .sread _ n d => sreadOk n d
  | .swrite _ n a => swriteOk n a
  | .clk _ d => d.pair
  | _ => true

/-- The checks that need an extension word (R105, R292, R299). -/
def Instr.extOk : Instr → Bool
  | .psetf _ _ _ (.code x) => fmtCodeListed x
  | .mloop _ x =>
    decide (x.p.val = 0 ∨ x.p.val ≤ x.n1.val) &&
    (match x.a with
     | .ptr .. => true
     | .tile t =>
       decide (x.n1.val < 8) && x.ra == 0 && x.ka == 0 && decide (t.val + 2 * (x.n1.val + 1) ≤ 16) &&
         !(decide (t.val ≤ x.d.val) && decide (x.d.val < t.val + 2 * (x.n1.val + 1))))
  | _ => true

/-- fsel is 0 in an instruction that sets no flag (R54). -/
def Instr.fselOk (i : Instr) : Bool :=
  match i.ctl with
  | some c => i.setsFlag || !c.fsel
  | none => true

/-- The checks made before the extension words are fetched (Table 3-7, order 5). -/
def Instr.wordOk (i : Instr) : Bool := i.fselOk && i.operandsOk

/-- An instruction the spec allows. -/
def Instr.wellFormed (i : Instr) : Bool := i.wordOk && i.extOk

end Sys2Proof
end

