-- ==== Sys2Proof/Decode.lean ====
section
/-! DEFINITION. Instruction words: the encoding tables, the decoder and the encoder (03 R43 to R72 and the encoding
table of each instruction chapter), clause headers and predicate-block prefixes. -/

namespace Sys2Proof

/-- Why a word is no instruction of the kernel's version. Each reason traps ILLEGAL (Table 3-7). -/
inductive DecodeError where
  /-- The word's kind does not match its place (R43, R48, R51). -/
  | wrongKind
  /-- The opcode is not assigned, or not available in the version (R69, R70). -/
  | unassignedOpcode
  /-- A modifier value is reserved (R47). -/
  | reservedMod
  /-- A field is nonzero that the opcode does not use, or names a wrong file (R46). -/
  | badField
  /-- A hold bit stands on a field that reads no vector register (R59). -/
  | badHold
  /-- Extension words are missing or hold a reserved bit (R48, R105). -/
  | badExt
  /-- The operands break a rule of WellFormed. -/
  | illFormed
  deriving DecidableEq, Repr

/-! ### Words -/

/-- Bits [lo + n - 1 : lo]. -/
def field (w lo n : Nat) : Nat := w / 2 ^ lo % 2 ^ n

/-- The kind of a code word (Table 3-1). -/
def wordKind (w : Nat) : Nat := field w 62 2

/-- The operand fields of an instruction word and the payloads of its extension words (Table 3-2, R48). -/
structure Enc where
  op : Nat
  d : Nat := 0
  a : Nat := 0
  b : Nat := 0
  c : Nat := 0
  hold : Nat := 0
  mod : Nat := 0
  exts : List Nat := []
  deriving DecidableEq, Repr

/-- A clause header (Table 3-4). -/
structure Header where
  count : Nat
  wait : Nat
  flagA : Option (Fin 12)
  flagB : Option (Fin 12)
  yld : Bool
  deriving DecidableEq, Repr

/-- A clause header's fields, refused as R49 and, in version 1, R71 say. -/
def decodeHeader (ver w : Nat) : Option Header :=
  let av := field w 43 1; let fa := field w 39 4
  let bv := field w 38 1; let fb := field w 34 4
  if wordKind w ≠ 3 ∨ field w 56 6 = 0 ∨ field w 0 33 ≠ 0 then none
  else if av = 1 ∧ 12 ≤ fa ∨ bv = 1 ∧ 12 ≤ fb then none
  else if av = 1 ∧ bv = 1 ∧ fa = fb then none
  else if av = 0 ∧ fa ≠ 0 ∨ bv = 0 ∧ fb ≠ 0 then none
  else if ver = 1 ∧ bv = 1 then none
  else some { count := field w 56 6, wait := field w 44 12,
              flagA := if av = 1 then some (Fin.ofNat 12 fa) else none,
              flagB := if bv = 1 then some (Fin.ofNat 12 fb) else none, yld := field w 33 1 == 1 }

/-- A clause header's word. -/
def Header.word (h : Header) : Nat :=
  let f : Option (Fin 12) → Nat := fun o => match o with | some x => 16 + x.val | none => 0
  3 * 2 ^ 62 + h.count * 2 ^ 56 + h.wait * 2 ^ 44 + f h.flagA * 2 ^ 39 + f h.flagB * 2 ^ 34 + (if h.yld then 2 ^ 33 else 0)

/-- A predicate-block prefix (Table 3-6). -/
structure Pblk where
  p : PReg
  inv : Bool
  len : Nat
  pattern : BitVec 8
  deriving DecidableEq, Repr

/-- A prefix's fields; none where a pattern bit beyond the range or a reserved bit is set (R63). -/
def decodePblk (w : Nat) : Option Pblk :=
  let n := field w 55 3 + 1
  let pat := field w 47 8
  if wordKind w ≠ 2 ∨ 2 ^ n ≤ pat ∨ field w 0 47 ≠ 0 then none
  else some { p := Fin.ofNat 8 (field w 59 3), inv := field w 58 1 == 1, len := n, pattern := BitVec.ofNat 8 pat }

/-- A prefix's word. -/
def Pblk.word (x : Pblk) : Nat :=
  2 * 2 ^ 62 + x.p.val * 2 ^ 59 + (if x.inv then 2 ^ 58 else 0) + (x.len - 1) * 2 ^ 55 + x.pattern.toNat * 2 ^ 47

/-! ### Codes of the encoding tables -/

/-- A vector or uniform source's designator (Table 2-2). -/
def Src.des : Src → Nat
  | .v r _ => r.val
  | .s r => 384 + r.val

/-- A source's hold bit. -/
def Src.h : Src → Nat
  | .v _ true => 1
  | _ => 0

/-- A vector source's hold bit. -/
def VSrc.h (x : VSrc) : Nat := if x.hold then 1 else 0

/-- A destination's designator. -/
def Reg.des : Reg → Nat
  | .v r => r.val
  | .s r => 384 + r.val

/-- A uniform register's designator. -/
def SReg.des (r : SReg) : Nat := 384 + r.val

/-- The hold field from the bits of a, b and c. -/
def holds (a b c : Nat) : Nat := 4 * a + 2 * b + c

/-- A flag as a bit. -/
def b01 (x : Bool) : Nat := if x then 1 else 0

def Sat.code : Sat → Nat | .wrap => 0 | .sats => 1 | .satu => 2
def Sat.ofCode (n : Nat) : Sat := match n with | 0 => .wrap | 1 => .sats | _ => .satu
def CmpI.code : CmpI → Nat | .eq => 0 | .ne => 1 | .lt => 2 | .le => 3 | .gt => 4 | .ge => 5
def CmpI.ofCode (n : Nat) : CmpI := match n with | 0 => .eq | 1 => .ne | 2 => .lt | 3 => .le | 4 => .gt | _ => .ge
def CmpF.code : CmpF → Nat | .eq => 0 | .ne => 1 | .lt => 2 | .le => 3 | .gt => 4 | .ge => 5 | .un => 6 | .num => 7
def CmpF.ofCode (n : Nat) : CmpF :=
  match n with | 0 => .eq | 1 => .ne | 2 => .lt | 3 => .le | 4 => .gt | 5 => .ge | 6 => .un | _ => .num
def Rm.code : Rm → Nat | .rne => 0 | .rz => 1 | .rup => 2 | .rdn => 3
def Rm.ofCode (n : Nat) : Rm := match n with | 0 => .rne | 1 => .rz | 2 => .rup | _ => .rdn
def FFmt.code : FFmt → Nat | .f32 => 0 | .f64 => 1
def FFmt.ofCode (n : Nat) : FFmt := match n with | 0 => .f32 | _ => .f64
def CvtFmt.code : CvtFmt → Nat
  | .f32 => 0 | .f64 => 1 | .f16 => 2 | .bf16 => 3 | .e4m3 => 4 | .e5m2 => 5 | .sint8 => 6 | .uint8 => 7
  | .sint16 => 8 | .uint16 => 9 | .sint32 => 10 | .uint32 => 11 | .sint64 => 12 | .uint64 => 13
def CvtFmt.ofCode (n : Nat) : CvtFmt :=
  match n with
  | 0 => .f32 | 1 => .f64 | 2 => .f16 | 3 => .bf16 | 4 => .e4m3 | 5 => .e5m2 | 6 => .sint8 | 7 => .uint8
  | 8 => .sint16 | 9 => .uint16 | 10 => .sint32 | 11 => .uint32 | 12 => .sint64 | _ => .uint64
def B4Fmt.code : B4Fmt → Nat | .e4m3 => 0 | .e5m2 => 1 | .sint8 => 2 | .uint8 => 3
def B4Fmt.ofCode (n : Nat) : B4Fmt := match n with | 0 => .e4m3 | 1 => .e5m2 | 2 => .sint8 | _ => .uint8
def ClassFmt.code : ClassFmt → Nat | .f32 => 0 | .f64 => 1 | .f16 => 2 | .bf16 => 3 | .e4m3 => 4 | .e5m2 => 5
def ClassFmt.ofCode (n : Nat) : ClassFmt :=
  match n with | 0 => .f32 | 1 => .f64 | 2 => .f16 | 3 => .bf16 | 4 => .e4m3 | _ => .e5m2
def Seg.code : Seg → Nat | .w64 => 0 | .w2 => 1 | .w4 => 2 | .w8 => 3 | .w16 => 4 | .w32 => 5
def Seg.ofCode (n : Nat) : Seg :=
  match n with | 0 => .w64 | 1 => .w2 | 2 => .w4 | 3 => .w8 | 4 => .w16 | _ => .w32
def ShflMode.code : ShflMode → Nat | .xor => 1 | .up => 2 | .down => 3
def ShflMode.ofCode (n : Nat) : ShflMode := match n with | 1 => .xor | 2 => .up | _ => .down
def RedOp.code : RedOp → Nat
  | .add => 1 | .mins => 2 | .minu => 3 | .maxs => 4 | .maxu => 5 | .and => 6 | .or => 7 | .xor => 8 | .fadd => 9
  | .fmin => 10 | .fmax => 11
def RedOp.ofCode (n : Nat) : RedOp :=
  match n with
  | 1 => .add | 2 => .mins | 3 => .minu | 4 => .maxs | 5 => .maxu | 6 => .and | 7 => .or | 8 => .xor | 9 => .fadd
  | 10 => .fmin | _ => .fmax
def JoinOp.code : JoinOp → Nat | .set => 0 | .or => 1 | .clr => 2
def JoinOp.ofCode (n : Nat) : JoinOp := match n with | 0 => .set | 1 => .or | _ => .clr
def Cnt.code : Cnt → Nat | .x1 => 0 | .x2 => 1 | .x4 => 2
def Cnt.ofCode (n : Nat) : Cnt := match n with | 0 => .x1 | 1 => .x2 | _ => .x4
def Cnt.n : Cnt → Nat | .x1 => 1 | .x2 => 2 | .x4 => 4
def Hint.code : Hint → Nat | .none => 0 | .na => 1 | .ev => 2
def Hint.ofCode (n : Nat) : Hint := match n with | 0 => .none | 1 => .na | _ => .ev
def AtomOp.code : AtomOp → Nat
  | .add => 1 | .sub => 2 | .min => 3 | .max => 4 | .and => 5 | .or => 6 | .xor => 7 | .xchg => 8 | .cas => 9 | .incw => 10
def AtomOp.ofCode (n : Nat) : AtomOp :=
  match n with
  | 1 => .add | 2 => .sub | 3 => .min | 4 => .max | 5 => .and | 6 => .or | 7 => .xor | 8 => .xchg | 9 => .cas | _ => .incw
def AtomfOp.code : AtomfOp → Nat | .add => 1 | .min => 2 | .max => 3
def AtomfOp.ofCode (n : Nat) : AtomfOp := match n with | 1 => .add | 2 => .min | _ => .max
def WaitCmp.code : WaitCmp → Nat | .eq => 0 | .ne => 1 | .ge => 2 | .nem => 3
def WaitCmp.ofCode (n : Nat) : WaitCmp := match n with | 0 => .eq | 1 => .ne | 2 => .ge | _ => .nem
def PrefLevel.code : PrefLevel → Nat | .l1 => 0 | .cl => 1 | .die => 2
def PrefLevel.ofCode (n : Nat) : PrefLevel := match n with | 0 => .l1 | 1 => .cl | _ => .die
def CmoOp.code : CmoOp → Nat | .cln => 1 | .inv => 2 | .cinv => 3
def CmoOp.ofCode (n : Nat) : CmoOp := match n with | 1 => .cln | 2 => .inv | _ => .cinv
def CmoLevel.code : CmoLevel → Nat | .l1 => 0 | .cl => 1 | .rdc => 2 | .l2 => 3
def CmoLevel.ofCode (n : Nat) : CmoLevel := match n with | 0 => .l1 | 1 => .cl | 2 => .rdc | _ => .l2
def PgetForm.code : PgetForm → Nat | .quad => 0 | .base => 1 | .len => 2 | .form => 3 | .attr => 4
def PgetForm.ofCode (n : Nat) : PgetForm := match n with | 0 => .quad | 1 => .base | 2 => .len | 3 => .form | _ => .attr
def PClass.code : PClass → Nat | .priv => 1 | .rs => 2 | .sync => 3
def PClass.ofCode (n : Nat) : PClass := match n with | 1 => .priv | 2 => .rs | _ => .sync
def NarrowTo.code : NarrowTo → Nat | .core => 1 | .cl => 2 | .die => 3
def NarrowTo.ofCode (n : Nat) : NarrowTo := match n with | 1 => .core | 2 => .cl | _ => .die
def WidenTo.code : WidenTo → Nat | .cl => 2 | .die => 3 | .pkg => 4 | .pod => 5
def WidenTo.ofCode (n : Nat) : WidenTo := match n with | 2 => .cl | 3 => .die | 4 => .pkg | _ => .pod
def CpyrdOp.code : CpyrdOp → Nat | .add => 1 | .min => 2 | .max => 3 | .and => 4 | .or => 5
def CpyrdOp.ofCode (n : Nat) : CpyrdOp := match n with | 1 => .add | 2 => .min | 3 => .max | 4 => .and | _ => .or
def QWords.code : QWords → Nat | .w1 => 0 | .w2 => 1 | .w4 => 2
def QWords.ofCode (n : Nat) : QWords := match n with | 0 => .w1 | 1 => .w2 | _ => .w4
/-- The words of a queue entry. -/
def QWords.n : QWords → Nat | .w1 => 1 | .w2 => 2 | .w4 => 4
def CollOp.code : CollOp → Nat | .sum => 1 | .min => 2 | .max => 3
def CollOp.ofCode (n : Nat) : CollOp := match n with | 1 => .sum | 2 => .min | _ => .max
def RankSel.code : RankSel → Nat | .rank => 0 | .size => 1 | .coord i => 4 + i.val
def RankSel.ofCode (n : Nat) : RankSel :=
  match n with | 0 => .rank | 1 => .size | _ => .coord (Fin.ofNat 4 (n - 4))

/-! ### The encoder -/

/-- The index kind ix (R153). -/
def Idx.ix : Idx → Nat | .none => 0 | .v _ => 1 | .s _ => 2 | .imm _ => 3
/-- The index register's designator, 0 where ix names none. -/
def Idx.des : Idx → Nat | .v r => r.r.val | .s r => r.des | _ => 0
/-- The index register's hold bit. -/
def Idx.h : Idx → Nat | .v r => r.h | _ => 0
/-- The index's extension word. -/
def Idx.exts : Idx → List Nat | .imm x => [x.toNat] | _ => []
/-- The index stands in b, so a value operand stands in c (R153). -/
def Idx.inB : Idx → Bool | .v _ | .s _ => true | _ => false

/-- A memory instruction's fields: the value operand follows the index (R153). -/
def memEnc (op d : Nat) (p : AReg) (i : Idx) (x xh mod : Nat) (t : List Nat := []) : Enc :=
  if i.inB then { op, d, a := p, b := i.des, c := x, hold := holds 0 i.h xh, mod, exts := t ++ i.exts }
  else { op, d, a := p, b := x, hold := holds 0 xh 0, mod, exts := t ++ i.exts }

/-- Two sources (R256). -/
def enc2 (op d : Nat) (a b : Src) (mod : Nat) : Enc :=
  { op, d, a := a.des, b := b.des, hold := holds a.h b.h 0, mod }

/-- One source. -/
def enc1 (op d : Nat) (a : Src) (mod : Nat) : Enc := { op, d, a := a.des, hold := holds a.h 0 0, mod }

/-- Three sources. -/
def enc3 (op d : Nat) (a b e : Src) (mod : Nat) : Enc :=
  { op, d, a := a.des, b := b.des, c := e.des, hold := holds a.h b.h e.h, mod }

/-- Uniform operands. -/
def encS (op : Nat) (d a b : SReg) (mod : Nat) : Enc := { op, d := d.des, a := a.des, b := b.des, mod }

/-- The format and rounding bits of the float instructions (R271). -/
def fmod (f : FFmt) (rm : Rm) : Nat := f.code + 2 * rm.code

/-- The lane modes of V2S, S2V and VLANE (R224): the designator in b and mod. -/
def LaneSel.enc : LaneSel → Nat × Nat
  | .imm l => (0, l.val)
  | .reg s sp => (s.des, 64 + sp.val)
  | .first => (0, 128)

/-- The fields of CPY and CPYRD (Table 8-2). -/
def cpyEnc (op : Nat) (x : CpyArgs) (mod : Nat) : Enc :=
  match x.notify with
  | none => { op, d := x.aT, a := x.aR, b := x.sC.des, c := x.aB, mod := x.pL + 8 * b01 x.ord + mod }
  | some n => { op, d := x.aT, a := x.aR, b := x.sC.des, c := x.aB,
                mod := x.pL + 8 * b01 x.ord + 16 + 32 * b01 n.nadd + mod, exts := [n.aN + 32 * n.sV] }

/-- MLOOP's fields (Tables 13-2 and 13-3). -/
def mloopEnc (x : MloopArgs) : Enc :=
  let ex := [x.n1 + 256 * x.p + 65536 * x.ra.toNat, x.ka.toNat + 2 ^ 32 * x.soa.val + 2 ^ 39 * x.sob.val]
  match x.a with
  | .ptr p sl none => { op := 0x380, d := x.d, a := p, b := x.vb, mod := sl + 8 * x.bslot + 128 * b01 x.rc, exts := ex }
  | .ptr p sl (some v) => { op := 0x380, d := x.d, a := p, b := x.vb, c := v.des, hold := holds 0 0 v.h,
                            mod := sl + 8 * x.bslot + 64 + 128 * b01 x.rc, exts := ex }
  | .tile t => { op := 0x380, d := x.d, a := t, b := x.vb, mod := 8 * x.bslot + 128 * b01 x.rc + 256, exts := ex }

/-- The encoding tables: the operand fields of each instruction that has a word. -/
def Instr.enc : Instr → Option Enc
  | .nop _ => some { op := 0x001 }
  | .exit _ => some { op := 0x002 }
  | .bra _ t => some { op := 0x003, exts := [t.toNat] }
  | .brc _ inv p t => some { op := 0x004, a := p, mod := b01 inv, exts := [t.toNat] }
  | .brx _ a => some (enc1 0x005 0 a 0)
  | .call _ t => some { op := 0x006, exts := [t.toNat] }
  | .callx _ a => some (enc1 0x007 0 a 0)
  | .ret _ => some { op := 0x008 }
  | .join _ o k => some { op := 0x009, d := k, mod := o.code }
  | .jwait _ k => some { op := 0x00A, a := k }
  | .reform _ a m => some { op := 0x00B, a := a.des, hold := holds a.h 0 0, exts := [m.toNat] }
  | .reorder _ s a m => some { op := 0x00C, a := a.r, hold := holds a.h 0 0, mod := b01 s, exts := [m.toNat] }
  | .smov _ x2 d a => some { op := 0x040, d := d.des, a := a.des, mod := b01 x2 }
  | .simm _ d x => some { op := 0x041, d := d.des, exts := [x.toNat] }
  | .sadd _ m w d a b => some (encS 0x042 d a b (m.code + 128 * b01 w))
  | .ssub _ m w d a b => some (encS 0x043 d a b (m.code + 128 * b01 w))
  | .smul _ d a b => some (encS 0x044 d a b 0)
  | .smulh _ u d a b => some (encS 0x045 d a b (b01 u))
  | .smad _ d a b e => some { op := 0x046, d := d.des, a := a.des, b := b.des, c := e.des }
  | .sand _ w d a b => some (encS 0x047 d a b (128 * b01 w))
  | .sor _ w d a b => some (encS 0x048 d a b (128 * b01 w))
  | .sxor _ w d a b => some (encS 0x049 d a b (128 * b01 w))
  | .snot _ w d a => some { op := 0x04A, d := d.des, a := a.des, mod := 128 * b01 w }
  | .sshl _ w d a b => some (encS 0x04B d a b (128 * b01 w))
  | .sshr _ w d a b => some (encS 0x04C d a b (128 * b01 w))
  | .ssar _ w d a b => some (encS 0x04D d a b (128 * b01 w))
  | .smin _ u w d a b => some (encS 0x04E d a b (b01 u + 128 * b01 w))
  | .smax _ u w d a b => some (encS 0x04F d a b (b01 u + 128 * b01 w))
  | .scmp _ cc u w d a b =>
    let m := cc.code + 8 * b01 u + 128 * b01 w
    match d with
    | .s d => some (encS 0x050 d a b m)
    | .p d => some { op := 0x050, d := d, a := a.des, b := b.des, mod := m + 16 }
  | .ssel _ w d a b e => some { op := 0x051, d := d.des, a := a.des, b := b.des, c := e.des, mod := 128 * b01 w }
  | .sdivu _ r w d a b => some (encS 0x052 d a b (b01 r + 128 * b01 w))
  | .vmov _ x2 d a => some (enc1 0x100 d a (b01 x2))
  | .vimm _ d x => some { op := 0x101, d := d, exts := [x.toNat] }
  | .vadd _ m d a b => some (enc2 0x102 d a b m.code)
  | .vsub _ m d a b => some (enc2 0x103 d a b m.code)
  | .vaddc _ sub d pO a b pI =>
    match pI with
    | some q => some { enc2 0x104 d a b (pO + 8 * b01 sub) with c := q }
    | none => some (enc2 0x104 d a b (pO + 8 * b01 sub + 16))
  | .vmul _ rc d a b => some (enc2 0x105 d a b (256 * b01 rc))
  | .vmulh _ u d a b => some (enc2 0x106 d a b (b01 u))
  | .vmad _ rc d a b e => some (enc3 0x107 d a b e (256 * b01 rc))
  | .vand _ d a b => some (enc2 0x108 d a b 0)
  | .vor _ d a b => some (enc2 0x109 d a b 0)
  | .vxor _ d a b => some (enc2 0x10A d a b 0)
  | .vnot _ d a => some (enc1 0x10B d a 0)
  | .vshl _ d a b => some (enc2 0x10C d a b 0)
  | .vshr _ d a b => some (enc2 0x10D d a b 0)
  | .vsar _ d a b => some (enc2 0x10E d a b 0)
  | .vmin _ u d a b => some (enc2 0x10F d a b (b01 u))
  | .vmax _ u d a b => some (enc2 0x110 d a b (b01 u))
  | .vabs _ s d a => some (enc1 0x111 d a (b01 s))
  | .vneg _ s d a => some (enc1 0x112 d a (b01 s))
  | .vclz _ d a => some (enc1 0x113 d a 0)
  | .vpopc _ d a => some (enc1 0x114 d a 0)
  | .vbfe _ s d a b => some (enc2 0x115 d a b (b01 s))
  | .vbfi _ d a b e => some (enc3 0x116 d a b e 0)
  | .vsel _ d a b p => some { enc2 0x117 d a b 0 with c := p }
  | .vcmp _ cc u d a b => some (enc2 0x118 d a b (cc.code + 8 * b01 u))
  | .vfadd _ f rm rc d a b => some (enc2 0x200 d a b (fmod f rm + 256 * b01 rc))
  | .vfsub _ f rm d a b => some (enc2 0x201 d a b (fmod f rm))
  | .vfmul _ f rm rc d a b => some (enc2 0x202 d a b (fmod f rm + 256 * b01 rc))
  | .vfma _ f rm nab nc rc d a b e =>
    some (enc3 0x203 d a b e (fmod f rm + 16 * b01 nab + 32 * b01 nc + 256 * b01 rc))
  | .vfmin _ f d a b => some (enc2 0x204 d a b f.code)
  | .vfmax _ f d a b => some (enc2 0x205 d a b f.code)
  | .vfcmp _ f cc d a b => some (enc2 0x206 d a b (f.code + 16 * cc.code))
  | .vrcp _ rm d a => some (enc1 0x207 d a (2 * rm.code))
  | .vrsq _ rm d a => some (enc1 0x208 d a (2 * rm.code))
  | .vsqrt _ f rm d a => some (enc1 0x209 d a (fmod f rm))
  | .vexp2 _ d a => some (enc1 0x20A d a 0)
  | .vlog2 _ d a => some (enc1 0x20B d a 0)
  | .vsin _ d a => some (enc1 0x20C d a 0)
  | .vcos _ d a => some (enc1 0x20D d a 0)
  | .vldexp _ f rm d a b => some (enc2 0x20E d a b (fmod f rm))
  | .vcvt _ dst src rm ns d a =>
    some { op := 0x280, d := d, a := a.r, c := rm.code, hold := holds a.h 0 0,
           mod := dst.code + 16 * src.code + 256 * b01 ns }
  | .vpack _ f =>
    match f with
    | .h2 bf rm ns d a b => some { op := 0x281, d := d, a := a.r, b := b.r, c := rm.code, hold := holds a.h b.h 0,
                                   mod := 4 * b01 bf + 256 * b01 ns }
    | .b4 f rm ns d a => some { op := 0x281, d := d, a := a.r, c := rm.code, hold := holds a.h 0 0,
                                mod := 1 + 4 * f.code + 256 * b01 ns }
    | .blk rm ns d e a sl => some { op := 0x281, d := d, a := a.r, b := e.des, c := rm.code, hold := holds a.h 0 0,
                                    mod := 2 + 4 * sl + 256 * b01 ns }
  | .vunpk _ f =>
    match f with
    | .h2 bf d a => some { op := 0x282, d := d, a := a.r, hold := holds a.h 0 0, mod := 4 * b01 bf }
    | .b4 f d a => some { op := 0x282, d := d, a := a.r, hold := holds a.h 0 0, mod := 1 + 4 * f.code }
    | .blk d a e sl => some { op := 0x282, d := d, a := a.r, b := e.des, hold := holds a.h 0 0, mod := 2 + 4 * sl }
  | .vrnd _ f rm d a => some { op := 0x283, d := d, a := a.r, c := rm.code, hold := holds a.h 0 0, mod := f.code }
  | .vclass _ f d a => some { op := 0x284, d := d, a := a.r, hold := holds a.h 0 0, mod := f.code }
  | .v2s _ l d a => some { op := 0x2C0, d := d.des, a := a.r, b := l.enc.1, hold := holds a.h 0 0, mod := l.enc.2 }
  | .s2v _ l d a => some { op := 0x2C1, d := d, a := a.des, b := l.enc.1, mod := l.enc.2 }
  | .vlane _ l d a => some { op := 0x2C2, d := d, a := a.r, b := l.enc.1, hold := holds a.h 0 0, mod := l.enc.2 }
  | .vshfl _ x w d a =>
    match x with
    | .idx i => some { op := 0x2C3, d := d, a := a.r, b := i.r, hold := holds a.h i.h 0, mod := 64 * w.code }
    | .by m (.reg s) => some { op := 0x2C3, d := d, a := a.r, b := s.des, hold := holds a.h 0 0,
                               mod := m.code + 64 * w.code }
    | .by m (.imm k) => some { op := 0x2C3, d := d, a := a.r, c := k, hold := holds a.h 0 0,
                               mod := m.code + 4 + 64 * w.code }
  | .vrot _ w d a k =>
    match k with
    | .reg s => some { op := 0x2C4, d := d, a := a.r, b := s.des, hold := holds a.h 0 0, mod := 64 * w.code }
    | .imm k => some { op := 0x2C4, d := d, a := a.r, c := k, hold := holds a.h 0 0, mod := 4 + 64 * w.code }
  | .vballot _ d p => some { op := 0x2C5, d := d.des, a := p }
  | .vredu _ o w d a => some { op := 0x2C6, d := d.des, a := a.r, hold := holds a.h 0 0, mod := o.code + 64 * w.code }
  | .vscan _ o x w d a => some { op := 0x2C7, d := d, a := a.r, hold := holds a.h 0 0,
                                 mod := o.code + 16 * b01 x + 64 * w.code }
  | .pand _ ia ib d a b => some { op := 0x2C8, d := d, a := a, b := b, mod := b01 ia + 2 * b01 ib }
  | .por _ ia ib d a b => some { op := 0x2C9, d := d, a := a, b := b, mod := b01 ia + 2 * b01 ib }
  | .pxor _ ia ib d a b => some { op := 0x2CA, d := d, a := a, b := b, mod := b01 ia + 2 * b01 ib }
  | .pnot _ d a => some { op := 0x2CB, d := d, a := a }
  | .pmov _ f =>
    match f with
    | .pp d a => some { op := 0x2CC, d := d, a := a }
    | .ps d a => some { op := 0x2CC, d := d, a := a.des, mod := 1 }
    | .sp d a => some { op := 0x2CC, d := d.des, a := a, mod := 2 }
    | .pv d a => some { op := 0x2CC, d := d, a := a.r, hold := holds a.h 0 0, mod := 3 }
    | .vp d a => some { op := 0x2CC, d := d, a := a, mod := 4 }
  | .pcnt _ f =>
    match f with
    | .count d a => some { op := 0x2CD, d := d.des, a := a }
    | .below d a => some { op := 0x2CD, d := d, a := a, mod := 1 }
  | .ld _ n raw h d p i => some (memEnc 0x300 d.des p i 0 0 (i.ix + 4 * n.code + 16 * b01 raw + 64 * h.code))
  | .st _ n raw ns h p i x =>
    some (memEnc 0x301 0 p i x.des x.h (i.ix + 4 * n.code + 16 * b01 raw + 32 * b01 ns + 64 * h.code))
  | .atom _ o d p i x =>
    match d with
    | some r => some (memEnc 0x302 r.des p i x.des x.h (i.ix + 4 * o.code + 64))
    | none => some (memEnc 0x302 0 p i x.des x.h (i.ix + 4 * o.code))
  | .atomf _ o d p i x =>
    match d with
    | some r => some (memEnc 0x303 r.des p i x.des x.h (i.ix + 4 * o.code + 64))
    | none => some (memEnc 0x303 0 p i x.des x.h (i.ix + 4 * o.code))
  | .waita _ k d p i x t => some (memEnc 0x304 d p i x.des 0 (i.ix + 4 * k.code) [t.toNat])
  | .pref _ l r p i => some (memEnc 0x305 0 p i 0 0 (i.ix + 4 * l.code + 16 * b01 r))
  | .cmo _ o l p => some { op := 0x306, a := p, mod := o.code + 4 * l.code }
  | .locq _ d p i => some { op := 0x307, d := d.des, a := p, b := i.des }
  | .pmake _ d a => some { op := 0x310, d := d, a := a.des }
  | .psub _ d p x =>
    match x with
    | .reg o l => some { op := 0x311, d := d, a := p, b := o.des, c := l.des }
    | .imm o l => some { op := 0x311, d := d, a := p, mod := 1, exts := [o.toNat, l.toNat] }
  | .padv _ d p x =>
    match x with
    | .reg o => some { op := 0x312, d := d, a := p, b := o.des }
    | .imm n => some { op := 0x312, d := d, a := p, mod := 1, exts := [n.toNat] }
  | .pget _ f d p => some { op := 0x313, d := d.des, a := p, mod := f.code }
  | .psetf _ d p x =>
    match x with
    | .code c => some { op := 0x314, d := d, a := p, exts := [c.toNat] }
    | .swz m => some { op := 0x314, d := d, a := p, mod := 1, exts := [m.toNat] }
  | .pclass _ k d p => some { op := 0x315, d := d, a := p, mod := k.code }
  | .pchk _ sf n d p i => some { op := 0x316, d := d, a := p, b := i.des, hold := holds 0 i.h 0,
                                 mod := b01 sf + 2 * n.code }
  | .narrow _ s d p => some { op := 0x317, d := d, a := p, mod := s.code }
  | .widen _ s d p => some { op := 0x318, d := d, a := p, mod := s.code }
  | .cpyLd _ x => some (cpyEnc 0x340 x 0)
  | .cpySt _ x => some (cpyEnc 0x340 x 64)
  | .cpyrd _ o x => some (cpyEnc 0x341 x (64 * o.code))
  | .ctest _ d p i m => some (memEnc 0x342 d p i m.des 0 i.ix)
  | .cwait _ d p i m t => some (memEnc 0x343 d p i m.des 0 i.ix [t.toNat])
  | .enq _ k d q v => some { op := 0x344, d := d, a := q, b := v.des, mod := k.code }
  | .deq _ k d q => some { op := 0x345, d := d.des, a := q, mod := k.code }
  | .mloop _ x => some (mloopEnc x)
  | .mzero _ d => some { op := 0x381, d := d }
  | .mload _ d p i r => some { op := 0x382, d := d, a := p, b := i.des, c := r.des }
  | .mdrainReg _ d a => some { op := 0x383, d := d, a := a }
  | .mdrainMem _ sl rm ns p a i r =>
    some { op := 0x383, d := p, a := a, b := i.des, c := r.des, mod := 1 + 4 * sl + 32 * b01 ns + 64 * rm.code }
  | .mdrainAdd _ a t => some { op := 0x383, a := a, b := t.des, mod := 2 }
  | .tadd _ d a b x => some { op := 0x384, d := d, a := a, b := b, c := x.des }
  | .tscale _ d a x => some { op := 0x385, d := d, a := a, c := x.des }
  | .mstat _ d a => some { op := 0x386, d := d.des, a := a }
  | .aflush _ f =>
    match f with
    | .id s => some { op := 0x390, a := s.des }
    | .all => some { op := 0x390, mod := 1 }
  | .apref _ f =>
    match f with
    | .a i k n => some { op := 0x391, a := i.des, b := k.des, mod := 2 * n }
    | .b i n => some { op := 0x391, a := i.des, b := n.des, mod := 1 }
  | .astat _ f =>
    match f with
    | .id d i => some { op := 0x392, d := d.des, a := i.des }
    | .cache d => some { op := 0x392, d := d.des, mod := 1 }
  | .mpub _ d m => some { op := 0x398, d := d, mod := m }
  | .settle _ f =>
    match f with
    | .tile t => some { op := 0x399, a := t }
    | .all => some { op := 0x399, mod := 1 }
  | .linq _ d a => some { op := 0x39A, d := d.des, a := a }
  | .coll _ o ch p d s n => some { op := 0x3C0, d := d, a := s, b := n.des, mod := p + 8 * o.code + 32 * ch }
  | .nbr _ k nw d o =>
    match o with
    | .reg s => some { op := 0x3C1, d := d.des, a := s.des, mod := k + 8 * b01 nw }
    | .imm x => some { op := 0x3C1, d := d.des, mod := k + 4 + 8 * b01 nw, exts := [x.toNat] }
  | .rank _ x d => some { op := 0x3C2, d := d.des, mod := x.code }
  | .bar _ => some { op := 0x3C8 }
  | .cbar _ => some { op := 0x3C9 }
  | .spawn _ d p r => some { op := 0x3CA, d := d.des, a := r, mod := p }
  | .cjoin _ d => some { op := 0x3CB, d := d.des }
  | .sleep _ n =>
    match n with
    | .reg s => some { op := 0x3CC, a := s.des }
    | .imm x => some { op := 0x3CC, mod := 1, exts := [x.toNat] }
  | .yield _ => some { op := 0x3CD }
  | .trap _ x => some { op := 0x3E0, exts := [x.toNat] }
  | .eret _ => some { op := 0x3E1 }
  | .bkpt _ x => some { op := 0x3E2, exts := [x.toNat] }
  | .sread _ n d => some { op := 0x3E3, d := d.des, mod := n }
  | .swrite _ n a => some { op := 0x3E4, a := a.des, mod := n }
  | .mark _ x a =>
    some { op := 0x3E8, a := a.des, hold := holds a.h 0 0, mod := (match a with | .v .. => 1 | .s _ => 0), exts := [x.toNat] }
  | .clk _ d => some { op := 0x3E9, d := d.des }
  | .ckpt _ d => some { op := 0x3F0, d := d.des }
  | _ => none

/-- An instruction word from its fields (Table 3-2). -/
def Enc.word (e : Enc) (c : Ctl) : Nat :=
  e.op * 2 ^ 52 + c.dist.val * 2 ^ 49 + b01 c.fsel * 2 ^ 48 + e.d * 2 ^ 39 + e.a * 2 ^ 30 + e.b * 2 ^ 21 + e.c * 2 ^ 12 +
    e.hold * 2 ^ 9 + e.mod

/-- The words of an instruction: its instruction word and its extension words (R48); none for an event. -/
def encode (i : Instr) : List Nat :=
  match i.ctl, i.enc with
  | some c, some e => e.word c :: e.exts.map (fun x => 2 ^ 62 + x)
  | _, _ => []

/-! ### The decoder -/

def vreg (n : Nat) : VReg := Fin.ofNat 384 n
def sreg (n : Nat) : SReg := Fin.ofNat 128 n
def areg (n : Nat) : AReg := Fin.ofNat 32 n
def preg (n : Nat) : PReg := Fin.ofNat 8 n
def treg (n : Nat) : TReg := Fin.ofNat 16 n
def slot (n : Nat) : Slot := Fin.ofNat 8 n
def w32 (n : Nat) : Word := BitVec.ofNat 32 n

/-- The hold bits of a, b and c. -/
def Enc.ha (e : Enc) : Bool := field e.hold 2 1 == 1
def Enc.hb (e : Enc) : Bool := field e.hold 1 1 == 1
def Enc.hc (e : Enc) : Bool := field e.hold 0 1 == 1

/-- Bit k of mod. -/
def Enc.bit (e : Enc) (k : Nat) : Bool := field e.mod k 1 == 1
/-- n bits of mod from bit k. -/
def Enc.m (e : Enc) (k n : Nat) : Nat := field e.mod k n
/-- An extension word's payload. -/
def Enc.x (e : Enc) (k : Nat) : Nat := e.exts.getD k 0

/-- The source a designator names. -/
def srcOf (n : Nat) (h : Bool) : Src := if n < 384 then .v (vreg n) h else .s (sreg n)
/-- The destination a designator names. -/
def regOf (n : Nat) : Reg := if n < 384 then .v (vreg n) else .s (sreg n)

def Enc.sa (e : Enc) : Src := srcOf e.a e.ha
def Enc.sb (e : Enc) : Src := srcOf e.b e.hb
def Enc.sc (e : Enc) : Src := srcOf e.c e.hc
def Enc.va (e : Enc) : VSrc := ⟨vreg e.a, e.ha⟩
def Enc.vb (e : Enc) : VSrc := ⟨vreg e.b, e.hb⟩

/-- The index of a memory operand, its immediate in extension word k. -/
def Enc.idx (e : Enc) (k : Nat) : Idx :=
  match e.m 0 2 with
  | 0 => .none
  | 1 => .v e.vb
  | 2 => .s (sreg e.b)
  | _ => .imm (w32 (e.x k))

/-- The value operand of a memory instruction: c when ix is 1 or 2, else b (R153). -/
def Enc.val (e : Enc) : Src := if (e.m 0 2) = 1 ∨ (e.m 0 2) = 2 then e.sc else e.sb

/-- The uniform value operand of a memory instruction. -/
def Enc.sval (e : Enc) : SReg := if (e.m 0 2) = 1 ∨ (e.m 0 2) = 2 then sreg e.c else sreg e.b

/-- The lane operand of V2S, S2V and VLANE. -/
def Enc.lane (e : Enc) : LaneSel :=
  match e.m 6 2 with
  | 0 => .imm (Fin.ofNat 64 e.mod)
  | 1 => .reg (sreg e.b) (Fin.ofNat 64 e.mod)
  | _ => .first

/-- The operands of CPY and CPYRD. -/
def Enc.cpy (e : Enc) : CpyArgs :=
  { pL := preg e.mod, ord := e.bit 3, aT := areg e.d, aR := areg e.a, sC := sreg e.b, aB := areg e.c,
    notify := if e.bit 4 then some ⟨areg (e.x 0), sreg (e.x 0 / 32), e.bit 5⟩ else none }

/-- The operands of MLOOP. -/
def Enc.mloop (e : Enc) : MloopArgs :=
  { d := treg e.d,
    a := if e.bit 8 then .tile (treg e.a)
         else .ptr (areg e.a) (slot e.mod) (if e.bit 6 then some e.sc else none),
    bslot := slot (e.mod / 8), vb := vreg e.b, rc := e.bit 7, n1 := Fin.ofNat 256 (e.x 0),
    p := Fin.ofNat 256 (e.x 0 / 256), ra := BitVec.ofNat 24 (e.x 0 / 65536), ka := w32 (e.x 1),
    soa := sreg (e.x 1 / 2 ^ 32), sob := sreg (e.x 1 / 2 ^ 39) }

def fmtOf (e : Enc) : FFmt := FFmt.ofCode (e.m 0 1)
def rmOf (e : Enc) : Rm := Rm.ofCode (e.m 1 2)
def rmC (e : Enc) : Rm := Rm.ofCode (field e.c 0 2)

/-- Control 0x000 to 0x03F (Table 17-1). -/
def readControl (c : Ctl) (e : Enc) : Option Instr :=
  match e.op with
  | 0x001 => some (.nop c)
  | 0x002 => some (.exit c)
  | 0x003 => some (.bra c (w32 (e.x 0)))
  | 0x004 => some (.brc c (e.bit 0) (preg e.a) (w32 (e.x 0)))
  | 0x005 => some (.brx c e.sa)
  | 0x006 => some (.call c (w32 (e.x 0)))
  | 0x007 => some (.callx c e.sa)
  | 0x008 => some (.ret c)
  | 0x009 => some (.join c (JoinOp.ofCode (e.m 0 2)) (preg e.d))
  | 0x00A => some (.jwait c (preg e.a))
  | 0x00B => some (.reform c e.sa (BitVec.ofNat 48 (e.x 0)))
  | 0x00C => some (.reorder c (e.bit 0) e.va (BitVec.ofNat 48 (e.x 0)))
  | _ => none

/-- Scalar 0x040 to 0x0FF (Tables 10-7 and 12-9). -/
def readScalar (c : Ctl) (e : Enc) : Option Instr :=
  let d := sreg e.d; let a := sreg e.a; let b := sreg e.b; let w := e.bit 7
  match e.op with
  | 0x040 => some (.smov c (e.bit 0) d a)
  | 0x041 => some (.simm c d (w32 (e.x 0)))
  | 0x042 => some (.sadd c (Sat.ofCode (e.m 0 2)) w d a b)
  | 0x043 => some (.ssub c (Sat.ofCode (e.m 0 2)) w d a b)
  | 0x044 => some (.smul c d a b)
  | 0x045 => some (.smulh c (e.bit 0) d a b)
  | 0x046 => some (.smad c d a b (sreg e.c))
  | 0x047 => some (.sand c w d a b)
  | 0x048 => some (.sor c w d a b)
  | 0x049 => some (.sxor c w d a b)
  | 0x04A => some (.snot c w d a)
  | 0x04B => some (.sshl c w d a b)
  | 0x04C => some (.sshr c w d a b)
  | 0x04D => some (.ssar c w d a b)
  | 0x04E => some (.smin c (e.bit 0) w d a b)
  | 0x04F => some (.smax c (e.bit 0) w d a b)
  | 0x050 => some (.scmp c (CmpI.ofCode (e.m 0 3)) (e.bit 3) w (if e.bit 4 then .p (preg e.d) else .s d) a b)
  | 0x051 => some (.ssel c w d a b (sreg e.c))
  | 0x052 => some (.sdivu c (e.bit 0) w d a b)
  | _ => none

/-- Vector integer 0x100 to 0x1FF (Tables 10-7 and 12-3). -/
def readVector (c : Ctl) (e : Enc) : Option Instr :=
  let d := vreg e.d; let a := e.sa; let b := e.sb
  match e.op with
  | 0x100 => some (.vmov c (e.bit 0) d a)
  | 0x101 => some (.vimm c d (w32 (e.x 0)))
  | 0x102 => some (.vadd c (Sat.ofCode (e.m 0 2)) d a b)
  | 0x103 => some (.vsub c (Sat.ofCode (e.m 0 2)) d a b)
  | 0x104 => some (.vaddc c (e.bit 3) d (preg e.mod) a b (if e.bit 4 then none else some (preg e.c)))
  | 0x105 => some (.vmul c (e.bit 8) d a b)
  | 0x106 => some (.vmulh c (e.bit 0) d a b)
  | 0x107 => some (.vmad c (e.bit 8) d a b e.sc)
  | 0x108 => some (.vand c d a b)
  | 0x109 => some (.vor c d a b)
  | 0x10A => some (.vxor c d a b)
  | 0x10B => some (.vnot c d a)
  | 0x10C => some (.vshl c d a b)
  | 0x10D => some (.vshr c d a b)
  | 0x10E => some (.vsar c d a b)
  | 0x10F => some (.vmin c (e.bit 0) d a b)
  | 0x110 => some (.vmax c (e.bit 0) d a b)
  | 0x111 => some (.vabs c (e.bit 0) d a)
  | 0x112 => some (.vneg c (e.bit 0) d a)
  | 0x113 => some (.vclz c d a)
  | 0x114 => some (.vpopc c d a)
  | 0x115 => some (.vbfe c (e.bit 0) d a b)
  | 0x116 => some (.vbfi c d a b e.sc)
  | 0x117 => some (.vsel c d a b (preg e.c))
  | 0x118 => some (.vcmp c (CmpI.ofCode (e.m 0 3)) (e.bit 3) (preg e.d) a b)
  | _ => none

/-- Float 0x200 to 0x27F (Table 12-4). -/
def readFloat (c : Ctl) (e : Enc) : Option Instr :=
  let d := vreg e.d; let a := e.sa; let b := e.sb; let f := fmtOf e; let rm := rmOf e
  match e.op with
  | 0x200 => some (.vfadd c f rm (e.bit 8) d a b)
  | 0x201 => some (.vfsub c f rm d a b)
  | 0x202 => some (.vfmul c f rm (e.bit 8) d a b)
  | 0x203 => some (.vfma c f rm (e.bit 4) (e.bit 5) (e.bit 8) d a b e.sc)
  | 0x204 => some (.vfmin c f d a b)
  | 0x205 => some (.vfmax c f d a b)
  | 0x206 => some (.vfcmp c f (CmpF.ofCode (e.m 4 3)) (preg e.d) a b)
  | 0x207 => some (.vrcp c rm d a)
  | 0x208 => some (.vrsq c rm d a)
  | 0x209 => some (.vsqrt c f rm d a)
  | 0x20A => some (.vexp2 c d a)
  | 0x20B => some (.vlog2 c d a)
  | 0x20C => some (.vsin c d a)
  | 0x20D => some (.vcos c d a)
  | 0x20E => some (.vldexp c f rm d a b)
  | _ => none

/-- Conversion 0x280 to 0x2BF (Tables 11-6 and 11-8). -/
def readConvert (c : Ctl) (e : Enc) : Option Instr :=
  let d := vreg e.d; let a := e.va; let rm := rmC e; let ns := e.bit 8
  match e.op with
  | 0x280 => some (.vcvt c (CvtFmt.ofCode (e.m 0 4)) (CvtFmt.ofCode (e.m 4 4)) rm ns d a)
  | 0x281 =>
    match e.m 0 2 with
    | 0 => some (.vpack c (.h2 (e.bit 2) rm ns d a e.vb))
    | 1 => some (.vpack c (.b4 (B4Fmt.ofCode (e.m 2 2)) rm ns d a))
    | _ => some (.vpack c (.blk rm ns d (sreg e.b) a (slot (e.mod / 4))))
  | 0x282 =>
    match e.m 0 2 with
    | 0 => some (.vunpk c (.h2 (e.bit 2) d a))
    | 1 => some (.vunpk c (.b4 (B4Fmt.ofCode (e.m 2 2)) d a))
    | _ => some (.vunpk c (.blk d a (sreg e.b) (slot (e.mod / 4))))
  | 0x283 => some (.vrnd c (fmtOf e) rm d a)
  | 0x284 => some (.vclass c (ClassFmt.ofCode (e.m 0 3)) d a)
  | _ => none

/-- Lane exchange and predicates 0x2C0 to 0x2FF (Table 10-7). -/
def readLanes (c : Ctl) (e : Enc) : Option Instr :=
  let d := vreg e.d; let a := e.va; let w := Seg.ofCode (e.m 6 3)
  match e.op with
  | 0x2C0 => some (.v2s c e.lane (sreg e.d) a)
  | 0x2C1 => some (.s2v c e.lane d (sreg e.a))
  | 0x2C2 => some (.vlane c e.lane d a)
  | 0x2C3 =>
    match e.m 0 2 with
    | 0 => some (.vshfl c (.idx e.vb) w d a)
    | m => some (.vshfl c (.by (ShflMode.ofCode m) (if e.bit 2 then .imm (Fin.ofNat 64 e.c) else .reg (sreg e.b))) w d a)
  | 0x2C4 => some (.vrot c w d a (if e.bit 2 then .imm (Fin.ofNat 64 e.c) else .reg (sreg e.b)))
  | 0x2C5 => some (.vballot c (sreg e.d) (preg e.a))
  | 0x2C6 => some (.vredu c (RedOp.ofCode (e.m 0 4)) w (regOf e.d) a)
  | 0x2C7 => some (.vscan c (RedOp.ofCode (e.m 0 4)) (e.bit 4) w d a)
  | 0x2C8 => some (.pand c (e.bit 0) (e.bit 1) (preg e.d) (preg e.a) (preg e.b))
  | 0x2C9 => some (.por c (e.bit 0) (e.bit 1) (preg e.d) (preg e.a) (preg e.b))
  | 0x2CA => some (.pxor c (e.bit 0) (e.bit 1) (preg e.d) (preg e.a) (preg e.b))
  | 0x2CB => some (.pnot c (preg e.d) (preg e.a))
  | 0x2CC =>
    match e.m 0 3 with
    | 0 => some (.pmov c (.pp (preg e.d) (preg e.a)))
    | 1 => some (.pmov c (.ps (preg e.d) (sreg e.a)))
    | 2 => some (.pmov c (.sp (sreg e.d) (preg e.a)))
    | 3 => some (.pmov c (.pv (preg e.d) a))
    | _ => some (.pmov c (.vp d (preg e.a)))
  | 0x2CD => if e.bit 0 then some (.pcnt c (.below d (preg e.a))) else some (.pcnt c (.count (sreg e.d) (preg e.a)))
  | _ => none

/-- Memory 0x300 to 0x307 (Table 7-3). -/
def readMemory (c : Ctl) (e : Enc) : Option Instr :=
  let p := areg e.a; let n := Cnt.ofCode (e.m 2 2); let h := Hint.ofCode (e.m 6 2)
  match e.op with
  | 0x300 => some (.ld c n (e.bit 4) h (regOf e.d) p (e.idx 0))
  | 0x301 => some (.st c n (e.bit 4) (e.bit 5) h p (e.idx 0) e.val)
  | 0x302 => some (.atom c (AtomOp.ofCode (e.m 2 4)) (if e.bit 6 then some (regOf e.d) else none) p (e.idx 0) e.val)
  | 0x303 => some (.atomf c (AtomfOp.ofCode (e.m 2 4)) (if e.bit 6 then some (regOf e.d) else none) p (e.idx 0) e.val)
  | 0x304 => some (.waita c (WaitCmp.ofCode (e.m 2 2)) (preg e.d) p (e.idx 1) e.sval (w32 (e.x 0)))
  | 0x305 => some (.pref c (PrefLevel.ofCode (e.m 2 2)) (e.bit 4) p (e.idx 0))
  | 0x306 => some (.cmo c (CmoOp.ofCode (e.m 0 2)) (CmoLevel.ofCode (e.m 2 2)) p)
  | 0x307 => some (.locq c (sreg e.d) p (sreg e.b))
  | _ => none

/-- Pointers 0x310 to 0x318 (Table 5-5). -/
def readPointer (c : Ctl) (e : Enc) : Option Instr :=
  let d := areg e.d; let p := areg e.a
  match e.op with
  | 0x310 => some (.pmake c d (sreg e.a))
  | 0x311 => some (.psub c d p (if e.bit 0 then .imm (BitVec.ofNat 39 (e.x 0)) (BitVec.ofNat 39 (e.x 1))
                                else .reg (sreg e.b) (sreg e.c)))
  | 0x312 => some (.padv c d p (if e.bit 0 then .imm (BitVec.ofNat 39 (e.x 0)) else .reg (sreg e.b)))
  | 0x313 => some (.pget c (PgetForm.ofCode (e.m 0 3)) (sreg e.d) p)
  | 0x314 => some (.psetf c d p (if e.bit 0 then .swz (BitVec.ofNat 3 (e.x 0)) else .code (BitVec.ofNat 6 (e.x 0))))
  | 0x315 => some (.pclass c (PClass.ofCode (e.m 0 2)) d p)
  | 0x316 => some (.pchk c (e.bit 0) (Cnt.ofCode (e.m 1 2)) (preg e.d) p e.sb)
  | 0x317 => some (.narrow c (NarrowTo.ofCode (e.m 0 2)) d p)
  | 0x318 => some (.widen c (WidenTo.ofCode (e.m 0 3)) d p)
  | _ => none

/-- Copies and queues 0x340 to 0x37F (Table 8-2, R188, R194). -/
def readCopy (c : Ctl) (e : Enc) : Option Instr :=
  match e.op with
  | 0x340 => if e.bit 6 then some (.cpySt c e.cpy) else some (.cpyLd c e.cpy)
  | 0x341 => some (.cpyrd c (CpyrdOp.ofCode (e.m 6 3)) e.cpy)
  | 0x342 => some (.ctest c (preg e.d) (areg e.a) (e.idx 0) e.sval)
  | 0x343 => some (.cwait c (preg e.d) (areg e.a) (e.idx 1) e.sval (w32 (e.x 0)))
  | 0x344 => some (.enq c (QWords.ofCode (e.m 0 2)) (preg e.d) (areg e.a) (sreg e.b))
  | 0x345 => some (.deq c (QWords.ofCode (e.m 0 2)) (sreg e.d) (areg e.a))
  | _ => none

/-- Matrix, adapter and provisional 0x380 to 0x3BF (Tables 13-2, 14-3 and 15-1). -/
def readMatrix (c : Ctl) (e : Enc) : Option Instr :=
  let d := treg e.d; let a := treg e.a
  match e.op with
  | 0x380 => some (.mloop c e.mloop)
  | 0x381 => some (.mzero c d)
  | 0x382 => some (.mload c d (areg e.a) (sreg e.b) (sreg e.c))
  | 0x383 =>
    match e.m 0 2 with
    | 0 => some (.mdrainReg c (vreg e.d) a)
    | 1 => some (.mdrainMem c (slot (e.mod / 4)) (Rm.ofCode (e.m 6 2)) (e.bit 5) (areg e.d) a (sreg e.b) (sreg e.c))
    | _ => some (.mdrainAdd c a (sreg e.b))
  | 0x384 => some (.tadd c d a (treg e.b) (sreg e.c))
  | 0x385 => some (.tscale c d a (sreg e.c))
  | 0x386 => some (.mstat c (sreg e.d) a)
  | 0x390 => if e.bit 0 then some (.aflush c .all) else some (.aflush c (.id (sreg e.a)))
  | 0x391 => if e.bit 0 then some (.apref c (.b (sreg e.a) (sreg e.b)))
             else some (.apref c (.a (sreg e.a) (sreg e.b) (Fin.ofNat 256 (e.mod / 2))))
  | 0x392 => if e.bit 0 then some (.astat c (.cache (sreg e.d))) else some (.astat c (.id (sreg e.d) (sreg e.a)))
  | 0x398 => some (.mpub c d (Fin.ofNat 16 e.mod))
  | 0x399 => if e.bit 0 then some (.settle c .all) else some (.settle c (.tile a))
  | 0x39A => some (.linq c (sreg e.d) a)
  | _ => none

/-- Fabric and scheduling 0x3C0 to 0x3DF (R360, Tables 16-5 and 20-6). -/
def readFabric (c : Ctl) (e : Enc) : Option Instr :=
  let d := sreg e.d
  match e.op with
  | 0x3C0 => some (.coll c (CollOp.ofCode (e.m 3 2)) (Fin.ofNat 16 (e.mod / 32)) (preg e.mod) (areg e.d) (areg e.a) (sreg e.b))
  | 0x3C1 => some (.nbr c (Fin.ofNat 4 e.mod) (e.bit 3) d (if e.bit 2 then .imm (w32 (e.x 0)) else .reg (sreg e.a)))
  | 0x3C2 => some (.rank c (RankSel.ofCode (e.m 0 3)) d)
  | 0x3C8 => some (.bar c)
  | 0x3C9 => some (.cbar c)
  | 0x3CA => some (.spawn c d (preg e.mod) (areg e.a))
  | 0x3CB => some (.cjoin c d)
  | 0x3CC => some (.sleep c (if e.bit 0 then .imm (w32 (e.x 0)) else .reg (sreg e.a)))
  | 0x3CD => some (.yield c)
  | _ => none

/-- System, trap and debug 0x3E0 to 0x3FF (Tables 23-4 and 26-4, R454). -/
def readSystem (c : Ctl) (e : Enc) : Option Instr :=
  match e.op with
  | 0x3E0 => some (.trap c (BitVec.ofNat 16 (e.x 0)))
  | 0x3E1 => some (.eret c)
  | 0x3E2 => some (.bkpt c (BitVec.ofNat 16 (e.x 0)))
  | 0x3E3 => some (.sread c (Fin.ofNat 512 e.mod) (regOf e.d))
  | 0x3E4 => some (.swrite c (Fin.ofNat 512 e.mod) (sreg e.a))
  | 0x3E8 => some (.mark c (BitVec.ofNat 16 (e.x 0)) e.sa)
  | 0x3E9 => some (.clk c (regOf e.d))
  | 0x3F0 => some (.ckpt c (sreg e.d))
  | _ => none

/-- The instruction that fields would name, read field by field; none where the opcode is not assigned (Table 3-8).
What it reads is checked by encoding it again. -/
def readFields (c : Ctl) (e : Enc) : Option Instr :=
  if e.op < 0x040 then readControl c e
  else if e.op < 0x100 then readScalar c e
  else if e.op < 0x200 then readVector c e
  else if e.op < 0x280 then readFloat c e
  else if e.op < 0x2C0 then readConvert c e
  else if e.op < 0x300 then readLanes c e
  else if e.op < 0x310 then readMemory c e
  else if e.op < 0x340 then readPointer c e
  else if e.op < 0x380 then readCopy c e
  else if e.op < 0x3C0 then readMatrix c e
  else if e.op < 0x3E0 then readFabric c e
  else readSystem c e

/-- The number of extension words an opcode and mod take (R48). -/
def extCount (op mod : Nat) : Nat :=
  let ix := if mod % 4 = 3 then 1 else 0
  if op = 0x003 ∨ op = 0x004 ∨ op = 0x006 ∨ op = 0x00B ∨ op = 0x00C then 1
  else if op = 0x041 ∨ op = 0x101 then 1
  else if op = 0x300 ∨ op = 0x301 ∨ op = 0x302 ∨ op = 0x303 ∨ op = 0x305 ∨ op = 0x342 then ix
  else if op = 0x304 ∨ op = 0x343 then 1 + ix
  else if op = 0x311 then (if mod % 2 = 1 then 2 else 0)
  else if op = 0x312 then mod % 2
  else if op = 0x314 then 1
  else if op = 0x340 ∨ op = 0x341 then mod / 16 % 2
  else if op = 0x380 then 2
  else if op = 0x3C1 then mod / 4 % 2
  else if op = 0x3CC then mod % 2
  else if op = 0x3E0 ∨ op = 0x3E2 ∨ op = 0x3E8 then 1
  else 0

/-- Table 3-9: the version-3 opcode and mod of a word of an older version. -/
def remap (ver op mod : Nat) : Option (Nat × Nat) :=
  if ver = 1 then
    if op < 0x080 then some (op, mod)
    else if op < 0x100 then some (op + 0x080, mod)
    else if op < 0x140 then some (op + 0x100, mod)
    else if op < 0x200 then some (op + 0x140, mod)
    else if 0x3C0 ≤ op then some (op, mod)
    else none
  else if ver = 2 then
    if (0x240 ≤ op ∧ op ≤ 0x246) ∨ op = 0x249 then some (op - 0x040, mod / 2 * 2 + 1)
    else if 0x200 ≤ op ∧ op ≤ 0x20E ∧ mod % 2 = 1 then none
    else some (op, mod)
  else some (op, mod)

/-- Table 3-10: the first version in which a version-3 opcode is available. -/
def opVersion (op : Nat) : Nat :=
  if op = 0x00C ∨ op = 0x307 ∨ op = 0x341 ∨ op = 0x344 ∨ op = 0x345 ∨ (0x390 ≤ op ∧ op < 0x3C0) ∨ op = 0x3C1 ∨ op = 0x3F0
  then 3
  else if op = 0x00B ∨ op = 0x281 ∨ op = 0x282 ∨ op = 0x303 ∨ op = 0x304 ∨ (0x316 ≤ op ∧ op ≤ 0x318) ∨ op = 0x340 ∨
      op = 0x342 ∨ op = 0x343 ∨ (0x380 ≤ op ∧ op ≤ 0x386) ∨ op = 0x3C0 ∨ op = 0x3C2 ∨ (0x3C9 ≤ op ∧ op ≤ 0x3CB)
  then 2
  else 1

/-- The number of extension words that a word of a kernel's version takes (R48, R70). -/
def extsOf (ver w : Nat) : Nat :=
  match remap ver (field w 52 10) (field w 0 9) with
  | some (op, mod) => extCount op mod
  | none => 0

/-- The modifier values that only version 3 has (R70). -/
def v3Only : Instr → Bool
  | .mloop _ x => x.rc || x.p != 0 || (match x.a with | .ptr _ _ (some _) => true | _ => false)
  | .vldexp _ f .. => f == .f64
  | _ => false

/-- The fields of an instruction word in a kernel's version (Table 3-2, R70). -/
def wordFields (ver w : Nat) (exts : List Nat) : Except DecodeError (Ctl × Enc) :=
  if wordKind w ≠ 0 then .error .wrongKind
  else match remap ver (field w 52 10) (field w 0 9) with
    | none => .error .unassignedOpcode
    | some (op, mod) =>
      if ver < opVersion op then .error .unassignedOpcode
      else .ok ({ dist := Fin.ofNat 8 (field w 49 3), fsel := field w 48 1 == 1 },
        { op, mod, d := field w 39 9, a := field w 30 9, b := field w 21 9, c := field w 12 9, hold := field w 9 3, exts })

/-- The checks on the instruction word, in the order of Table 3-7 (orders 4 and 5). -/
def checkWord (ver : Nat) (c : Ctl) (e : Enc) : Except DecodeError Instr :=
  match readFields c e with
  | none => .error .unassignedOpcode
  | some i =>
    match i.enc with
    | none => .error .unassignedOpcode
    | some e' =>
      if e'.mod ≠ e.mod then .error .reservedMod
      else if e'.d ≠ e.d ∨ e'.a ≠ e.a ∨ e'.b ≠ e.b ∨ e'.c ≠ e.c then .error .badField
      else if e'.hold ≠ e.hold ∨ (ver = 1 ∧ e.hold ≠ 0) then .error .badHold
      else if (ver = 1 ∧ c.fsel) ∨ i.wordOk = false then .error .illFormed
      else if ver < 3 ∧ v3Only i then .error .reservedMod
      else .ok i

/-- The checks on the extension words (order 6, R105). -/
def checkExts (i : Instr) (e : Enc) : Except DecodeError Instr :=
  match i.enc with
  | none => .error .unassignedOpcode
  | some e' =>
    if e'.exts ≠ e.exts then .error .badExt
    else if i.extOk then .ok i else .error .illFormed

/-- Decodes an instruction from its word and the payloads of its extension words. -/
def decodeInstr (ver w : Nat) (exts : List Nat) : Except DecodeError Instr := do
  let (c, e) ← wordFields ver w exts
  let i ← checkWord ver c e
  checkExts i e

/-- The checks on the instruction word alone, before its extension words are fetched, and their number. -/
def decodeHead (ver w : Nat) : Except DecodeError Nat := do
  let (c, e) ← wordFields ver w []
  let n := extCount e.op e.mod
  let _ ← checkWord ver c { e with exts := List.replicate n 0 }
  .ok n

/-- The instruction of a word whose extension words hold zeros: what the checks on the word alone see. -/
def decodeFront (ver w : Nat) : Except DecodeError Instr := do
  let (c, e) ← wordFields ver w []
  checkWord ver c { e with exts := List.replicate (extCount e.op e.mod) 0 }

/-- The payloads of the next n words, which must be extension words (R48). -/
def takeExts : Nat → List Nat → Except DecodeError (List Nat × List Nat)
  | 0, ws => .ok ([], ws)
  | _ + 1, [] => .error .badExt
  | n + 1, w :: ws =>
    if wordKind w ≠ 1 then .error .badExt
    else match takeExts n ws with
      | .ok (xs, rest) => .ok (w % 2 ^ 62 :: xs, rest)
      | .error e => .error e

/-- Decodes the instruction at the front of a list of words, and gives the words after it. -/
def decode (ver : Nat) : List Nat → Except DecodeError (Instr × List Nat)
  | [] => .error .wrongKind
  | w :: ws => do
    let n ← decodeHead ver w
    let (xs, rest) ← takeExts n ws
    let i ← decodeInstr ver w xs
    .ok (i, rest)

/-- The 64-bit words of a little-endian run of bits, the first at the lowest address. -/
def wordsOfBits (n w : Nat) : List Nat := (List.range n).map (fun k => field w (64 * k) 64)

/-- The host's question: the instruction the decoder reads from the words that hold the bits of w, in version 3. -/
def decodeTableWord (nbits w : Nat) : Option Instr :=
  match decode 3 (wordsOfBits 3 (w % 2 ^ nbits)) with
  | .ok (i, _) => some i
  | .error _ => none

end Sys2Proof
end

