-- ==== Sys2Proof/Config.lean ====
section
/-! DEFINITION. What the spec leaves open: the free values of the model, none of which has a value that Lean can see. -/

namespace Sys2Proof

/-- The free value number `i` of step `tick`: an old or a new value read early (R55, R58), a race's outcome (R184), a
faithful transcendental's bracket (R277), a place the device may choose. Nothing constrains it. -/
opaque Config.free (tick i : Nat) : Nat

/-- Which of the moves open at step `tick` the machine makes (R180, R392, R396: agents that no rule orders). -/
opaque Config.pick (tick : Nat) : Nat

/-- The nanoseconds of the global timestamp that step `tick` takes (R433). -/
opaque Config.elapse (tick : Nat) : Nat

/-- The controller's symbol code over a sector's data and the low half of its side band (R83, R84): only its strength binds. -/
opaque Config.symbolCode (data : List Byte) (low : Nat) : Nat

/-- The integrity tag of a sector, by its number, key version and interface, over the ciphertext of its data (R83). -/
opaque Config.integrityTag (sec kver vif : Nat) (data : List Byte) : Nat

/-- The bytes of a channel's remap and swap tables as their master holds them, and where in a channel's reserved region the master of another's
lies: the 32-byte sector it begins at (R78, R92). -/
opaque Config.masterImage (tables : List (Nat × Nat)) : List Byte
opaque Config.masterSector (chan : Nat) : Nat

/-- The host page that the host's translation service gives for an untranslated page of an interface's function (R448). -/
opaque Config.atsPage (vif page : Nat) : Nat

/-- The features the device offers an interface (R450, Table 27-4); bits 13 and up are never offered. -/
opaque Config.offer (vif : Nat) : BitVec 128

/-- The endpoint number the fabric manager fixed for this device (R347). -/
opaque Config.endpoint : Nat

/-- Whether a firmware image's signature verifies under the fused key (R458). -/
opaque Config.verifies (image : List Byte) : Bool

/-- The frequency in MHz that a core's predictor chooses at step `tick` (R459). -/
opaque Config.predict (tick core : Nat) : Nat

end Sys2Proof
end

