-- ==== Sys2Proof/Machine/State.lean ====
section
/-! DEFINITION. The machine's state, its faults and its refusals: plain data that holds every piece of state the spec
gives the K4, and the state after a device reset. INVENTORY.md lists each piece with its rule. -/

namespace Sys2Proof.Machine

open Sys2Proof

/-- A map keyed by number, its keys rising. An absent key reads as the default its user names. -/
abbrev Sparse (α : Type) := List (Nat × α)

/-- A vector register's 64 lanes, lane 0 first; a missing lane reads 0. -/
abbrev Row := List Word

/-! ### Traps -/

/-- The trap causes (Table 23-1). -/
inductive Cause where
  | illegal | badtgt | bounds | cls | scope | xlate | access | align | fpe | softerr | memerr | bkpt | step | watch
  | trapi | noret | jlive | atomlog | adir | fabric | timeout
  deriving DecidableEq, Repr, Inhabited

/-- Prefix state: the sampled mask, the pattern, the number of covered instructions and the position (R64). -/
structure Pfx where
  mask : Lanes
  pattern : BitVec 8
  len : Nat
  pos : Nat
  deriving DecidableEq, Repr, Inhabited

/-- The clause a fragment is in: its header's and its end's offsets and its declared flags (Table 3-4). -/
structure Clause where
  head : Nat
  stop : Nat
  flagA : Option (Fin 12)
  flagB : Option (Fin 12)
  yld : Bool
  deriving DecidableEq, Repr, Inhabited

/-- Where a fragment stands: its PC, its clause and its prefix state. -/
structure FragAt where
  pc : Nat
  clause : Option Clause := none
  pfx : Option Pfx := none
  deriving DecidableEq, Repr, Inhabited

/-- One trap: what its frame reports (Table 23-2). -/
structure Trap where
  cause : Cause
  lanes : Lanes := 0
  info : BitVec 64 := 0
  rank : Nat := 0
  prec : Bool := true
  eng : Bool := false
  tpc : Nat := 0
  fpx : BitVec 5 := 0
  /-- The issue number of the trapping entry, for a completion trap. -/
  entry : Option Nat := none
  /-- The issue number of the instruction it is reported for. -/
  seq : Nat := 0
  /-- The saved PC is the next word's: TRAP, BKPT and a completion trap (R414). -/
  after : Bool := false
  /-- The step in which it arose (R417). -/
  arose : Nat := 0
  /-- The word that it is reported at, where the fragment stands before it (R67). -/
  at_ : Option FragAt := none
  /-- The first add whose second add was dropped, for the FABRIC trap that reports it (R339). -/
  resend : Option Nat := none
  deriving DecidableEq, Repr, Inhabited

/-- The operands a replay entry captured, by field: the registers each field names, in order (R422). -/
structure Ops where
  a : List Row := []
  b : List Row := []
  c : List Row := []
  deriving DecidableEq, Repr, Inhabited

/-- A replay entry (Table 23-3). `ops` holds every register a field reads, of which a frame shows the first two. -/
structure Entry where
  seq : Nat
  word : Nat
  exts : List Nat
  lanes : Lanes
  ops : Ops
  flag : Option (Fin 12)
  peer : Option Nat := none
  skip : Bool := false
  mtx : Bool := false
  last : Nat := 511
  pend : Lanes := 0
  tpc : Nat := 0
  /-- A reserved bit of it was set when ERET read it: a double trap when its turn comes (R423). -/
  bad : Bool := false
  /-- The answer that a peer entry waits for acquires, at this scope (R130, R208). -/
  acq : Option Nat := none
  deriving DecidableEq, Repr, Inhabited

/-! ### Registers -/

/-- A register that an instruction writes, with the value. -/
inductive Res where
  | v (r : Nat) (lanes : Lanes) (vals : Row)
  | s (r : Nat) (x : Word)
  | a (r : Nat) (x : PtrBits)
  | p (r : Nat) (lanes bits : Lanes)
  deriving DecidableEq, Repr

/-- A register's older value, readable while a fixed latency runs (R58). -/
structure Young where
  old : Res
  left : Nat
  deriving DecidableEq, Repr

/-- A rejoin register: expected and arrived masks and the wait PC (R374, R375). -/
structure Rejoin where
  expected : Lanes := 0
  arrived : Lanes := 0
  wpc : Option Nat := none
  deriving DecidableEq, Repr, Inhabited

/-- An operand latch: the registers it captured (R221). -/
structure Latch where
  reg : Nat
  rows : List Row
  deriving DecidableEq, Repr, Inhabited

/-- What an issued, unfinished instruction waits for. -/
inductive Doing where
  /-- It may complete at any time. -/
  | ready
  /-- A tile instruction, finished by its quad. -/
  | quad
  /-- A response from a peer or the host. -/
  | response (id : Nat)
  /-- A collective's instance. -/
  | coll (ch : Nat)
  /-- The adapter cache drops the chunks of an id, or of all ids, once they are unpinned (R326). -/
  | aflush (id : Option Nat)
  /-- A remote tile add. -/
  | tileAdd (id : Nat)
  /-- It has ended in a trap that its fragment has yet to take. -/
  | trapping
  deriving DecidableEq, Repr, Inhabited

/-- An issued instruction that has not finished: its entry, the fragment that issued it, its results, its sticky
exceptions and the trap it ends in. -/
structure Pend where
  entry : Entry
  frag : Lanes
  res : List Res := []
  /-- Lanes of each result that another write has raced (R55). -/
  raced : List Lanes := []
  sticky : BitVec 5 := 0
  trap : Option Trap := none
  doing : Doing := .ready
  /-- A watchpoint it touched, with the lowest byte (R443). -/
  watch : Option Nat := none
  /-- Its answer acquires, at this scope (R130, R208). -/
  acq : Option Nat := none
  /-- It acts on registers only, so a trap may make it an entry (R415). -/
  regOnly : Bool := false
  /-- It has only read memory, so it may run again where a translation fault sends it to the replay queue (R124). -/
  again : Bool := false
  /-- The unanswered fault records of a tile instruction, for which its group sleeps (R302, R461). -/
  tags : List Nat := []
  /-- It has begun its access, or an engine has accepted it, and it sets no flag: it no longer counts among the 16. -/
  counted : Bool := true
  /-- An instruction of fixed latency whose residue check fails: the clocks until the check ends (R285). -/
  soft : Option Nat := none
  /-- The lanes whose threads had exited before it issued: what it brings them is not discarded (R56, R306). -/
  gone : Lanes := 0
  /-- The lanes of an atomic that were performed before a lane whose word is poison: the watchpoint that they touched stays due (R164,
  R441). -/
  hit : Lanes := 0
  deriving DecidableEq, Repr, Inhabited

/-! ### Fragments and groups -/

/-- The window that a scratch pointer names: its block and the core position in it (R146, R191). -/
structure Spot where
  b : BRef
  pos : Nat
  deriving DecidableEq, Repr, Inhabited

/-- A word that WAITA, CWAIT and evicted blocks test: its pointer, element index and comparison (R169, R189). -/
structure Test where
  ptr : PtrBits
  idx : Int
  cmp : WaitCmp
  /-- CWAIT's test: every bit of the mask set. -/
  all : Bool
  /-- The window that a scratch pointer named as the instruction issued, whose place moves with its block (R192). -/
  spot : Spot
  v : Word
  mask : Word
  t0 : Nat
  timeout : Nat
  lastTest : Nat
  /-- How many tests have been made, and the peer request that the present one waits for. -/
  tests : Nat := 0
  req : Option Nat := none
  d : PReg
  act : Lanes
  /-- The instruction, for a trap that ends it, and where it stood, for a precise one. -/
  entry : Entry
  stand : Option FragAt := none
  deriving DecidableEq, Repr

/-- Why a fragment does not run (R368, Table 20-4). -/
inductive Wait where
  | no
  | jwait (k : JReg)
  /-- At a REFORM: each lane's target and the granule mask. -/
  | reform (targets : List Nat) (mask : BitVec 48)
  /-- At a REORDER: its PC, the next PC, its key register and the granule mask (R383). -/
  | reorder (pc npc : Nat) (sgn : Bool) (key : Nat) (mask : BitVec 48)
  | sleep (until_ : Nat)
  | bar
  | cbar
  | cjoin (d : SReg)
  /-- At a DEQ: the queue's pointer and its header's place, when it reached the home L2, and the instruction (R195). -/
  | deq (ptr : PtrBits) (key k : Nat) (d : SReg) (order : Nat) (entry : Entry) (stand : Option FragAt)
  | test (t : Test)
  /-- Asleep on translation faults: the unanswered tags with the lanes each one holds, and what a Fail answer left: the
  lanes, whether no mapping exists, and the address (R124, R125). A fetch names the word that it could not fetch (R67, R75). -/
  | fault (tags : List (Nat × Lanes)) (failed : Lanes) (noMap : Bool) (va : Nat) (at_ : Option FragAt := none)
  deriving DecidableEq, Repr

/-- A trap frame as the core wrote it: the fields ERET takes from it whatever memory holds (R421). -/
structure Frame where
  trap : Trap
  pc : Nat
  frag : Lanes
  sibs : Lanes
  pfx : Option Pfx
  clause : Option Clause
  entries : List Entry
  time : Nat
  /-- What the fragment slept on when it took the trap: it sleeps on it again after ERET. -/
  wait : Wait := .no
  /-- The group's issue number at the trap: what has a lower one was issued before it. -/
  since : Nat := 0
  deriving DecidableEq, Repr

/-- A fragment (R365). -/
structure Frag where
  lanes : Lanes
  pc : Nat
  clause : Option Clause := none
  pfx : Option Pfx := none
  /-- The issue number of its last issue (R368). -/
  last : Nat := 0
  wait : Wait := .no
  /-- Completion and report traps it has yet to take, and a trap held behind a sibling's handler (R416, R417). -/
  traps : List Trap := []
  /-- Those that were pending when it entered its handler, to be taken after ERET (R416). -/
  kept : List Trap := []
  /-- Its replay entries, to be issued again before the word at `pc` (R415, R423). -/
  inject : List Entry := []
  handler : Bool := false
  /-- The frame of the trap it handles or stopped at. -/
  frame : Option Frame := none
  /-- The frame of the handler that a stop has interrupted (R441). -/
  under : Option Frame := none
  /-- The frame that ERET has returned from, while entries of it wait to be issued again: a double trap among them reports it (R419). -/
  came : Option Frame := none
  /-- It is asleep at a load that has been outstanding for more than 2 µs (Table 20-4). -/
  atLong : Bool := false
  /-- Stopped for the debugger; and due to stop at the next clause it starts (R441, R444). -/
  stopped : Bool := false
  allStop : Bool := false
  /-- It has issued an instruction since it started or resumed (Table 26-6). -/
  stepped : Bool := false
  deriving DecidableEq, Repr

/-- A group of 64 lanes (R213, R365). -/
structure Group where
  ref : GRef
  core : Nat
  part : Nat
  /-- The thread index that occupies each lane (R20, R227). -/
  threads : List (Option Nat)
  exited : Lanes := 0
  frags : List Frag := []
  v : Sparse Row := []
  s : Sparse Word := []
  a : Sparse PtrBits := []
  p : Sparse Lanes := []
  j : Sparse Rejoin := []
  flags : Sparse Nat := []
  latch : Sparse Latch := []
  young : List Young := []
  pend : List Pend := []
  fpstat : Word := 0
  adk : Word := 0
  adn : Word := 0
  thand : Word := 0
  tfp : PtrBits := 0
  dctl : Word := 0
  bpc : Sparse Word := []
  wadr : Sparse (BitVec 64) := []
  wctl : Sparse Word := []
  /-- The group's next issue number. -/
  seq : Nat := 0
  age : Nat := 0
  passedCount : Nat := 0
  yielded : Bool := false
  /-- It has retired (R377). -/
  retired : Bool := false
  deriving DecidableEq, Repr

/-! ### Blocks and launches -/

/-- A thread in a REFORM bin, with what it carries (R379, R380). -/
structure Filed where
  thread : Nat
  from_ : Nat
  rows : Sparse Word
  preds : Nat
  lk : Word
  mask : BitVec 48
  at_ : Nat
  deriving DecidableEq, Repr, Inhabited

/-- A bin of one core of a block. -/
structure Bin where
  core : Nat
  target : Nat
  threads : List Filed
  deriving DecidableEq, Repr, Inhabited

/-- The uniform registers of a group that supplied threads, kept for the groups drawn from its threads (R379). -/
structure Source where
  k : Nat
  s : Sparse Word
  a : Sparse PtrBits
  adk : Word
  adn : Word
  fpstat : Word
  deriving DecidableEq, Repr, Inhabited

/-- An entry of a block's ordered-atomics log (R167). -/
structure LogEntry where
  thread : Nat
  seq : Nat
  pa : Nat
  va : Nat
  op : AtomfOp
  v : Word
  spilled : Bool
  deriving DecidableEq, Repr

/-- Where a block stands. -/
inductive Place where | resident | evicted (ready : Bool) | exited
  deriving DecidableEq, Repr, Inhabited

/-- What a tile reports beside its elements (Tables 13-5 and 15-3). -/
structure TileInfo where
  radd : Nat := 0
  done : Nat := 0
  deriving DecidableEq, Repr, Inhabited

/-- A block that has been placed. -/
structure Block where
  ref : BRef
  place : Place := .resident
  cores : List Nat
  /-- Window bytes, keyed by 2^21 times the core position plus the swizzled offset (R145, R146). -/
  window : Sparse Byte := []
  /-- The poisoned sectors of the windows: keys divided by 32 (R85). -/
  winPoison : List Nat := []
  /-- Tile elements, keyed by gang, tile, row and column (R286). -/
  tiles : Sparse Word := []
  tileInfo : Sparse TileInfo := []
  bins : List Bin := []
  sources : List Source := []
  log : List LogEntry := []
  children : List Nat := []
  badChildren : Nat := 0
  placedAt : Nat := 0
  /-- The block's groups while it is evicted (Table 20-5). -/
  saved : List Group := []
  deriving DecidableEq, Repr, Inhabited

/-- A format slot as the launch gives it (Tables 2-5 and 11-4). -/
structure SlotInfo where
  fmt : Nat
  scale : Nat
  sptr : PtrBits
  deriving DecidableEq, Repr, Inhabited

/-- The kernel header (Table 2-5). -/
structure KHeader where
  version : Nat := 3
  vgran : Nat := 1
  tiles : Nat := 0
  scratch : Nat := 0
  fmtmask : Nat := 0
  adir : Bool := false
  tdims : Nat := 0
  codelen : Nat := 0
  entry : Nat := 0
  trapent : Nat := 0
  dataoff : Nat := 0
  datalen : Nat := 0
  adids : Nat := 0
  extents : List Nat := []
  slots : Nat := 0
  deriving DecidableEq, Repr, Inhabited

/-- The lane-cycle record of a launch (R435, R436). -/
structure LaneRec where
  starts : List Nat
  counters : Sparse Nat
  deriving DecidableEq, Repr, Inhabited

/-- A started launch (Tables 16-2, 20-1 and 20-2). -/
structure Launch where
  id : Nat
  vif : Nat
  ctx : Nat
  /-- The block and launch that spawned it. -/
  parent : Option BRef := none
  depth : Nat := 0
  prio : Nat := 0
  queue : Nat := 15
  seq : Nat := 0
  startedAt : Nat := 0
  readCtx : Nat := 0
  hdr : KHeader
  image : PtrBits := 0
  /-- Where its interface's virtual mesh lay when it started: a mesh set later does not move it (R18, R19). -/
  mx : Nat := 0
  my : Nat := 0
  ox : Nat := 0
  oy : Nat := 0
  w : Nat := 1
  h : Nat := 1
  shape : Nat := 0
  pit : Bool := false
  pxl : Nat := 0
  pyl : Nat := 0
  flush : Bool := false
  ord : Bool := false
  resid : Bool := false
  fpen : BitVec 5 := 0
  /-- Where its record lies, from which each instruction reads the trap enables (R262). -/
  recAt : Option Nat := none
  ageLimit : Nat := 256
  nblk : Nat := 1
  thr : Nat := 1
  trapOff : Nat := 0
  adirPtr : PtrBits := 0
  logPtr : PtrBits := 0
  logUsed : Nat := 0
  stat : PtrBits := 0
  key : Nat := 0
  rank : Nat := 0
  team : Nat := 1
  extents : List Nat := []
  map : List Nat := []
  argsA : List PtrBits := []
  argsS : List Word := []
  slots : List SlotInfo := []
  /-- Blocks placed so far, in ascending index (R392). -/
  placed : Nat := 0
  exitedBlocks : Nat := 0
  /-- The status it will complete with. -/
  status : Nat := 1
  ending : Bool := false
  logsApplied : Bool := false
  statHeld : Option Nat := none
  statDone : Bool := false
  laneRec : Option LaneRec := none
  /-- COLL instances accepted on each channel (R362). -/
  collCount : Sparse Nat := []
  deriving DecidableEq, Repr, Inhabited

/-! ### Copies, quads, lineages, adapters, fabric -/

/-- What a copy does. -/
inductive CopyOp where | ld | st | rd (op : CpyrdOp)
  deriving DecidableEq, Repr

/-- A tensor layout record (Table 8-1). -/
structure Layout where
  tensor : PtrBits
  ndim : Nat
  size : List Nat
  stride : List Nat
  box : List Nat
  swz : Nat
  fill : Nat
  deriving DecidableEq, Repr, Inhabited

/-- The notify word of a copy (R182). -/
structure CopyNotify where
  ptr : PtrBits
  at_ : Spot
  v : Word
  add : Bool
  deriving DecidableEq, Repr, Inhabited

/-- An accepted copy (R179, R180). -/
structure Copy where
  id : Nat
  g : GRef
  /-- The leader's lane (R179). -/
  lead : Nat
  seq : Nat
  cluster : Nat
  vif : Nat
  ctx : Nat
  word : Nat
  tpc : Nat
  op : CopyOp
  ord : Bool
  lay : Layout
  coords : List Int
  tile : PtrBits
  tileAt : Spot
  bitmap : PtrBits
  bitmapAt : Spot
  notify : Option CopyNotify
  chunks : Nat
  /-- Chunks whose payload has landed, and those whose bit is set. -/
  moved : List Nat := []
  done : List Nat := []
  /-- Payload of chunks that waits for its block to start (R190): window keys with their bytes, none where poisoned. -/
  held : List (Nat × List (Nat × Option Byte)) := []
  /-- Chunks whose peer accesses have gone out. -/
  out : List Nat := []
  /-- Chunks held by a fault record: the chunk and the tag. -/
  susp : List (Nat × Nat) := []
  /-- The sectors beyond the scratchpads that each chunk has written (R91, R189). -/
  into : List (Nat × List Nat) := []
  deriving DecidableEq, Repr

/-- What a completion bit that an engine has set stands for (R189): its word's window and key, the bit, and the sectors that its chunk wrote
beyond the scratchpads, with the tensor's scope. -/
structure CopiedBit where
  b : BRef
  key : Nat
  bit : Nat
  scope : Nat
  secs : List Nat
  deriving DecidableEq, Repr

/-- An adapter's directory entry as an MLOOP read it (Table 14-1). -/
structure AdEnt where
  id : Nat
  gen : Nat
  rank : Nat
  alpha : Nat
  slot : Nat
  ldn : Nat
  aptr : PtrBits
  bptr : PtrBits
  deriving DecidableEq, Repr, Inhabited

/-- What a quad does for a tile instruction, with the operands captured at issue (R297, R301). -/
inductive TileJob where
  | mloop (x : MloopArgs) (aptr : PtrBits) (aslot bslot : SlotInfo) (soa sob : Int) (ids : List Nat) (ads : List AdEnt) (adk adn : Nat)
  | mzero (d : Nat)
  | mload (d : Nat) (p : PtrBits) (i : Int) (r : Nat)
  | drainReg (v a : Nat)
  | drainMem (fmt : Nat) (rm : Rm) (nosat : Bool) (p : PtrBits) (a : Nat) (i : Int) (r : Nat)
  | drainAdd (a : Nat) (t : BitVec 64)
  | tadd (d a b : Nat) (x y : Nat)
  | tscale (d a : Nat) (x : Nat)
  | mpub (d m : Nat)
  | settle (t : Option Nat)
  deriving DecidableEq, Repr

/-- A queued tile instruction. -/
structure TileOp where
  id : Nat
  g : GRef
  gang : Nat
  seq : Nat
  entry : Entry
  frag : Lanes
  job : TileJob
  /-- It has taken its place in the order; steps an MLOOP has completed. -/
  begun : Bool := false
  step : Nat := 0
  suspended : Bool := false
  /-- Rows whose adapter term is owed, those of them that are pending, and the ids whose missing chunks have been filled. -/
  owed : Lanes := 0
  rows : Lanes := 0
  filled : List Nat := []
  /-- The elements of u of the rows that hit, by 64 · row + q, as far as the steps have come (R313, R320). -/
  u : Sparse Word := []
  /-- The lineage tag its steps add to; whether it has published its tile itself; and a publication declined. -/
  delta : Option Nat := none
  published : Bool := false
  declined : Bool := false
  /-- A consumer that has had to wait for its sources to settle (R336). -/
  held : Bool := false
  /-- An MPUB that its gang's blocking point or EXIT has met in the queue: the number from which it counts no MLOOP (R334). -/
  closedAt : Option Nat := none
  /-- An MLOOP.at that has run and whose correction is still to be formed (R338). -/
  awaits : Bool := false
  /-- A target refused its first add (R339). -/
  refused : Bool := false
  /-- The peer request or the tile add that it waits for, and what a peer's memory held. -/
  sent : Option Nat := none
  data : Option (List (Option (List Byte))) := none
  /-- The run of B is still locked (R294). -/
  locked : Bool := false
  deriving DecidableEq, Repr

/-- A quad's queue of tile instructions. -/
structure Quad where
  core : Nat
  quad : Nat
  queue : List TileOp
  deriving DecidableEq, Repr

/-- A tile of a block on this device. -/
structure TileRef where
  b : BRef
  gang : Nat
  t : Nat
  deriving DecidableEq, Repr, Inhabited

/-- A tile add on its way (R308, R339): the other device it goes to, or the tile it adds to. -/
structure TileAdd where
  id : Nat
  g : GRef
  seq : Nat
  rank : Option Nat
  tgt : TileRef
  vals : Sparse Word
  kind : AddKind
  /-- The lineage it comes from: its core and tag. -/
  source : Option (Nat × Nat) := none
  /-- The peer request that it answers. -/
  src : Option (Nat × Nat) := none
  /-- The MDRAIN.add that it came from: its word and its offset, for the trap that reports a failure (R308, R353). -/
  word : Nat := 0
  tpc : Nat := 0
  /-- A key dropped it: it goes again after the leader's ERET (R339). -/
  dropped : Bool := false
  /-- It is under way to a peer. -/
  out : Bool := false
  /-- The job key of a peer's request that it came in (R352). -/
  jobKey : Nat := 0
  deriving DecidableEq, Repr

/-- How a dependent is formed from its source (Table 15-2). -/
inductive SpurOp where
  | tscale (x : Nat)
  | tadd (x y a b : Nat)
  | mloop (op : Nat)
  /-- A remote dependent: the tile add that its first add was. -/
  | remote (first : TileAdd)
  deriving DecidableEq, Repr

/-- A spur entry (R330). -/
structure Spur where
  srcs : List Nat
  dst : Option Nat
  op : SpurOp
  depth : Nat
  /-- First adds that had landed on a remote target when it was formed. -/
  landed : Nat
  /-- A remote dependent: its first add has been performed, and its second has gone out. -/
  gone : Bool := false
  out : Bool := false
  /-- The correction formed; a second add that has been performed or dropped. -/
  corr : Option (Sparse Word) := none
  deriving DecidableEq, Repr

/-- A lineage of a core (R329 to R340). -/
structure Lineage where
  core : Nat
  tag : Nat
  root : TileRef
  remote : Bool
  /-- MLOOPs an MPUB still counts (R333, R334). -/
  opens : Nat
  delta : Sparse Word := []
  /-- Δ is complete and in the root. -/
  complete : Bool := false
  spurs : List Spur := []
  /-- For a remote target: the first adds in the order in which they landed, and the second adds. -/
  firsts : List (Nat × Nat) := []
  corrections : List ((Nat × Nat) × Sparse Word) := []
  deriving DecidableEq, Repr

/-- A chunk of a core's adapter cache (R318). -/
structure AChunk where
  core : Nat
  vif : Nat
  ctx : Nat
  dir : Nat
  id : Nat
  gen : Nat
  isB : Bool
  c : Nat
  bytes : List (Option Byte)
  /-- The MLOOPs that use it, and whether an AFLUSH drops it once none does (R318, R326). -/
  pins : List Nat
  doomed : Bool := false
  deriving DecidableEq, Repr, Inhabited

/-- A request this device has sent to a peer, or to the host, and not heard of (R355, R162). A host access names its
bytes by key. -/
structure Request where
  id : Nat
  g : GRef
  seq : Nat
  rank : Nat
  at_ : Nat
  host : Bool
  /-- The job key that its packets carry (R352). -/
  key : Nat := 0
  accs : List PeerAcc
  /-- The copy and the chunk, the tile instruction, or the tile add that it serves. -/
  chunk : Option (Nat × Nat) := none
  tileOp : Option Nat := none
  tileAdd : Option Nat := none
  /-- The interface and the checkpoint granule that it writes. -/
  ckpt : Option (Nat × Nat) := none
  /-- An answer that came while the instruction stood in a frame (R423). -/
  answer : Option PeerAnswer := none
  deriving DecidableEq, Repr

/-- A COLL this device has accepted (R363). -/
structure CollReq where
  ch : Nat
  inst : Nat
  g : GRef
  /-- The leader's lane. -/
  lead : Nat
  seq : Nat
  core : Nat
  op : CollOp
  fp : Bool
  n : Nat
  dst : PtrBits
  vals : List (Option Word)
  at_ : Nat
  deriving DecidableEq, Repr

/-- An entry of the device ports' membership tables (Table 16-3). -/
structure Member where
  valid : Bool := false
  key : Nat := 0
  vif : Nat := 0
  ctx : Nat := 0
  launch : Nat := 0
  lbound : Bool := false
  deriving DecidableEq, Repr, Inhabited

/-! ### Memory -/

/-- A byte a cache holds; the interface that owns a dirty byte's write (R126, R87). -/
structure CByte where
  val : Byte
  dirty : Bool
  vif : Nat
  deriving DecidableEq, Repr, Inhabited

/-- One cache level of one unit. -/
structure Cache where
  id : CacheId
  bytes : Sparse CByte
  poison : List Nat
  /-- Of its poisoned sectors, those whose poison was written here and has yet to go on to the next level, with the interface that
  owns the write (R85, R126). -/
  bad : List (Nat × Nat) := []
  /-- Words owned by the core, in an L1 (R129). -/
  owned : List Nat := []
  deriving DecidableEq, Repr

/-- An owned word registered at a point. -/
structure Owner where
  point : CacheId
  word : Nat
  core : Nat
  deriving DecidableEq, Repr

/-- A sector's side band (Table 4-3). -/
structure Band where
  kver : Nat
  vif : Nat
  poison : Bool
  /-- What the code finds in the stored symbols: 0 no error, 1 one that it corrects, 2 one that it detects only (R84). -/
  code : Nat := 0
  /-- What the tag was formed over: the sector's number, its kver and its vif. -/
  tag : Nat × Nat × Nat
  /-- A reset of the interface has replaced the keys under which the sector was encrypted: it answers with poison until it is overwritten,
  whatever its kver (R457). -/
  dead : Bool := false
  deriving DecidableEq, Repr, Inhabited

/-- A cached translation: in a core's or a cluster's TLB, or a table entry in a die's walk cache (Table 5-7). -/
structure Tlb where
  unit : CacheId
  vif : Nat
  ctx : Nat
  /-- The level of the entry, 6 for a 64 KiB page, and the address bits above its page's offset. -/
  level : Nat
  va : Nat
  entry : Nat
  deriving DecidableEq, Repr

/-- A miss-status entry of a core: its line and the sectors that it fills (R151). Of a core's entries, those beyond the 512th wait
in the memory pipeline for a free one. -/
structure Miss where
  core : Nat
  vif : Nat
  line : Nat
  secs : List Nat
  deriving DecidableEq, Repr, Inhabited

/-- A line of a core's instruction cache (R73). -/
structure ILine where
  core : Nat
  vif : Nat
  ctx : Nat
  line : Nat
  bytes : List Byte
  /-- Its poisoned sectors, 0 to 3 (R85). -/
  poison : List Nat := []
  deriving DecidableEq, Repr, Inhabited

/-- A snoop in flight to a die, from the home of its sector (R135, R137). -/
structure Snoop where
  src : Nat
  die : Nat
  sector : Nat
  at_ : Nat
  /-- A link's failure has moved it into the reroute channel (R139). -/
  moved : Bool := false
  deriving DecidableEq, Repr, Inhabited

/-- What a channel's row-remap and swap tables steer: each failed row or column with its spare (R92). -/
abbrev Remap := List (Nat × Nat)

/-- A memory channel (R91 to R94). -/
structure Chan where
  /-- The two copies of its tables in base-die SRAM, and the master; none where it cannot be read. -/
  copyA : Option Remap := some []
  copyB : Option Remap := some []
  master : Option Remap := some []
  /-- The channel of its die in whose reserved region the master lies, where a retirement has moved it. -/
  masterAt : Option Nat := none
  retired : Bool := false
  /-- Refresh intervals postponed, for each bank (R91). -/
  postponed : Sparse Nat := []
  deriving DecidableEq, Repr, Inhabited

/-! ### Interfaces and the host -/

/-- A fault record and who waits for it (Table 5-8). -/
structure FaultRec where
  tag : Nat
  vif : Nat
  ctx : Nat
  va : Nat
  kind : AccKind
  cause : Nat
  launch : Nat
  source : Nat
  die : Nat
  block : Nat
  time : Nat
  deriving DecidableEq, Repr

/-- A completion entry (Table 27-3). -/
structure Completion where
  time : Nat
  launch : Nat
  status : Nat
  queue : Nat
  seq : Nat
  /-- What a checkpoint's completion names: its poisoned granules (R453). The entry's 16 bytes give it no place. -/
  named : List Nat := []
  deriving DecidableEq, Repr, Inhabited

/-- An error record (Table 27-6). -/
structure ErrRec where
  time : Nat
  source : Nat
  kind : Nat
  launch : Nat
  arg : Nat
  /-- For kind 6, the frame and its group's number. -/
  frame : Option Frame := none
  group : Nat := 0
  deriving DecidableEq, Repr

/-- A trace record (Table 26-3). -/
structure TraceRec where
  time : Nat
  source : Nat
  kind : Nat
  name : Nat
  pc : Nat
  payload : Nat
  deriving DecidableEq, Repr, Inhabited

/-- A launch ring (Table 27-2). -/
structure LQueue where
  q : Nat
  k : Nat
  ctx : Nat
  entries : List Nat := []
  /-- The launch of the ring that has not completed, and the next entry's index. -/
  running : Option Nat := none
  next : Nat := 0
  deriving DecidableEq, Repr, Inhabited

/-- A checkpoint under way (R453). -/
structure Cut where
  seq : Nat
  todo : List Nat
  /-- Granules on their way to a peer. -/
  out : List Nat := []
  /-- Granules in which a poisoned sector has been found. -/
  poisoned : List Nat := []
  /-- Granules to write: those written before this cut. -/
  changed : List Nat
  /-- What a granule held at the cut, sector by sector, where a write has come to it since; none for a poisoned sector. -/
  held : List (Nat × List (Option (List Byte))) := []
  deriving DecidableEq, Repr, Inhabited

/-- A registered checkpoint set (R452). -/
structure CkptSet where
  regions : List (Nat × Nat)
  /-- The physical page of each 4 KiB of the set, in order. -/
  pages : List Nat
  dest : PtrBits
  dirty : List Nat
  cut : Option Cut := none
  lastSeq : Nat := 0
  /-- Sectors found at an older key version, for the patrol engine (R89). -/
  passed : List Nat := []
  deriving DecidableEq, Repr, Inhabited

/-- A virtual interface (Table 27-2). -/
structure Vif where
  weight : Nat := 16
  /-- What blocks that have left cores held lately: from when, until when, how many cores (R430). -/
  usage : List (Nat × Nat × Nat) := []
  /-- The watchdog: its limit, when it last started, and whether a block has moved since (R431). -/
  wdLimit : Nat := 0
  wdSince : Option Nat := none
  wdMoved : Bool := false
  accept : Option (BitVec 128) := none
  mx : Nat := 0
  my : Nat := 0
  mw : Nat := 8
  mh : Nat := 8
  queues : List LQueue := []
  roots : Sparse Nat := []
  ats : Bool := false
  faults : List FaultRec := []
  errors : List ErrRec := []
  events : List Completion := []
  kver : Nat := 0
  /-- The previous version is still held (R88). -/
  hasPrev : Bool := false
  poolBase : Nat := 0
  poolLen : Nat := 0
  ringBase : Nat := 0
  ringSlots : Nat := 0
  ringKinds : Nat := 0
  ringUsed : Nat := 0
  dropped : Nat := 0
  trace : List TraceRec := []
  debugger : Bool := false
  dbg : Sparse (BitVec 64) := []
  /-- The lane-cycle records of its launches that have completed, each with its final counters (R436). -/
  laneRecs : List (Nat × LaneRec) := []
  ckpt : Option CkptSet := none
  deriving DecidableEq, Repr, Inhabited

/-- What the device sends out of the package. -/
inductive Sent where
  | peer (id rank key : Nat) (accs : List PeerAcc)
  | answer (dst key id : Nat) (ans : PeerAnswer)
  | cancel (rank key id : Nat)
  | coll (ch inst key : Nat) (part : CollPart)
  | window (addr : Nat) (bytes : List Byte) (poison : Bool)
  | msix (vif queue : Nat)
  /-- The report that an interface's key rotation is complete (R88). -/
  | keys (vif kver : Nat)
  deriving DecidableEq, Repr

/-- The fragment whose instruction executes (set by the step before it runs an instruction). -/
structure Cur where
  g : GRef
  /-- The lowest lane of the fragment, which names it (R365). -/
  f : Nat
  act : Lanes
  pc : Nat
  npc : Nat
  word : Nat
  exts : List Nat
  /-- A predicate block covers the instruction. -/
  covered : Bool
  flagA : Option (Fin 12)
  flagB : Option (Fin 12)
  /-- The offset after the clause, the return address of a call (R372). -/
  after : Nat
  /-- A re-injected entry's captured operands and flag (R423). -/
  inj : Option (Ops × Option (Fin 12)) := none
  /-- The trap enables as the launch record in memory holds them now; none where it has no readable record (R262). -/
  fpen : Option (BitVec 5) := none
  /-- Where the fragment stood before the words that govern the instruction: where nothing issues it stands there again (R50, R61). -/
  was : Option FragAt := none
  /-- The passed counts and the yields of the groups eligible in this choice, as they stood before it (R397). -/
  passed : List (GRef × Nat × Bool) := []
  deriving DecidableEq, Repr

/-- What befalls the part and is no instruction: an error in a stored sector (1 correctable, 2 not; R84), in a copy of a channel's
tables (0 and 1 the SRAM copies, 2 the master; R93), and the end of the snoop filters' rebuilding (R136). -/
inductive Harm where
  | sector (sec code : Nat)
  | tables (die chan copy : Nat)
  | rebuilt
  deriving DecidableEq, Repr

/-- What moves next, where the outside or an agent of the part says so. -/
inductive Move where
  | event (i : Instr)
  | issue (core part : Nat)
  | harm (h : Harm)
  deriving DecidableEq, Repr

/-- The model's own: a soft error in a checked value: the lane, which of the lane's comparisons sees it, and the bit that it flips
(R284). -/
structure Strike where
  lane : Nat
  value : Nat
  bit : Nat
  deriving DecidableEq, Repr

/-- The machine. -/
structure State where
  /-- The model's own: the number of the step, which the free values are drawn by, and the moves already decided. -/
  tick : Nat := 0
  agenda : List Move := []
  cur : Option Cur := none
  /-- The model's own: what soft errors do to the values of the checks to come, one entry for each checked instruction or block;
  where no entry is left, nothing is struck (R284, R285). -/
  strikes : List (List Strike) := []
  /-- The global timestamp in nanoseconds (R433). -/
  time : Nat := 0
  /-- Numbers for launches, requests, records and copies. -/
  serial : Nat := 1
  groups : List Group := []
  blocks : List Block := []
  launches : List Launch := []
  copies : List Copy := []
  /-- What the copies have written for the completion bits that are set. -/
  landed : List CopiedBit := []
  quads : List Quad := []
  lineages : List Lineage := []
  tileAdds : List TileAdd := []
  chunks : List AChunk := []
  /-- MLOOP.ad misses: core, launch, id and count (Table 14-4). -/
  misses : List (Nat × Nat × Nat × Nat) := []
  requests : List Request := []
  /-- Requests from peers that wait for the driver, with their tags. -/
  peerWaits : List (PeerReq × Nat × Nat) := []
  colls : List CollReq := []
  members : List Member := List.replicate 64 {}
  portsFailed : List Nat := []
  sent : List Sent := []
  /-- Device memory: the plaintext of each byte, keyed by device physical address. -/
  hbm : List Host.Cell := []
  band : Sparse Band := []
  /-- Host memory, keyed by physical address. -/
  host : List Host.Cell := []
  caches : List Cache := []
  owners : List Owner := []
  snoops : List Snoop := []
  /-- Entries of the ridge ports' snoop filters: port and 1 KiB region; and whether the filters have been built since the last
  change of routes (R136). Snoops in flight stand in order for each pair of dies (R137). -/
  filters : List (Nat × Nat) := []
  filtersBuilt : Bool := true
  mshrs : List Miss := []
  tlbs : List Tlb := []
  /-- Invalidation commands that wait for accesses made under an old translation: interface, context and range (R123). -/
  invals : List (Nat × Nat × Nat × Nat) := []
  ilines : List ILine := []
  /-- The scratchpad split of each core, in steps of 128 KiB (R144). -/
  split : Sparse Nat := []
  /-- Each die's live channels (R79). -/
  live : List (List Nat) := List.replicate 4 (List.range 64)
  chans : Sparse Chan := []
  /-- The channels' reserved regions, beside the masters: the device's working data, under its own key 127; keyed by 2^25 times the
  channel's number in the package plus the offset (R78). -/
  reserved : List Host.Cell := []
  /-- The side bands of written reserved sectors, keyed by their number in `reserved`, and the version of the device's own key (R78, R86). -/
  reservedBand : Sparse Band := []
  devKver : Nat := 0
  /-- Corrected errors and writes into poisoned sectors, counted for each die (R84, R85). -/
  counters : Sparse Nat := []
  /-- The performance counters: dies 0 to 3, then ridge links 0 to 3 (R23). -/
  perf : Sparse Nat := []
  patrolHours : Nat := 24
  vifs : Sparse Vif := []
  /-- PF 0's error queue (R455) and completion reports. -/
  errors : List ErrRec := []
  /-- The window pages: page number, device physical address and interface (R447). -/
  windowPages : List (Nat × Nat × Nat) := []
  linksFailed : List Nat := []
  lostDies : List Nat := []
  failedDies : List Nat := []
  degraded : Bool := false
  fwVersion : Nat := 0
  fwMin : Nat := 0
  flash : FwImage := ⟨0, []⟩
  recovery : Bool := false
  powerLimit : Nat := 3300
  freq : Sparse Nat := []
  freqBounds : Sparse (Nat × Nat) := []
  deriving DecidableEq, Repr

/-- The state after a device reset: no launch, no block, no cached byte, empty queues, the reset values of the field maps
(04 R79, 05 Table 5-1, 16 Table 16-3, 23 R430, 26 R433, 27 Tables 27-4 and 27-7), and the values the log names where
the spec gives none. -/
def State.reset : State := {}

/-- Why the machine stops with no next state. -/
inductive Fault where
  /-- Raised by the meaning of an instruction word when no fragment issues it: the step always names one, so only a
  caller of exec on its own meets it. Safe. -/
  | noFragment
  deriving DecidableEq, Repr

/-- Why an instruction has no meaning in the model. -/
inductive Refusal where
  /-- Raised by Dispatch alone, for an instruction the model does not cover yet. Safe. -/
  | notModelled (mnemonic : String)
  deriving DecidableEq, Repr

end Sys2Proof.Machine
end

