-- ==== Sys2Proof/Machine/Sparse.lean ====
section
/-! DEFINITION. Maps keyed by number, lane masks and byte lists: the plain helpers of the machine. -/

namespace Sys2Proof.Machine

open Sys2Proof

/-- The value at a key. -/
def sget {α : Type} : Sparse α → Nat → Option α
  | [], _ => none
  | (i, x) :: r, k => if i = k then some x else sget r k

/-- The value at a key, or a default. -/
def sgetD {α : Type} (m : Sparse α) (k : Nat) (d : α) : α := (sget m k).getD d

/-- Sets a key, keeping the keys rising. -/
def sset {α : Type} : Sparse α → Nat → α → Sparse α
  | [], k, x => [(k, x)]
  | (i, y) :: r, k, x =>
    if k < i then (k, x) :: (i, y) :: r
    else if k = i then (k, x) :: r
    else (i, y) :: sset r k x

/-- Removes a key. -/
def sdel {α : Type} : Sparse α → Nat → Sparse α
  | [], _ => []
  | (i, y) :: r, k => if i = k then sdel r k else (i, y) :: sdel r k

/-- Sets a key in a map whose absent keys read `d`: writing `d` removes the key. -/
def sput {α : Type} [DecidableEq α] (d : α) (m : Sparse α) (k : Nat) (x : α) : Sparse α :=
  if x = d then sdel m k else sset m k x

/-- The keys rise. -/
def sortedKeys {α : Type} : Sparse α → Bool
  | [] => true
  | [_] => true
  | (i, _) :: (j, y) :: r => decide (i < j) && sortedKeys ((j, y) :: r)

/-- The one form of a memory: addresses rising, and no entry equal to the 0 that an unlisted byte holds. -/
def Memory.wf (m : List Host.Cell) : Bool := sortedKeys m && m.all (fun c => c.2 != 0)

/-- A memory byte. -/
def Memory.read (m : List Host.Cell) (a : Nat) : Byte := sgetD m a 0

/-- Writes a memory byte. -/
def Memory.write (m : List Host.Cell) (a : Nat) (x : Byte) : List Host.Cell := sput 0 m a x

/-- Writes bytes from an address up. -/
def Memory.writes : List Host.Cell → Nat → List Byte → List Host.Cell
  | m, _, [] => m
  | m, a, x :: xs => Memory.writes (Memory.write m a x) (a + 1) xs

/-- `n` bytes from an address up. -/
def Memory.reads (m : List Host.Cell) (a n : Nat) : List Byte := (List.range n).map (fun k => Memory.read m (a + k))

/-! ### Lane masks -/

/-- The bits below `n` that a predicate sets. -/
def bitsNat (p : Nat → Bool) : Nat → Nat
  | 0 => 0
  | n + 1 => bitsNat p n + (if p n then 2 ^ n else 0)

/-- A lane mask from a predicate. -/
def mkLanes (p : Nat → Bool) : Lanes := BitVec.ofNat 64 (bitsNat p 64)

/-- Every lane. -/
def allLanes : Lanes := BitVec.ofNat 64 (2 ^ 64 - 1)

/-- The lanes of a mask, ascending. -/
def lanesOf (m : Lanes) : List Nat := (List.range 64).filter (fun l => m.getLsbD l)

/-- The lowest lane of a mask; 64 for none. -/
def lowest (m : Lanes) : Nat := ((lanesOf m).head?).getD 64

/-- How many lanes a mask has. -/
def popCount (m : Lanes) : Nat := (lanesOf m).length

/-- One lane. -/
def oneLane (l : Nat) : Lanes := BitVec.ofNat 64 (2 ^ l)

/-- A row from a function of the lane. -/
def mkRow (f : Nat → Word) : Row := (List.range 64).map f

/-- A lane of a row. -/
def Row.at (r : Row) (l : Nat) : Word := r.getD l 0

/-! ### Bytes and words -/

/-- The number that little-endian bytes hold (R3). -/
def leNat : List Byte → Nat
  | [] => 0
  | b :: bs => b.toNat + 256 * leNat bs

/-- The little-endian bytes of a number. -/
def leBytes : Nat → Nat → List Byte
  | 0, _ => []
  | n + 1, x => BitVec.ofNat 8 (x % 256) :: leBytes n (x / 256)

/-- A number's low n bits read as two's complement. -/
def signed (n x : Nat) : Int := if x % 2 ^ n < 2 ^ (n - 1) then (x % 2 ^ n : Nat) else (x % 2 ^ n : Nat) - (2 ^ n : Nat)

/-- An integer modulo 2^n. -/
def wrap (n : Nat) (x : Int) : Nat := (x % (2 ^ n : Nat)).toNat

/-- A pair's 64-bit value, the lower register first (R7). -/
def pairVal (lo hi : Word) : Nat := lo.toNat + 2 ^ 32 * hi.toNat

/-- A word of a number: bits [32k + 31 : 32k]. -/
def wordAt (x k : Nat) : Word := BitVec.ofNat 32 (x / 2 ^ (32 * k))

/-- Replaces the element of a list that a test finds, or appends. -/
def upsert {α : Type} (p : α → Bool) (x : α) : List α → List α
  | [] => [x]
  | y :: r => if p y then x :: r else y :: upsert p x r

/-- Inserts an element before the first that it precedes or equals. -/
def insertBy {α : Type} (le : α → α → Bool) (x : α) : List α → List α
  | [] => [x]
  | y :: r => if le x y then x :: y :: r else y :: insertBy le x r

/-- Sorts a list; elements that compare equal keep their order. -/
def sortBy {α : Type} (le : α → α → Bool) : List α → List α
  | [] => []
  | x :: r => insertBy le x (sortBy le r)

/-- A choice among values the spec leaves open; a single value needs none. -/
def choose {α : Type} (d : α) (t i : Nat) : List α → α
  | [x] => x
  | xs => xs.getD (Config.free t i % xs.length) d

end Sys2Proof.Machine
end

