-- ==== Sys2Proof/Machine/Operands.lean ====
section
/-! DEFINITION. Groups, fragments and registers: where each register lives, what a read finds (R55, R58, R213 to R218)
and what a write does (R217, R218, R221), and the operands an instruction reads by field. -/

namespace Sys2Proof.Machine

open Sys2Proof

/-! ### Places on the mesh (R14) -/

/-- A core's column and row. -/
def coreX (core : Nat) : Nat := core % 8
def coreY (core : Nat) : Nat := core / 8 % 8
/-- The core at a column and a row. -/
def coreAt (x y : Nat) : Nat := 8 * y + x
/-- The cluster of a core: an aligned 2 × 2 of cores. -/
def clusterOf (core : Nat) : Nat := 4 * (coreY core / 2) + coreX core / 2
/-- The die of a core: an aligned 4 × 4 of cores. -/
def dieOf (core : Nat) : Nat := 2 * (coreY core / 4) + coreX core / 4
/-- The die of a cluster. -/
def dieOfCluster (cluster : Nat) : Nat := 2 * (cluster / 8) + cluster % 4 / 2
/-- The four cores of a cluster. -/
def coresOfCluster (cluster : Nat) : List Nat :=
  let x := 2 * (cluster % 4); let y := 2 * (cluster / 4)
  [coreAt x y, coreAt (x + 1) y, coreAt x (y + 1), coreAt (x + 1) (y + 1)]

/-! ### Finding and replacing -/

/-- A resident group. -/
def State.group? (s : State) (r : GRef) : Option Group := s.groups.find? (fun g => g.ref == r)
/-- Replaces a group. -/
def State.setGroup (s : State) (g : Group) : State := { s with groups := upsert (fun x => x.ref == g.ref) g s.groups }
/-- A placed block. -/
def State.block? (s : State) (r : BRef) : Option Block := s.blocks.find? (fun b => b.ref == r)
/-- Replaces a block. -/
def State.setBlock (s : State) (b : Block) : State := { s with blocks := upsert (fun x => x.ref == b.ref) b s.blocks }
/-- A started launch. -/
def State.launch? (s : State) (id : Nat) : Option Launch := s.launches.find? (fun l => l.id == id)
/-- Replaces a launch. -/
def State.setLaunch (s : State) (l : Launch) : State :=
  { s with launches := upsert (fun x => x.id == l.id) l s.launches }
/-- A virtual interface; one the host has not set up has its reset values. -/
def State.vif (s : State) (v : Nat) : Vif := sgetD s.vifs v {}
/-- Replaces an interface. -/
def State.setVif (s : State) (v : Nat) (x : Vif) : State := { s with vifs := sset s.vifs v x }

/-- The fragment that holds a lane. -/
def Group.frag? (g : Group) (lane : Nat) : Option Frag := g.frags.find? (fun f => f.lanes.getLsbD lane)
/-- Replaces the fragment that holds a lane. -/
def Group.setFrag (g : Group) (lane : Nat) (f : Frag) : Group :=
  { g with frags := g.frags.map (fun x => if x.lanes.getLsbD lane then f else x) }
/-- Replaces the fragment that holds a lane by other fragments. -/
def Group.splitFrag (g : Group) (lane : Nat) (fs : List Frag) : Group :=
  { g with frags := g.frags.flatMap (fun x => if x.lanes.getLsbD lane then fs else [x]) }

/-- The lanes a thread occupies (R227). -/
def Group.present (g : Group) : Lanes := mkLanes (fun l => ((g.threads.getD l none).isSome))
/-- The live lanes: those of threads that have not exited. -/
def Group.live (g : Group) : Lanes := g.present &&& ~~~g.exited

/-! ### Registers -/

/-- A lane of a vector register as it stands; 383 is the link slot (R213, R216). -/
def Group.vcell (g : Group) (r l : Nat) : Word := Row.at (sgetD g.v r []) l
/-- A uniform register as it stands. -/
def Group.scell (g : Group) (r : Nat) : Word := sgetD g.s r 0
/-- A pointer register as it stands. -/
def Group.acell (g : Group) (r : Nat) : PtrBits := sgetD g.a r 0
/-- A predicate as it stands: p0 is true in every lane, and a lane with no thread reads 0 elsewhere (R218). -/
def Group.pcell (g : Group) (r : Nat) : Lanes := if r = 0 then allLanes else sgetD g.p r 0 &&& g.present
/-- A rejoin register. -/
def Group.rejoin (g : Group) (k : Nat) : Rejoin := sgetD g.j k {}
/-- A completion flag (R53). -/
def Group.flag (g : Group) (n : Nat) : Nat := sgetD g.flags n 0

/-- Sets a register, with no timing: only the named lanes of a vector or predicate register change, p0 never changes,
and the latches of a written vector register no longer serve (R217, R218, R221). -/
def Group.put (g : Group) : Res → Group
  | .v r lanes vals =>
    { g with v := sset g.v r (mkRow (fun l => if lanes.getLsbD l then Row.at vals l else g.vcell r l)),
             latch := g.latch.filter (fun x => !(x.2.reg ≤ r && r < x.2.reg + x.2.rows.length)) }
  | .s r x => { g with s := sput 0 g.s r x }
  | .a r x => { g with a := sput 0 g.a r x }
  | .p r lanes bits =>
    if r = 0 then g else { g with p := sput 0 g.p r ((sgetD g.p r 0 &&& ~~~lanes) ||| (bits &&& lanes &&& g.present)) }

/-- What a register holds that a result will replace. -/
def Group.oldOf (g : Group) : Res → Res
  | .v r lanes _ => .v r lanes (sgetD g.v r [])
  | .s r _ => .s r (g.scell r)
  | .a r _ => .a r (g.acell r)
  | .p r lanes _ => .p r lanes (g.pcell r)

/-- The lanes of two results that name one register cell. -/
def Res.meets : Res → Res → Lanes
  | .v r m _, .v r' m' _ => if r = r' then m &&& m' else 0
  | .p r m _, .p r' m' _ => if r = r' then m &&& m' else 0
  | .s r _, .s r' _ => if r = r' then allLanes else 0
  | .a r _, .a r' _ => if r = r' then allLanes else 0
  | _, _ => 0

/-- Notes in the outstanding operations that another write has raced their result (R55). DESIGN CHOICE: an access to a peer or to the host
has no result before its response. A read before then gives the old value, and a racing write made before then is what its result
overwrites. -/
def Pend.race (p : Pend) (w : Res) : Pend :=
  let now := fun i => p.raced.getD i 0 ||| (match p.res[i]? with | some r => r.meets w | none => 0)
  { p with raced := (List.range p.res.length).map now }

/-- Writes a fixed-latency result: it reads new from now on, and old or new until `lat` clocks have passed (R58). -/
def Group.write (lat : Nat) (g : Group) (w : Res) : Group :=
  let g' := g.put w
  { g' with young := if lat = 0 then g'.young else { old := g.oldOf w, left := lat } :: g'.young,
            pend := g'.pend.map (fun p => p.race w) }

/-- Writes several fixed-latency results. -/
def Group.writes (lat : Nat) (g : Group) (ws : List Res) : Group := ws.foldl (Group.write lat) g

/-- The latch holds a register that a fixed-latency write, ended now, has replaced: it serves no more (R221). -/
def Latch.staleBy (x : Latch) (y : Young) : Bool :=
  match y.old with
  | .v r _ _ => decide (x.reg ≤ r) && decide (r < x.reg + x.rows.length)
  | _ => false

/-- Runs the fixed latencies on by some clocks (R57, R285); a write whose latency ends is performed then, and no latch holds what it
replaced (R221). -/
def Group.elapse (g : Group) (n : Nat) : Group :=
  { g with young := (g.young.map (fun y => { y with left := y.left - n })).filter (fun y => y.left != 0)
           latch := g.latch.filter (fun x => !g.young.any (fun y => decide (y.left ≤ n) && x.2.staleBy y))
           pend := g.pend.map (fun p => { p with soft := p.soft.map (fun c => c - n) }) }

/-- The values a lane of a vector register may read as: what it holds, what an unfinished fixed-latency write replaced,
and what an outstanding operation will write (R55, R58). -/
def Group.vcands (g : Group) (r l : Nat) : List Word :=
  g.vcell r l ::
    (g.young.filterMap (fun y => match y.old with
      | .v r' m x => if r' = r ∧ m.getLsbD l then some (Row.at x l) else none
      | _ => none) ++
    g.pend.flatMap (fun p => p.res.filterMap (fun w => match w with
      | .v r' m x => if r' = r ∧ m.getLsbD l then some (Row.at x l) else none
      | _ => none)))

/-- The values a uniform register may read as. -/
def Group.scands (g : Group) (r : Nat) : List Word :=
  g.scell r ::
    (g.young.filterMap (fun y => match y.old with
      | .s r' x => if r' = r then some x else none
      | _ => none) ++
    g.pend.flatMap (fun p => p.res.filterMap (fun w => match w with
      | .s r' x => if r' = r then some x else none
      | _ => none)))

/-- The values a pointer register may read as. -/
def Group.acands (g : Group) (r : Nat) : List PtrBits :=
  g.acell r ::
    (g.young.filterMap (fun y => match y.old with
      | .a r' x => if r' = r then some x else none
      | _ => none) ++
    g.pend.flatMap (fun p => p.res.filterMap (fun w => match w with
      | .a r' x => if r' = r then some x else none
      | _ => none)))

/-- The values a predicate bit may read as. -/
def Group.pcands (g : Group) (r l : Nat) : List Bool :=
  (g.pcell r).getLsbD l ::
    (g.young.filterMap (fun y => match y.old with
      | .p r' m x => if r' = r ∧ r ≠ 0 ∧ m.getLsbD l then some (x.getLsbD l) else none
      | _ => none) ++
    g.pend.flatMap (fun p => p.res.filterMap (fun w => match w with
      | .p r' m x => if r' = r ∧ r ≠ 0 ∧ m.getLsbD l then some (x.getLsbD l) else none
      | _ => none)))

/-- Reads a lane of a vector register; `k` numbers the read. -/
def Group.readV (g : Group) (t k r l : Nat) : Word := choose (g.vcell r l) t (64 * (512 * k + r) + l) (g.vcands r l)
/-- Reads a uniform register. -/
def Group.readS (g : Group) (t k r : Nat) : Word := choose (g.scell r) t (64 * (512 * k + 384 + r)) (g.scands r)
/-- Reads a pointer register. -/
def Group.readA (g : Group) (t k r : Nat) : PtrBits :=
  choose (g.acell r) t (64 * (512 * k + 384 + r) + 1) (g.acands r)
/-- Reads a predicate in a lane. -/
def Group.readP (g : Group) (t k r l : Nat) : Bool :=
  choose ((g.pcell r).getLsbD l) t (64 * (512 * (k + 8) + r) + l) (g.pcands r l)

/-! ### What an instruction executes in -/

/-- The operand fields (Table 3-2). -/
inductive Fld where | a | b | c | d
  deriving DecidableEq, Repr

/-- A field's number. -/
def Fld.n : Fld → Nat
  | .a => 0 | .b => 1 | .c => 2 | .d => 3

/-- The captured operand of a field (R422). -/
def Ops.get (o : Ops) : Fld → List Row
  | .a => o.a | .b => o.b | .c => o.c | .d => []

/-- What an instruction executes in: the issuing fragment, its group, block and launch, the step's number, and the latches that
serve its operands (R221). -/
structure Ctx where
  c : Cur
  g : Group
  f : Frag
  b : Block
  l : Launch
  t : Nat
  held : Sparse Latch := []
  deriving DecidableEq, Repr

/-- The context of the fragment that issues; none where no fragment does. -/
def State.ctx? (s : State) : Option Ctx :=
  match s.cur with
  | none => none
  | some c =>
    match s.group? c.g with
    | none => none
    | some g =>
      match g.frag? c.f, s.block? c.g.b, s.launch? c.g.b.launch with
      | some f, some b, some l => some { c, g, f, b, l, t := s.tick, held := g.latch }
      | _, _, _ => none

/-- active(G) of R10. -/
def Ctx.act (x : Ctx) : Lanes := x.c.act

/-- The trap enables that an instruction reads (R262). -/
def Ctx.fpen (x : Ctx) : BitVec 5 := x.c.fpen.getD x.l.fpen

/-- The operand that a field's latch serves: the same register in the same field (R221). -/
def Ctx.served (x : Ctx) (f : Fld) (r : Nat) : Option Row :=
  match sget x.held f.n with
  | some y => if y.reg ≤ r then y.rows[r - y.reg]? else none
  | none => none

/-- Vector register `r + k` of a field, in a lane: from the entry where an entry runs again (R423), and from a latch that holds it
(R221). -/
def Ctx.v (x : Ctx) (f : Fld) (r k l : Nat) : Word :=
  match x.c.inj, f with
  | some _, .d => x.g.readV x.t f.n (r + k) l
  | some (o, _), f => Row.at ((o.get f).getD k []) l
  | none, f => match x.served f (r + k) with
    | some row => Row.at row l
    | none => x.g.readV x.t f.n (r + k) l

/-- Uniform register `r + k` of a field. -/
def Ctx.s (x : Ctx) (f : Fld) (r k : Nat) : Word :=
  match x.c.inj, f with
  | some _, .d => x.g.readS x.t f.n (r + k)
  | some (o, _), f => Row.at ((o.get f).getD 0 []) k
  | none, f => x.g.readS x.t f.n (r + k)

/-- The pointer register of a field. -/
def Ctx.a (x : Ctx) (f : Fld) (r : Nat) : PtrBits :=
  match x.c.inj, f with
  | some _, .d => x.g.readA x.t f.n r
  | some (o, _), f =>
    let w := fun k => (Row.at ((o.get f).getD 0 []) k).toNat
    BitVec.ofNat 128 (w 0 + 2 ^ 32 * w 1 + 2 ^ 64 * w 2 + 2 ^ 96 * w 3)
  | none, f => x.g.readA x.t f.n r

/-- A predicate in a lane. -/
def Ctx.p (x : Ctx) (f : Fld) (r l : Nat) : Bool := x.g.readP x.t f.n r l

/-- Register `k` of a source in a lane (R256: a uniform source is the same in every lane). -/
def Ctx.src (x : Ctx) (f : Fld) (y : Src) (k l : Nat) : Word :=
  match y with
  | .v r _ => x.v f r.val k l
  | .s r => x.s f r.val k

/-- A uniform pair's 64-bit value. -/
def Ctx.s2 (x : Ctx) (f : Fld) (r : SReg) : Nat := pairVal (x.s f r.val 0) (x.s f r.val 1)

/-- A source pair's 64-bit value in a lane. -/
def Ctx.src2 (x : Ctx) (f : Fld) (y : Src) (l : Nat) : Nat := pairVal (x.src f y 0 l) (x.src f y 1 l)

/-- The pc-relative facts of a trap at this instruction (R414, R421). -/
def Ctx.trap (x : Ctx) (c : Cause) (lanes : Lanes := x.act) (info : Nat := 0) : Trap :=
  { cause := c, lanes, info := BitVec.ofNat 64 info, tpc := x.c.pc, arose := x.t }

/-! ### The operands an instruction names -/

/-- A run of registers that a field names. -/
inductive Opd where
  | v (r n : Nat)
  | s (r n : Nat)
  | a (r : Nat)
  deriving DecidableEq, Repr

end Sys2Proof.Machine

namespace Sys2Proof

open Sys2Proof.Machine (Fld Opd)

/-- The gang of a group (R20). -/
def GRef.gang (r : GRef) : Nat := r.k / 4

/-- A source's run of `n` registers. -/
def Src.opd (y : Src) (n : Nat) : Opd :=
  match y with
  | .v r _ => .v r.val n
  | .s r => .s r.val n

/-- A destination's run. -/
def Reg.opd (y : Reg) (n : Nat) : Opd :=
  match y with
  | .v r => .v r.val n
  | .s r => .s r.val n

/-- The registers of an operand of a format. -/
def FFmt.regs : FFmt → Nat
  | .f32 => 1 | .f64 => 2

/-- One register, or a pair. -/
def wide (w : Bool) : Nat := if w then 2 else 1

/-- The lane operand's field b. -/
def LaneSel.reads : LaneSel → List (Fld × Opd)
  | .reg s _ => [(.b, .s s.val 1)]
  | _ => []

/-- A distance's field. -/
def Dist6.reads (f : Fld) : Dist6 → List (Fld × Opd)
  | .reg s => [(f, .s s.val 1)]
  | .imm _ => []

/-- An index's field. -/
def Idx.reads : Idx → List (Fld × Opd)
  | .v r => [(.b, .v r.r.val 1)]
  | .s r => [(.b, .s r.val 1)]
  | _ => []

/-- The field of a memory instruction's value operand (R153). -/
def Idx.valFld : Idx → Fld
  | .v _ | .s _ => .c
  | _ => .b

/-- An optional register's field. -/
def SOrImm.reads (f : Fld) : SOrImm → List (Fld × Opd)
  | .reg s => [(f, .s s.val 1)]
  | .imm _ => []

/-- How many registers a queue entry takes (R194). -/
def QWords.regs : QWords → Nat
  | .w1 => 1 | .w2 => 2 | .w4 => 4

/-- How many elements a count names (R155). -/
def Cnt.elems : Cnt → Nat
  | .x1 => 1 | .x2 => 2 | .x4 => 4

/-- The registers each field reads at issue, `w` being the registers of one memory element (R157, R163). -/
def Instr.reads (w : Nat) : Instr → List (Fld × Opd)
  | .brx _ a | .callx _ a | .reform _ a _ | .mark _ _ a => [(.a, a.opd 1)]
  | .reorder _ _ a _ => [(.a, .v a.r.val 1)]
  | .smov _ x2 _ a => [(.a, .s a.val (wide x2))]
  | .sadd _ _ q _ a b | .ssub _ _ q _ a b => [(.a, .s a.val (wide q)), (.b, .s b.val (wide q))]
  | .smul _ _ a b => [(.a, .s a.val 1), (.b, .s b.val 1)]
  | .smulh _ _ _ a b => [(.a, .s a.val 1), (.b, .s b.val 1)]
  | .smad _ _ a b e => [(.a, .s a.val 1), (.b, .s b.val 1), (.c, .s e.val 1)]
  | .sand _ q _ a b | .sor _ q _ a b | .sxor _ q _ a b => [(.a, .s a.val (wide q)), (.b, .s b.val (wide q))]
  | .snot _ q _ a => [(.a, .s a.val (wide q))]
  | .sshl _ q _ a b | .sshr _ q _ a b | .ssar _ q _ a b => [(.a, .s a.val (wide q)), (.b, .s b.val 1)]
  | .smin _ _ q _ a b | .smax _ _ q _ a b => [(.a, .s a.val (wide q)), (.b, .s b.val (wide q))]
  | .scmp _ _ _ q _ a b => [(.a, .s a.val (wide q)), (.b, .s b.val (wide q))]
  | .ssel _ q _ a b e => [(.a, .s a.val (wide q)), (.b, .s b.val (wide q)), (.c, .s e.val 1)]
  | .sdivu _ _ q _ a b => [(.a, .s a.val (wide q)), (.b, .s b.val (wide q))]
  | .vmov _ x2 _ a => [(.a, a.opd (wide x2))]
  | .vadd _ _ _ a b | .vsub _ _ _ a b => [(.a, a.opd 1), (.b, b.opd 1)]
  | .vaddc _ _ _ _ a b _ => [(.a, a.opd 1), (.b, b.opd 1)]
  | .vmul _ _ _ a b | .vmulh _ _ _ a b => [(.a, a.opd 1), (.b, b.opd 1)]
  | .vmad _ _ _ a b e => [(.a, a.opd 1), (.b, b.opd 1), (.c, e.opd 1)]
  | .vand _ _ a b | .vor _ _ a b | .vxor _ _ a b | .vshl _ _ a b | .vshr _ _ a b | .vsar _ _ a b =>
    [(.a, a.opd 1), (.b, b.opd 1)]
  | .vnot _ _ a | .vclz _ _ a | .vpopc _ _ a => [(.a, a.opd 1)]
  | .vmin _ _ _ a b | .vmax _ _ _ a b => [(.a, a.opd 1), (.b, b.opd 1)]
  | .vabs _ _ _ a | .vneg _ _ _ a => [(.a, a.opd 1)]
  | .vbfe _ _ _ a b => [(.a, a.opd 1), (.b, b.opd 1)]
  | .vbfi _ _ a b e => [(.a, a.opd 1), (.b, b.opd 1), (.c, e.opd 1)]
  | .vsel _ _ a b _ => [(.a, a.opd 1), (.b, b.opd 1)]
  | .vcmp _ _ _ _ a b => [(.a, a.opd 1), (.b, b.opd 1)]
  | .vfadd _ f _ _ _ a b | .vfmul _ f _ _ _ a b => [(.a, a.opd f.regs), (.b, b.opd f.regs)]
  | .vfsub _ f _ _ a b => [(.a, a.opd f.regs), (.b, b.opd f.regs)]
  | .vfma _ f _ _ _ _ _ a b e => [(.a, a.opd f.regs), (.b, b.opd f.regs), (.c, e.opd f.regs)]
  | .vfmin _ f _ a b | .vfmax _ f _ a b => [(.a, a.opd f.regs), (.b, b.opd f.regs)]
  | .vfcmp _ f _ _ a b => [(.a, a.opd f.regs), (.b, b.opd f.regs)]
  | .vrcp _ _ _ a | .vrsq _ _ _ a => [(.a, a.opd 1)]
  | .vsqrt _ f _ _ a => [(.a, a.opd f.regs)]
  | .vexp2 _ _ a | .vlog2 _ _ a | .vsin _ _ a | .vcos _ _ a => [(.a, a.opd 1)]
  | .vldexp _ f _ _ a b => [(.a, a.opd f.regs), (.b, b.opd 1)]
  | .vcvt _ _ src _ _ _ a => [(.a, .v a.r.val src.regs)]
  | .vpack _ f =>
    match f with
    | .h2 _ _ _ _ a b => [(.a, .v a.r.val 1), (.b, .v b.r.val 1)]
    | .b4 _ _ _ _ a => [(.a, .v a.r.val 4)]
    | .blk _ _ _ e a _ => [(.a, .v a.r.val 1), (.b, .s e.val 1)]
  | .vunpk _ f =>
    match f with
    | .h2 _ _ a | .b4 _ _ a => [(.a, .v a.r.val 1)]
    | .blk _ a e _ => [(.a, .v a.r.val 1), (.b, .s e.val 1)]
  | .vrnd _ f _ _ a => [(.a, .v a.r.val f.regs)]
  | .vclass _ f _ a => [(.a, .v a.r.val (if f = .f64 then 2 else 1))]
  | .v2s _ l _ a | .vlane _ l _ a => (.a, .v a.r.val 1) :: l.reads
  | .s2v _ l _ a => (.a, .s a.val 1) :: l.reads
  | .vshfl _ x _ _ a =>
    match x with
    | .idx i => [(.a, .v a.r.val 1), (.b, .v i.r.val 1)]
    | .by _ k => (.a, .v a.r.val 1) :: k.reads .b
  | .vrot _ _ _ a k => (.a, .v a.r.val 1) :: k.reads .b
  | .vredu _ _ _ _ a | .vscan _ _ _ _ _ a => [(.a, .v a.r.val 1)]
  | .pmov _ f =>
    match f with
    | .ps _ a => [(.a, .s a.val 2)]
    | .pv _ a => [(.a, .v a.r.val 1)]
    | _ => []
  | .ld _ _ _ _ _ p i => (.a, .a p.val) :: i.reads
  | .st _ n _ _ _ p i x => (.a, .a p.val) :: (i.valFld, x.opd (n.elems * w)) :: i.reads
  | .atom _ o _ p i x => (.a, .a p.val) :: (i.valFld, x.opd (if o = .cas then 2 * w else w)) :: i.reads
  | .atomf _ _ _ p i x => (.a, .a p.val) :: (i.valFld, x.opd 1) :: i.reads
  | .waita _ k _ p i x _ => (.a, .a p.val) :: (i.valFld, .s x.val (if k = .nem then 2 else 1)) :: i.reads
  | .pref _ _ _ p i => (.a, .a p.val) :: i.reads
  | .cmo _ _ _ p => [(.a, .a p.val)]
  | .locq _ _ p i => [(.a, .a p.val), (.b, .s i.val 1)]
  | .pmake _ _ a => [(.a, .s a.val 4)]
  | .psub _ _ p x =>
    match x with
    | .reg o l => [(.a, .a p.val), (.b, .s o.val 2), (.c, .s l.val 2)]
    | .imm .. => [(.a, .a p.val)]
  | .padv _ _ p x =>
    match x with
    | .reg o => [(.a, .a p.val), (.b, .s o.val 2)]
    | .imm _ => [(.a, .a p.val)]
  | .pget _ _ _ p | .psetf _ _ p _ | .pclass _ _ _ p | .narrow _ _ _ p | .widen _ _ _ p => [(.a, .a p.val)]
  | .pchk _ _ _ _ p i => [(.a, .a p.val), (.b, i.opd 1)]
  | .cpyLd _ x | .cpySt _ x | .cpyrd _ _ x => [(.a, .a x.aR.val), (.b, .s x.sC.val 5), (.c, .a x.aB.val)]
  | .ctest _ _ p i m => (.a, .a p.val) :: (i.valFld, .s m.val 1) :: i.reads
  | .cwait _ _ p i m _ => (.a, .a p.val) :: (i.valFld, .s m.val 1) :: i.reads
  | .enq _ k _ q v => [(.a, .a q.val), (.b, .s v.val k.regs)]
  | .deq _ _ _ q => [(.a, .a q.val)]
  | .mloop _ x =>
    match x.a with
    | .ptr p _ (some v) => [(.a, .a p.val), (.c, v.opd 1)]
    | .ptr p _ none => [(.a, .a p.val)]
    | .tile _ => []
  | .mload _ _ p i r => [(.a, .a p.val), (.b, .s i.val 1), (.c, .s r.val 1)]
  | .mdrainMem _ _ _ _ _ _ i r => [(.b, .s i.val 1), (.c, .s r.val 1)]
  | .mdrainAdd _ _ t => [(.b, .s t.val 2)]
  | .tadd _ _ _ _ x => [(.c, .s x.val 2)]
  | .tscale _ _ _ x => [(.c, .s x.val 1)]
  | .aflush _ (.id s) => [(.a, .s s.val 1)]
  | .apref _ f =>
    match f with
    | .a i k _ => [(.a, .s i.val 1), (.b, .s k.val 1)]
    | .b i n => [(.a, .s i.val 1), (.b, .s n.val 1)]
  | .astat _ (.id _ i) => [(.a, .s i.val 1)]
  | .coll _ _ _ _ _ p n => [(.a, .a p.val), (.b, .s n.val 1)]
  | .nbr _ _ _ _ o => o.reads .a
  | .spawn _ _ _ r => [(.a, .a r.val)]
  | .sleep _ n => n.reads .a
  | .swrite _ n a => [(.a, .s a.val (if n.val = 0x025 ∨ n.val = 0x026 then 2 else 1))]
  | _ => []

/-- The vector registers an instruction writes, `w` being the registers of one memory element: first register and
number. -/
def Instr.vdst (w : Nat) : Instr → List (Nat × Nat)
  | .vmov _ x2 d _ => [(d.val, wide x2)]
  | .vimm _ d _ => [(d.val, 1)]
  | .vadd _ _ d _ _ | .vsub _ _ d _ _ | .vaddc _ _ d _ _ _ _ | .vmul _ _ d _ _ | .vmulh _ _ d _ _
  | .vmad _ _ d _ _ _ | .vand _ d _ _ | .vor _ d _ _ | .vxor _ d _ _ | .vnot _ d _ | .vshl _ d _ _
  | .vshr _ d _ _ | .vsar _ d _ _ | .vmin _ _ d _ _ | .vmax _ _ d _ _ | .vabs _ _ d _ | .vneg _ _ d _
  | .vclz _ d _ | .vpopc _ d _ | .vbfe _ _ d _ _ | .vbfi _ d _ _ _ | .vsel _ d _ _ _ => [(d.val, 1)]
  | .vfadd _ f _ _ d _ _ | .vfmul _ f _ _ d _ _ | .vfsub _ f _ d _ _ | .vfma _ f _ _ _ _ d _ _ _
  | .vfmin _ f d _ _ | .vfmax _ f d _ _ | .vsqrt _ f _ d _ | .vldexp _ f _ d _ _ | .vrnd _ f _ d _ =>
    [(d.val, f.regs)]
  | .vrcp _ _ d _ | .vrsq _ _ d _ | .vexp2 _ d _ | .vlog2 _ d _ | .vsin _ d _ | .vcos _ d _ => [(d.val, 1)]
  | .vcvt _ dst _ _ _ d _ => [(d.val, dst.regs)]
  | .vpack _ f => (match f with | .h2 _ _ _ d _ _ | .b4 _ _ _ d _ | .blk _ _ d _ _ _ => [(d.val, 1)])
  | .vunpk _ f => (match f with | .h2 _ d _ => [(d.val, 2)] | .b4 _ d _ => [(d.val, 4)] | .blk d _ _ _ => [(d.val, 1)])
  | .vclass _ _ d _ => [(d.val, 1)]
  | .s2v _ _ d _ | .vlane _ _ d _ | .vshfl _ _ _ d _ | .vrot _ _ d _ _ | .vscan _ _ _ _ d _ => [(d.val, 1)]
  | .vredu _ _ _ d _ => (match d with | .v r => [(r.val, 1)] | .s _ => [])
  | .pmov _ (.vp d _) | .pcnt _ (.below d _) => [(d.val, 1)]
  | .ld _ n _ _ (.v d) _ _ => [(d.val, n.elems * w)]
  | .atom _ _ (some (.v d)) _ _ _ => [(d.val, w)]
  | .atomf _ _ (some (.v d)) _ _ _ => [(d.val, 1)]
  | .mdrainReg _ d _ => [(d.val, 16)]
  | .sread _ n (.v d) =>
    [(d.val, match srInfo n.val with | some (.uniform 64, _) => 2 | _ => 1)]
  | .clk _ (.v d) => [(d.val, 2)]
  | _ => []

/-- The vector registers an instruction's designators name: each must be allocated (R46). A run of wider memory elements
is checked by its instruction (R157), and the run of B by MLOOP (R293). -/
def Instr.vregs (i : Instr) : List (Nat × Nat) :=
  i.vdst 1 ++ (i.reads 1).filterMap (fun x => match x.2 with | .v r n => some (r, n) | _ => none) ++
    (match i with | .mloop _ x => [(x.vb.val, 1)] | _ => [])

/-- The tile numbers an instruction's designators name (R46). MLOOP's tile sources are checked there (R299). -/
def Instr.tiles : Instr → List Nat
  | .mzero _ d | .mload _ d _ _ _ => [d.val]
  | .mdrainReg _ _ a | .mdrainMem _ _ _ _ _ a _ _ | .mdrainAdd _ a _ => [a.val]
  | .tadd _ d a b _ => [d.val, a.val, b.val]
  | .tscale _ d a _ => [d.val, a.val]
  | .mstat _ _ a | .linq _ _ a => [a.val]
  | .mpub _ d _ => [d.val]
  | .settle _ (.tile t) => [t.val]
  | .mloop _ x => x.d.val :: (match x.a with | .tile t => (List.range (2 * (x.n1.val + 1))).map (t.val + ·) | .ptr .. => [])
  | _ => []

/-- The instruction reads a vector register: a source, or a lane's link slot (R221). -/
def Instr.readsV (w : Nat) (i : Instr) : Bool :=
  (i.reads w).any (fun y => match y.2 with | .v .. => true | _ => false) || (match i with | .ret .. => true | _ => false)

/-- The vector sources whose hold bit is set (R59). -/
def Instr.holdFlds : Instr → List Fld := fun i =>
  match i.enc with
  | none => []
  | some e => (if e.ha then [Fld.a] else []) ++ (if e.hb then [Fld.b] else []) ++ (if e.hc then [Fld.c] else [])

end Sys2Proof

namespace Sys2Proof.Machine

open Sys2Proof

/-- The operands an entry captures (R422): a vector register fills a row; the words of a uniform or pointer operand
stand in the low words of the first row. -/
def Ctx.capture (x : Ctx) (i : Instr) (w : Nat) : Ops :=
  let one : Fld → List Row := fun f =>
    match (i.reads w).find? (fun y => y.1 == f) with
    | none => []
    | some (_, .v r n) => (List.range n).map (fun k => mkRow (fun l => x.v f r k l))
    | some (_, .s r n) => [(List.range n).map (fun k => x.s f r k)]
    | some (_, .a r) => [(List.range 4).map (fun k => wordAt (x.a f r).toNat k)]
  { a := one .a, b := one .b, c := one .c }

end Sys2Proof.Machine
end

