-- ==== Sys2Proof/Machine/Memory.lean ====
section
/-! DEFINITION. Main memory and the caches: sectors and their side band (04 R77 to R95), the cache levels of a path, what
a read finds and a write leaves at a level, releases, acquires and ownership (06 R126 to R136). Every change of a memory
byte goes through `State.hbmWrite` or `State.hostWrite`. -/

namespace Sys2Proof.Machine

open Sys2Proof

/-! ### Physical addresses

A key names a byte of the package's memory: a device physical address (R77), or 2^52 plus a host physical address. A
sector is a key divided by 32. -/

/-- Where host addresses begin among the keys. -/
def hostBase : Nat := 2 ^ 52
/-- A sector of host memory. -/
def secIsHost (sec : Nat) : Bool := decide (hostBase / 32 ≤ sec)
/-- The home die of a device sector (R77). -/
def homeDie (sec : Nat) : Nat := sec / 2 ^ 32 % 4
/-- The die offset of a device sector. -/
def dieOffset (sec : Nat) : Nat := 32 * sec % 2 ^ 37
/-- Granules of a channel's interleaved part (R78). -/
def chanGranules : Nat := 2000000000 / 256 - 131072

/-- The live channels of a die. -/
def State.liveOf (s : State) (die : Nat) : List Nat := s.live.getD die []
/-- The backed bytes of a die (R80). -/
def State.backed (s : State) (die : Nat) : Nat := (s.liveOf die).length * chanGranules * 256
/-- Where a byte of a die lies (R79). -/
structure ArrayPlace where
  chan : Nat
  caddr : Nat
  subch : Nat
  slot : Nat
  deriving DecidableEq, Repr
/-- The place of a die offset, with the die's live channels (R79). -/
def arrayPlace (live : List Nat) (o : Nat) : ArrayPlace :=
  let g := o / 256
  let sector := o % 256 / 32
  { chan := live.getD (g % live.length) 0, caddr := g / live.length * 256 + o % 256, subch := sector % 4, slot := sector / 4 }
/-- The place of a device sector. -/
def State.placeOf (s : State) (sec : Nat) : ArrayPlace := arrayPlace (s.liveOf (homeDie sec)) (dieOffset sec)
/-- The channel that holds a device sector. -/
def State.chanOf (s : State) (sec : Nat) : Nat := (s.placeOf sec).chan
/-- A channel's health. -/
def State.chan (s : State) (die c : Nat) : Chan := sgetD s.chans (64 * die + c) {}
/-- The sector has storage that answers: its die is not lost, its offset backed and its channel not retired in an
emergency (R80, R94, R140). -/
def State.answers (s : State) (sec : Nat) : Bool :=
  let die := homeDie sec
  !s.lostDies.contains die && decide (dieOffset sec < s.backed die) && !(s.chan die (s.chanOf sec)).retired

/-- Advances a performance counter: a die's, for an access at its home L2 or at the host bridge, or a ridge link's, for a sector that
crosses it (R23). -/
def State.tally (s : State) (k : Nat) : State := { s with perf := sset s.perf k (sgetD s.perf k 0 + 1) }

/-- Counts an event of a die: 0 a corrected error, 1 a partial write into a poisoned sector (R84, R85). -/
def State.count (s : State) (die k : Nat) : State :=
  { s with counters := sset s.counters (2 * die + k) (sgetD s.counters (2 * die + k) 0 + 1) }

/-! ### The array -/

/-- Writes bytes of device memory. -/
def State.hbmWrite (s : State) (a : Nat) (bs : List Byte) : State := { s with hbm := Memory.writes s.hbm a bs }
/-- Writes bytes of host memory. -/
def State.hostWrite (s : State) (a : Nat) (bs : List Byte) : State := { s with host := Memory.writes s.host a bs }

/-- A key version still held by an interface (R87, R88). -/
def State.versionOk (s : State) (vif kver : Nat) : Bool :=
  let v := s.vif vif
  decide (kver = v.kver) || (v.hasPrev && decide ((kver + 1) % 256 = v.kver))

/-- The tag matches what stands in the sector (R84). -/
def Band.tagOk (b : Band) (sec : Nat) : Bool := b.tag == (sec, b.kver, b.vif)

/-- A read of the sector by an interface answers with poison (R84, R85, R87). A sector nothing has written since reset
carries no tag that matches, so it does too. -/
def State.memPoisoned (s : State) (vif sec : Nat) : Bool :=
  !s.answers sec ||
  match sget s.band sec with
  | none => true
  | some b => b.poison || b.dead || decide (b.code = 2) || !b.tagOk sec || decide (b.vif ≠ vif) || !s.versionOk vif b.kver

/-- What a read's check leaves: an error that cannot be corrected, or a tag that does not match, sets poison; an error that can be is
rewritten and counted (R84). -/
def State.checkSector (s : State) (sec : Nat) : State :=
  if !s.answers sec then s
  else
    match sget s.band sec with
    | some b =>
      if b.code = 2 ∨ !b.tagOk sec then { s with band := sset s.band sec { b with code := 0, poison := true } }
      else if b.code = 1 then { s.count (homeDie sec) 0 with band := sset s.band sec { b with code := 0 } }
      else s
    | none => { s with band := sset s.band sec { kver := 0, vif := 127, poison := true, tag := (sec, 0, 127) } }

/-- A sector as memory answers: its bytes and whether they are poison. -/
def State.memRead (s : State) (vif sec : Nat) : (List Byte × Bool) × State :=
  if s.memPoisoned vif sec then ((List.replicate 32 0, true), s.checkSector sec)
  else ((Memory.reads s.hbm (32 * sec) 32, false), s.checkSector sec)

/-- A write names every byte of its sector. -/
def fullSector (bs : List (Nat × Byte)) : Bool :=
  (List.range 32).all (fun o => bs.any (fun (x : Nat × Byte) => x.1 == o))

/-- The side band of a sector that an interface writes: its current key version, and a tag that matches (R87). -/
def State.freshBand (s : State) (vif sec : Nat) (poison : Bool) : Band :=
  let kver := (s.vif vif).kver
  { kver, vif, poison, tag := (sec, kver, vif) }

/-- Writes bytes of a sector, encrypted under the owner's current version (R82, R85, R87): a whole sector clears poison; a part is
merged by the controller, which reads and checks the sector first, and a part of a poisoned sector is dropped and counted; so is a part of
one whose storage answers no more, which reads as poison (R80, R94). -/
def State.memWrite (s : State) (vif sec : Nat) (bs : List (Nat × Byte)) : State :=
  if !s.answers sec then (if fullSector bs then s else s.count (homeDie sec) 1)
  else
    let s0 := if fullSector bs then s else s.checkSector sec
    if fullSector bs ∨ s.memPoisoned vif sec = false then
      let s1 := bs.foldl (fun (t : State) (x : Nat × Byte) => t.hbmWrite (32 * sec + x.1) [x.2]) s0
      { s1 with band := sset s1.band sec (s.freshBand vif sec false) }
    else s0.count (homeDie sec) 1

/-- Marks a sector of memory poisoned, under the writer's interface. -/
def State.memPoison (s : State) (vif sec : Nat) : State :=
  if !s.answers sec then s
  else { s with band := sset s.band sec (s.freshBand vif sec true) }

/-! ### Caches -/

/-- A cache level of a unit. -/
def State.cache (s : State) (u : CacheId) : Cache := (s.caches.find? (fun c => c.id == u)).getD { id := u, bytes := [], poison := [] }
/-- Replaces a cache. -/
def State.setCache (s : State) (c : Cache) : State := { s with caches := upsert (fun x => x.id == c.id) c s.caches }

/-- The cache holds poison for a sector. -/
def Cache.poisoned (c : Cache) (sec : Nat) : Bool := c.poison.contains sec
/-- The byte is valid. -/
def Cache.valid (c : Cache) (sec o : Nat) : Bool := (sget c.bytes (32 * sec + o)).isSome
/-- The cache holds something of the sector. -/
def Cache.holds (c : Cache) (sec : Nat) : Bool := c.poisoned sec || (List.range 32).any (c.valid sec)
/-- The sector's bytes; one that is not valid reads 0. -/
def Cache.data (c : Cache) (sec : Nat) : List Byte :=
  (List.range 32).map (fun o => match sget c.bytes (32 * sec + o) with | some b => b.val | none => 0)
/-- The dirty bytes of a sector, with the interface that owns each. -/
def Cache.dirty (c : Cache) (sec : Nat) : List (Nat × Byte × Nat) :=
  (List.range 32).filterMap (fun o => match sget c.bytes (32 * sec + o) with
    | some b => if b.dirty then some (o, b.val, b.vif) else none
    | none => none)
/-- Every sector with a dirty byte, or with poison that has yet to go on. -/
def Cache.dirtySecs (c : Cache) : List Nat :=
  (((c.bytes.filter (fun (x : Nat × CByte) => x.2.dirty)).map (fun (x : Nat × CByte) => x.1 / 32)) ++
    c.bad.map (fun (x : Nat × Nat) => x.1)).eraseDups
/-- What a sector owes the next level, by the interface that owns each write: its poison, or its dirty bytes (R126). -/
def Cache.outgoing (c : Cache) (sec : Nat) : List (Nat × Option (List (Nat × Byte))) :=
  match c.bad.find? (fun x => x.1 == sec) with
  | some x => [(x.2, none)]
  | none =>
    let d := c.dirty sec
    ((d.map (fun x => x.2.2)).eraseDups).map (fun v => (v, some ((d.filter (fun (x : Nat × Byte × Nat) => x.2.2 == v)).map (fun (x : Nat × Byte × Nat) => (x.1, x.2.1)))))
/-- Every sector of which the cache holds something. -/
def Cache.secs (c : Cache) : List Nat := ((c.bytes.map (fun (x : Nat × CByte) => x.1 / 32)) ++ c.poison).eraseDups

/-- Sets a byte. -/
def Cache.put (c : Cache) (a : Nat) (b : CByte) : Cache := { c with bytes := sset c.bytes a b }
/-- Merges a fill under the valid bytes (R149). -/
def Cache.fill (c : Cache) (sec : Nat) (bs : List Byte) (poison : Bool) : Cache :=
  if poison then { c with poison := if c.poison.contains sec then c.poison else sec :: c.poison }
  else (List.range 32).foldl (fun d o => if d.valid sec o then d else
    d.put (32 * sec + o) { val := bs.getD o 0, dirty := false, vif := 0 }) c
/-- Drops a sector, its poison and its owned words. -/
def Cache.drop (c : Cache) (sec : Nat) : Cache :=
  { c with bytes := c.bytes.filter (fun x => x.1 / 32 != sec), poison := c.poison.filter (· != sec),
           bad := c.bad.filter (fun x => x.1 != sec), owned := c.owned.filter (fun w => w / 8 != sec) }
/-- Marks a sector clean. -/
def Cache.clean (c : Cache) (sec : Nat) : Cache :=
  { c with bytes := c.bytes.map (fun x => if x.1 / 32 = sec then (x.1, { x.2 with dirty := false }) else x)
           bad := c.bad.filter (fun x => x.1 != sec) }
/-- Takes poison written for a sector in the place of its bytes (R85). -/
def Cache.taint (c : Cache) (sec vif : Nat) : Cache :=
  let d := c.drop sec
  { d with poison := sec :: d.poison, bad := (sec, vif) :: d.bad }
/-- Writes bytes, dirty or not; a part of a poisoned sector merges nothing (R85). -/
def Cache.write (c : Cache) (sec : Nat) (bs : List (Nat × Byte)) (dirty : Bool) (vif : Nat) : Cache :=
  if c.poisoned sec ∧ fullSector bs = false then c
  else bs.foldl (fun d x => d.put (32 * sec + x.1) { val := x.2, dirty, vif })
    { c with poison := c.poison.filter (· != sec), bad := c.bad.filter (fun x => x.1 != sec) }
/-- Brings the bytes of a copy up to date, where it holds them; a whole sector takes the place of a poisoned copy (R85). -/
def Cache.update (c : Cache) (sec : Nat) (bs : List (Nat × Byte)) : Cache :=
  if c.poisoned sec then (if fullSector bs then c.write sec bs false 0 else c)
  else bs.foldl (fun d x => if d.valid sec x.1 then d.put (32 * sec + x.1) { val := x.2, dirty := false, vif := 0 } else d) c
/-- Drops what an acquire drops: every clean byte in no owned word (R130), and poison that no write left here. -/
def Cache.dropClean (c : Cache) (owned : List Nat) : Cache :=
  let kept := c.bytes.filter (fun x => x.2.dirty || owned.contains (x.1 / 4))
  { c with bytes := kept, poison := c.poison.filter (fun p => kept.any (fun x => x.1 / 32 == p) || c.bad.any (fun x => x.1 == p)) }

/-- Drops the same of some sectors alone. -/
def Cache.dropCleanIn (c : Cache) (secs owned : List Nat) : Cache :=
  let kept := c.bytes.filter (fun x => !secs.contains (x.1 / 32) || x.2.dirty || owned.contains (x.1 / 4))
  { c with bytes := kept
           poison := c.poison.filter (fun p => !secs.contains p || kept.any (fun x => x.1 / 32 == p) || c.bad.any (fun x => x.1 == p)) }

/-! ### Paths (R127) -/

/-- The path's end: the home L2, through the die's RDC where the home is another die, or the host bridge. -/
def homePath (die sec : Nat) : List CacheId :=
  if secIsHost sec then (if die = 0 then [.l2 4] else [.rdc die, .l2 4])
  else if homeDie sec = die then [.l2 die] else [.rdc die, .l2 (homeDie sec)]
/-- The path of an engine of a cluster. -/
def clPath (cluster sec : Nat) : List CacheId := .cl cluster :: homePath (dieOfCluster cluster) sec
/-- The path of a core. -/
def corePath (core sec : Nat) : List CacheId := .l1 core :: clPath (clusterOf core) sec
/-- How many levels of a path lie before the point of a scope (R128). -/
def innerCount (scope : Nat) (path : List CacheId) : Nat :=
  match scope with
  | 0 => 0 | 1 => 1 | 2 => 2
  | _ => path.length - 1
/-- The inner levels of a scope for a core (R113). -/
def innerLevels (scope core : Nat) : List CacheId :=
  match scope with
  | 0 => []
  | 1 => [.l1 core]
  | 2 => [.l1 core, .cl (clusterOf core)]
  | _ => [.l1 core, .cl (clusterOf core), .rdc (dieOf core)]
/-- The path from a level on, for a sector. -/
def pathFrom (u : CacheId) (sec : Nat) : List CacheId :=
  match u with
  | .l1 core => corePath core sec
  | .cl cluster => clPath cluster sec
  | .rdc die => (homePath die sec).dropWhile (fun x => x != .rdc die)
  | .l2 d => [.l2 d]

/-! ### Checkpoints and snoops at the package point -/

/-- A sector as the package point holds it: the home L2's bytes over memory's. -/
def State.atHome (s : State) (vif sec : Nat) : Option (List Byte) :=
  let c := s.cache (.l2 (homeDie sec))
  if c.poisoned sec then none
  else if (List.range 32).all (c.valid sec) then some (c.data sec)
  else if s.memPoisoned vif sec then none
  else some ((List.range 32).map (fun o => match sget c.bytes (32 * sec + o) with
    | some b => b.val
    | none => Memory.read s.hbm (32 * sec + o)))

/-- The sectors of a checkpoint granule: 16 pages of 4 KiB (R452). -/
def CkptSet.sectors (c : CkptSet) (g : Nat) : List Nat :=
  ((c.pages.drop (16 * g)).take 16).flatMap (fun p => (List.range 128).map (fun k => p / 32 + k))

/-- The granules of a checkpoint set that a physical page lies in: more than one where several of the set's addresses share it (R452). -/
def CkptSet.granulesOf (c : CkptSet) (page : Nat) : List Nat :=
  (((List.range c.pages.length).filter (fun i => c.pages.getD i 0 == page)).map (· / 16)).eraseDups

/-- A write comes to a sector at its package point: its granules are dirty from now on, and what a running checkpoint has
yet to copy of them is kept as the cut found it (R453). -/
def State.ckptTouch (s : State) (sec : Nat) : State :=
  let touch := fun (x : Nat × Vif) (c : CkptSet) (g : Nat) =>
    let cut := c.cut.map (fun k =>
      if k.todo.contains g ∧ k.held.all (fun h => h.1 != g)
      then { k with held := (g, (c.sectors g).map (s.atHome x.1)) :: k.held } else k)
    { c with cut, dirty := if c.dirty.contains g then c.dirty else g :: c.dirty }
  { s with vifs := s.vifs.map (fun x => match x.2.ckpt with
      | none => x
      | some c => (x.1, { x.2 with ckpt := some ((c.granulesOf (sec / 128 * 4096)).foldl (touch x) c) })) }

/-! ### The ridge network (R137, R138)

Port 2k leaves the first die of link k towards the second, and port 2k + 1 the second towards the first. -/

/-- The port from a die to its neighbour, by ring position: the ring is 0, 1, 3, 2. -/
def ringPos (die : Nat) : Nat := match die with | 0 => 0 | 1 => 1 | 3 => 2 | _ => 3
/-- The ports of n hops from a ring position on, in one direction or the other. -/
def hops (up : Bool) : Nat → Nat → List Nat
  | 0, _ => []
  | n + 1, p => if up then 2 * (p % 4) :: hops up n ((p + 1) % 4) else (2 * ((p + 3) % 4) + 1) :: hops up n ((p + 3) % 4)
/-- The ports on the route between two dies (R138): the usual way, or the other way round the ring where a link of it has
failed. -/
def State.route (s : State) (a b : Nat) : List Nat :=
  let n := (ringPos b + 4 - ringPos a) % 4
  let up := hops true n (ringPos a)
  let down := hops false (4 - n) (ringPos a)
  -- dies 0 and 3 pass die 1, and dies 1 and 2 pass die 0
  let usual := if n = 1 ∨ (n = 2 ∧ (a = 0 ∨ a = 2)) then up else if n = 0 then [] else down
  if usual.all (fun p => !s.linksFailed.contains (p / 2)) then usual else if usual = up then down else up

/-- The die of a sector's home: that of its home L2, or of the host bridge. -/
def homeOf (sec : Nat) : Nat := if secIsHost sec then 0 else homeDie sec

/-- Sends the snoops of a write at a home L2 or at the host bridge, to every die that no filter on the way keeps it from (R135,
R136). -/
def State.snoop (s : State) (sec : Nat) : State :=
  let home := homeOf sec
  let dies := (List.range 4).filter (fun d => d != home && !s.lostDies.contains d &&
    (!s.filtersBuilt || (s.route home d).all (fun p => s.filters.contains (p, sec / 32))))
  { s with snoops := s.snoops ++ dies.map (fun d => { src := home, die := d, sector := sec, at_ := s.time }) }

/-- A sector crosses the ridge between a die and its home: each link of the way counts it (R23). DESIGN CHOICE: fills, write-backs and accesses
that pass an RDC are what a link counts (log 150). -/
def State.crossing (s : State) (u : CacheId) (sec : Nat) : State :=
  match u with
  | .rdc die => (s.route (homeOf sec) die).foldl (fun (t : State) (p : Nat) => t.tally (4 + p / 2)) s
  | _ => s

/-- An access passes the first levels of its path and is performed beyond them: where the RDC is one of them, it crosses the ridge (R23). -/
def State.passes (s : State) (inner : List CacheId) (sec : Nat) : State := inner.foldl (fun (t : State) u => t.crossing u sec) s

/-! ### Capacity (R126, R143, Table 6-1) -/

/-- The sets and the ways of a cache. An L1 has one way for each 128 KiB that the scratchpad leaves it. -/
def State.shape (s : State) (u : CacheId) : Nat × Nat :=
  match u with
  | .l1 core => (2048, 16 - sgetD s.split core 0)
  | .cl _ => (16384, 16)
  | .rdc _ => (32768, 16)
  | .l2 _ => (131072, 16)

/-- The lines of a line's set that a cache holds. -/
def State.setLines (s : State) (u : CacheId) (line : Nat) : List Nat :=
  let sets := (s.shape u).1
  let c := s.cache u
  (((c.bytes.filter (fun (x : Nat × CByte) => x.1 / 64 % sets == line % sets)).map (fun (x : Nat × CByte) => x.1 / 64)) ++
    (c.poison.filter (fun p => p / 2 % sets == line % sets)).map (· / 2)).eraseDups

/-- A set that holds more lines than its ways, and a line that leaves it: an access leaves the lines that it has brought in the
fill buffers, and room is made before anything else moves. -/
def State.overfull (s : State) : Option (CacheId × Nat) :=
  s.caches.findSome? (fun c => c.secs.findSome? (fun sec =>
    let ls := s.setLines c.id (sec / 2)
    if (s.shape c.id).2 < ls.length then some (c.id, choose (sec / 2) s.tick (2 ^ 45 + sec / 2) ls) else none))

/-- An entry that a full snoop filter of a port frees, of 65,536 (R136). -/
def State.overfiltered (s : State) : Option (Nat × Nat) :=
  (List.range 8).findSome? (fun p =>
    let mine := s.filters.filter (fun x => x.1 == p)
    if 65536 < mine.length then some (choose (p, 0) s.tick (2 ^ 45 + 2 ^ 44 + p) mine) else none)

/-- The core whose L1 a level is. -/
def coreOf (u : CacheId) : Option Nat := match u with | .l1 core => some core | _ => none

/-- Revokes the owned marks that a point holds for words of a sector, but for one core's (R129). -/
def State.revoke (s : State) (u : CacheId) (sec : Nat) (offs : List Nat) (but : Option Nat) : State :=
  let hit := s.owners.filter (fun o => o.point == u && o.word / 8 == sec && offs.any (fun x => x / 4 == o.word % 8) &&
    !(but == some o.core))
  let s1 := hit.foldl (fun t o =>
    let c := t.cache (.l1 o.core)
    t.setCache { c with owned := c.owned.filter (· != o.word) }) s
  { s1 with owners := s1.owners.filter (fun (o : Owner) => !hit.contains o) }

/-- An RDC has filled a sector: the filters of the ports on its way from home record the region (R136). -/
def State.noteFill (s : State) (u : CacheId) (sec : Nat) : State :=
  match u with
  | .rdc die => { s with filters := ((s.route (homeOf sec) die).map (fun p => (p, sec / 32)) ++ s.filters).eraseDups }
  | _ => s

/-! ### Reads and writes at a level -/

/-- Counts a partial write that a poisoned sector of a cache drops (R85). -/
def State.countPartial (s : State) (u : CacheId) (sec : Nat) (bs : List (Nat × Byte)) : State :=
  if (s.cache u).poisoned sec ∧ fullSector bs = false then s.count (homeDie sec) 1 else s

/-- A write reaches a level: it revokes the owned marks on its words there, but for the writer's own; at a package point a checkpoint
may hold what it replaces, the other dies are snooped, and the home counts it (R129, R135, R453). -/
def State.reach (s : State) (u : CacheId) (sec : Nat) (offs : List Nat) (writer : Option Nat) : State :=
  let s1 := s.revoke u sec offs writer
  match u with
  | .l2 d => ((s1.ckptTouch sec).snoop sec).tally (if d = 4 then 0 else d)
  | _ => s1

/-- Performs a write at the first level of a path. -/
def State.writeLevel (path : List CacheId) (vif sec : Nat) (bs : List (Nat × Byte)) (writer : Option Nat) (s : State) : State :=
  match path with
  | [] => s.memWrite vif sec bs
  | u :: _ =>
    if (match u with | .l2 d => s.lostDies.contains d | _ => false) then s
    else
      let s1 := s.reach u sec (bs.map (·.1)) writer
      if u = .l2 4 then bs.foldl (fun (t : State) (x : Nat × Byte) => t.hostWrite (32 * sec - hostBase + x.1) [x.2]) s1
      else
        let s2 := s1.countPartial u sec bs
        (s2.setCache ((s2.cache u).write sec bs true vif)).noteFill u sec

/-- Writes a sector poisoned at the first level of a path; its poison goes on as dirty bytes do (R85, R126). -/
def State.poisonLevel (path : List CacheId) (vif sec : Nat) (writer : Option Nat) (s : State) : State :=
  match path with
  | [] => s.memPoison vif sec
  | u :: _ =>
    if (match u with | .l2 d => d == 4 || s.lostDies.contains d | _ => false) then s
    else
      let s1 := s.reach u sec (List.range 32) writer
      (s1.setCache ((s1.cache u).taint sec vif)).noteFill u sec

/-- A level takes a sector that it was filled with. -/
def State.fillAt (s : State) (u : CacheId) (sec : Nat) (bs : List Byte) (poison : Bool) : State :=
  (s.setCache ((s.cache u).fill sec bs poison)).noteFill u sec

/-- A sector as the levels of a path hold it, those that lack bytes filled on the way (R126, R149). `offs` are the bytes wanted. -/
def State.readIn : List CacheId → Nat → Nat → List Nat → State → (List Byte × Bool) × State
  | [], vif, sec, _, s => s.memRead vif sec
  | u :: rest, vif, sec, offs, s =>
    if u = .l2 4 then ((Memory.reads s.host (32 * sec - hostBase) 32, false), s.tally 0)
    else
      let s0 := match u with | .l2 d => s.tally d | _ => s
      let c := s0.cache u
      if c.poisoned sec then ((c.data sec, true), s0)
      else if offs.all (c.valid sec) then ((c.data sec, false), s0)
      else
        let r := State.readIn rest vif sec (List.range 32) (s0.crossing u sec)
        (((c.fill sec r.1.1 r.1.2).data sec, r.1.2), r.2.fillAt u sec r.1.1 r.1.2)

/-- A sector as the first level of a path answers: poison where its storage answers no more, whatever a cache holds (R80, R94,
R140). -/
def State.readLevel (path : List CacheId) (vif sec : Nat) (offs : List Nat) (s : State) : (List Byte × Bool) × State :=
  if !secIsHost sec && !s.answers sec then ((List.replicate 32 0, true), s) else State.readIn path vif sec offs s

/-- Writes what a sector owes from the first level of a path to the next, and leaves the copy clean (R126). -/
def State.push (path : List CacheId) (sec : Nat) (s : State) : State :=
  match path with
  | [] => s
  | u :: rest =>
    let c := s.cache u
    (c.outgoing sec).foldl (fun t x => match x.2 with
      | some bs => State.writeLevel rest x.1 sec bs (coreOf u) (t.crossing u sec)
      | none => State.poisonLevel rest x.1 sec (coreOf u) (t.crossing u sec)) (s.setCache (c.clean sec))

/-- Writes a sector's dirty bytes through the first n levels of a path, innermost first (R131). -/
def State.pushN : Nat → List CacheId → Nat → State → State
  | 0, _, _, s => s
  | _ + 1, [], _, s => s
  | n + 1, u :: rest, sec, s => State.pushN n rest sec (State.push (u :: rest) sec s)

/-- Writes every dirty sector of a cache to the next level. -/
def State.cleanCache (u : CacheId) (s : State) : State :=
  (s.cache u).dirtySecs.foldl (fun t sec => t.push (pathFrom u sec) sec) s

/-- The cache work of a release (R131). -/
def State.release (s : State) (core scope : Nat) : State := (innerLevels scope core).foldl (fun t u => t.cleanCache u) s

/-- The words a cache keeps through an acquire: an L1's owned words, or the words registered at the level. -/
def State.ownedAt (s : State) (u : CacheId) : List Nat :=
  match u with
  | .l1 _ => (s.cache u).owned
  | _ => (s.owners.filter (fun o => o.point == u)).map (·.word)

/-- The cache work of an acquire (R130). -/
def State.acquire (s : State) (core scope : Nat) : State :=
  (innerLevels scope core).foldl (fun t u => t.setCache ((t.cache u).dropClean (t.ownedAt u))) s

/-! ### A core's accesses to cached memory -/

/-- Where an access is performed: the core, its interface, whether its pointer is synchronising, and the scope. -/
structure Via where
  core : Nat
  vif : Nat
  sync : Bool
  scope : Nat
  /-- The .na hint: the L1 allocates nothing (R129, R149). -/
  na : Bool := false
  deriving DecidableEq, Repr

/-- A read that leaves the first level of its path as it was (R149, R150). -/
def State.readPast (path : List CacheId) (vif sec : Nat) (offs : List Nat) (s : State) : (List Byte × Bool) × State :=
  match path with
  | [] => State.readLevel path vif sec offs s
  | u :: rest =>
    let c := s.cache u
    if c.poisoned sec || offs.all (c.valid sec) then State.readLevel path vif sec offs s
    else
      let r := State.readLevel rest vif sec (List.range 32) s
      (((c.fill sec r.1.1 r.1.2).data sec, r.1.2), r.2)

/-- The words of a sector are owned by a core at a point: its L1 marks them and the point registers them. A mark of another scope's point
serves no load of this one, for a write at this point does not revoke it (R129, R206). -/
def State.ownedHere (s : State) (core : Nat) (point : CacheId) (sec : Nat) (offs : List Nat) : Bool :=
  let mine := s.cache (.l1 core)
  offs.all (fun o => mine.owned.contains (8 * sec + o / 4) && mine.valid sec o &&
    s.owners.any (fun k => k.point == point && k.word == 8 * sec + o / 4 && k.core == core))

/-- Bytes of one sector as a load sees them; through a synchronising pointer it acquires, and what it reads at its point fills the inner
levels (R127, R129, R130). -/
def State.loadSector (s : State) (w : Via) (sec : Nat) (offs : List Nat) : (List Byte × Bool) × State :=
  let path := corePath w.core sec
  if !w.sync then
    if w.na then State.readPast path w.vif sec offs s else State.readLevel path w.vif sec offs s
  else if s.ownedHere w.core ((path.drop (innerCount w.scope path)).headD (.l1 w.core)) sec offs then
    let r := State.readLevel path w.vif sec offs s
    (r.1, r.2.acquire w.core w.scope)
  else
    let n := innerCount w.scope path
    let s1 := ((State.pushN n path sec s).acquire w.core w.scope).passes (path.take n) sec
    let r := State.readLevel (path.drop n) w.vif sec offs s1
    let fillUp := fun (t : State) (u : CacheId) =>
      let t1 := t.setCache ((t.cache u).update sec ((List.range 32).map (fun o => (o, r.1.1.getD o 0))))
      if w.na && decide (u = .l1 w.core) then t1 else t1.fillAt u sec r.1.1 r.1.2
    (r.1, (path.take n).foldl fillUp r.2)

/-- The marks of words that a store has performed at a point: the point registers them, the storing core's L1 holds the bytes and marks
them owned; with .na neither does (R129). -/
def State.own (s : State) (w : Via) (point : CacheId) (sec : Nat) (bs : List (Nat × Byte)) : State :=
  let l1 : CacheId := .l1 w.core
  let words := (bs.map (fun x => 8 * sec + x.1 / 4)).eraseDups
  let others := s.owners.filter (fun o => !(o.point == point && words.contains o.word))
  let c := s.cache l1
  if w.na then { s.setCache { c with owned := c.owned.filter (fun k => !words.contains k) } with owners := others }
  else
    let c1 := if point = l1 then c else c.write sec bs false w.vif
    { s.setCache { c1 with owned := (words ++ c1.owned).eraseDups } with
      owners := words.map (fun k => { point, word := k, core := w.core }) ++ others }

/-- Writes bytes of one sector through the first n levels of a core's path to the next, bringing the copies on the way up to date; a
synchronising store owns its words there. -/
def State.storeAt (s : State) (w : Via) (n sec : Nat) (bs : List (Nat × Byte)) : State :=
  let path := corePath w.core sec
  let s1 := State.writeLevel (path.drop n) w.vif sec bs (some w.core) ((State.pushN n path sec s).passes (path.take n) sec)
  let s2 := (path.take n).foldl (fun t u => t.setCache ((t.cache u).update sec bs)) s1
  if w.sync then s2.own w ((path.drop n).headD (.l1 w.core)) sec bs else s2

/-- Writes bytes of one sector as a store does; a synchronising store has released before (R129, R149). A private store with .na to a
sector that the L1 lacks goes to the next level. -/
def State.storeSector (s : State) (w : Via) (sec : Nat) (bs : List (Nat × Byte)) : State :=
  let n := if w.sync then innerCount w.scope (corePath w.core sec)
    else if w.na ∧ (s.cache (.l1 w.core)).holds sec = false then 1 else 0
  s.storeAt w n sec bs

/-- Writes bits of bytes of one sector: each byte's place, the mask of the bits and their values. The bytes are merged at the home, so
that no copy holds a bit that the store did not write, and a part of a poisoned sector is dropped and counted (R85, R148). -/
def State.storeBits (s : State) (w : Via) (sec : Nat) (ws : List (Nat × Nat × Nat)) : State :=
  let path := corePath w.core sec
  let n := path.length - 1
  let offs := ws.map (·.1)
  let r := State.readLevel (path.drop n) w.vif sec offs ((State.pushN n path sec s).passes (path.take n) sec)
  if r.1.2 then r.2.count (homeDie sec) 1
  else
    let bs := ws.map (fun x => (x.1, BitVec.ofNat 8 ((r.1.1.getD x.1 0).toNat &&& (255 - x.2.1) ||| x.2.2)))
    let s1 := (path.take n).foldl (fun t u => t.revoke u sec offs (some w.core)) r.2
    let s2 := s1.storeAt { w with sync := false } n sec bs
    if w.sync then s2.own w ((path.drop (innerCount w.scope path)).headD (.l1 w.core)) sec bs else s2

/-- Takes every owned mark from words, wherever they are registered (R165). -/
def State.unown (s : State) (words : List Nat) : State :=
  { s with owners := s.owners.filter (fun o => !words.contains o.word)
           caches := s.caches.map (fun c => { c with owned := c.owned.filter (fun k => !words.contains k) }) }

/-- An indivisible update at the point of a scope (R165, R166): the old bytes of the word, or none where the sector
answers with poison, and what `new` makes of them. -/
def State.updateSector (s : State) (w : Via) (sec o n : Nat) (new : List Byte → Option (List Byte)) :
    Option (List Byte) × State :=
  let path := corePath w.core sec
  let k := innerCount w.scope path
  let offs := (List.range n).map (o + ·)
  let r := State.readLevel (path.drop k) w.vif sec offs ((State.pushN k path sec s).passes (path.take k) sec)
  if r.1.2 then (none, r.2)
  else
    let old := (r.1.1.drop o).take n
    let s1 := r.2.unown ((offs.map (fun x => 8 * sec + x / 4)).eraseDups)
    match new old with
    | none => (some old, s1)
    | some bs =>
      let ws := offs.zip bs
      let s2 := State.writeLevel (path.drop k) w.vif sec ws none s1
      (some old, (path.take k).foldl (fun t u => t.setCache ((t.cache u).update sec ws)) s2)

/-- A sector as the package point holds it, once the accessor's own path has written to it what it owes: an access to the device's own
memory through a peer pointer (R103, R126, R202). -/
def State.loadHome (s : State) (w : Via) (sec : Nat) (offs : List Nat) : (List Byte × Bool) × State :=
  let path := corePath w.core sec
  let n := path.length - 1
  State.readLevel (path.drop n) w.vif sec offs ((State.pushN n path sec s).passes (path.take n) sec)

/-- The same for a write: a peer write, at whose point no owned mark stays. -/
def State.storeHome (s : State) (w : Via) (sec : Nat) (bs : List (Nat × Byte)) : State :=
  let path := corePath w.core sec
  let s1 := s.unown ((bs.map (fun x => 8 * sec + x.1 / 4)).eraseDups)
  s1.storeAt { w with sync := false } (path.length - 1) sec bs

/-- A byte as the levels of a path hold it, with nothing filled or changed; none where it is poison. -/
def State.peekByte (s : State) (path : List CacheId) (vif a : Nat) : Option Byte :=
  if !secIsHost (a / 32) && !s.answers (a / 32) then none
  else
  match path.find? (fun u => (s.cache u).poisoned (a / 32) || (s.cache u).valid (a / 32) (a % 32)) with
  | some u => if (s.cache u).poisoned (a / 32) then none else (sget (s.cache u).bytes a).map (·.val)
  | none =>
    if secIsHost (a / 32) then some (Memory.read s.host (a - hostBase))
    else if s.memPoisoned vif (a / 32) then none else some (Memory.read s.hbm a)

/-- `n` bytes from a key on as a core sees them, with nothing filled or changed. -/
def State.peek (s : State) (core vif a n : Nat) : Option (List Byte) :=
  let bs := (List.range n).map (fun k => s.peekByte (corePath core ((a + k) / 32)) vif (a + k))
  if bs.all (·.isSome) then some (bs.map (·.getD 0)) else none

/-- Splits a run of bytes at sector boundaries: the sector and the byte's place in it. -/
def sectorRuns (a n : Nat) : List (Nat × List Nat) :=
  (((List.range n).map (fun k => (a + k) / 32)).eraseDups).map (fun sec =>
    (sec, ((List.range n).filter (fun k => (a + k) / 32 == sec)).map (fun k => (a + k) % 32)))

/-- `n` bytes from a key on, as a load sees them; none where a sector is poison. -/
def State.loadBytes (s : State) (w : Via) (a n : Nat) : Option (List Byte) × State :=
  (sectorRuns a n).foldl (fun acc x =>
    let r := acc.2.loadSector w x.1 x.2
    ((match acc.1, r.1.2 with
      | some bs, false => some (bs ++ x.2.map (fun o => r.1.1.getD o 0))
      | _, _ => none), r.2)) (some [], s)

/-- Stores bytes from a key on. -/
def State.storeBytes (s : State) (w : Via) (a : Nat) (bs : List Byte) : State :=
  (sectorRuns a bs.length).foldl (fun t x =>
    t.storeSector w x.1 (x.2.map (fun o => (o, bs.getD (32 * x.1 + o - a) 0)))) s

/-- `n` bytes from a key on, as the package point answers; none where a sector is poison (R209, R355). -/
def State.homeRead (s : State) (vif a n : Nat) : Option (List Byte) × State :=
  (sectorRuns a n).foldl (fun acc x =>
    let u : CacheId := if secIsHost x.1 then .l2 4 else .l2 (homeDie x.1)
    let r := State.readLevel [u] vif x.1 x.2 acc.2
    ((match acc.1, r.1.2 with
      | some bs, false => some (bs ++ x.2.map (fun o => r.1.1.getD o 0))
      | _, _ => none), r.2)) (some [], s)

/-- Writes bytes at the package point (R209, R355). -/
def State.homeWrite (s : State) (vif a : Nat) (bs : List Byte) : State :=
  (sectorRuns a bs.length).foldl (fun t x =>
    let u : CacheId := if secIsHost x.1 then .l2 4 else .l2 (homeDie x.1)
    State.writeLevel [u] vif x.1 (x.2.map (fun o => (o, bs.getD (32 * x.1 + o - a) 0))) none t) s

/-- Drops a sector from a level: what it owes goes to the next level, and the marks registered here are revoked (R127, R129). -/
def State.dropOut (u : CacheId) (s : State) (sec : Nat) : State :=
  let s1 := (s.push (pathFrom u sec) sec).revoke u sec (List.range 32) none
  s1.setCache ((s1.cache u).drop sec)

/-- Drops a line from a level, its dirty sectors written to the next level and the marks it registers revoked (R127,
R129). -/
def State.evictLine (s : State) (u : CacheId) (line : Nat) : State :=
  [2 * line, 2 * line + 1].foldl (State.dropOut u) s

/-- Drops a cache's lines with nothing written, as a reset does. -/
def State.dropCache (s : State) (u : CacheId) : State := { s with caches := s.caches.filter (fun c => c.id != u) }

end Sys2Proof.Machine
end

