-- ==== Sys2Proof/Machine/Access.lean ====
section
/-! DEFINITION. Typed pointers, the checks a data instruction makes on one, scratch windows and translation (05 R96 to
R125, 07 R144 to R156). -/

namespace Sys2Proof.Machine

open Sys2Proof

/-! ### The pointer's fields (Table 5-1) -/

def pBase (p : PtrBits) : Nat := field p.toNat 0 57
def pValid (p : PtrBits) : Bool := field p.toNat 63 1 == 1
def pLen (p : PtrBits) : Nat := field p.toNat 64 39
def pFmt (p : PtrBits) : Nat := field p.toNat 103 6
def pSpace (p : PtrBits) : Nat := field p.toNat 109 3
def pClass (p : PtrBits) : Nat := field p.toNat 112 2
def pScope (p : PtrBits) : Nat := field p.toNat 114 3
def pSwz (p : PtrBits) : Nat := field p.toNat 117 3
def pUnit (p : PtrBits) : Nat := field p.toNat 120 8

/-- A pointer with n bits from lo replaced. -/
def pSet (p : PtrBits) (lo n x : Nat) : PtrBits :=
  BitVec.ofNat 128 (p.toNat - field p.toNat lo n * 2 ^ lo + x % 2 ^ n * 2 ^ lo)

/-- The spaces (Table 5-3). -/
def pGlobal (p : PtrBits) : Bool := pSpace p == 0
def pOwnScratch (p : PtrBits) : Bool := pSpace p == 1 && pScope p == 0
def pLaunchScratch (p : PtrBits) : Bool := pSpace p == 1 && pScope p == 3
def pClScratch (p : PtrBits) : Bool := pSpace p == 2
def pPeer (p : PtrBits) : Bool := pSpace p == 3
def pHost (p : PtrBits) : Bool := pSpace p == 4

/-- Space and scope form a pair of Table 5-3, and base keeps its layout and limit. -/
def pairOk (space scope base len : Nat) : Bool :=
  match space, scope with
  | 0, 0 | 0, 1 | 0, 2 | 0, 3 | 0, 4 => decide (base + len ≤ 2 ^ 57)
  | 1, 0 => decide (base < 2 ^ 21) && decide (base + len ≤ 2 ^ 21)
  | 1, 3 => decide (base < 2 ^ 47) && decide (base % 2 ^ 21 + len ≤ 2 ^ 21)
  | 2, 1 => decide (base < 2 ^ 23) && decide (base % 2 ^ 21 + len ≤ 2 ^ 21)
  | 3, 4 => decide (base % 2 ^ 45 + len ≤ 2 ^ 45)
  | 4, 3 | 4, 4 => decide (base + len ≤ 2 ^ 57)
  | _, _ => false

/-- Well formed (R99). -/
def pWf (p : PtrBits) : Bool :=
  fmtCodeListed (BitVec.ofNat 6 (pFmt p)) && decide (pClass p ≤ 2) && pairOk (pSpace p) (pScope p) (pBase p) (pLen p) &&
    decide (pUnit p ≤ (match pScope p with | 0 => 63 | 1 => 15 | 2 => 3 | _ => 0)) &&
    (pSwz p == 0 || pSpace p == 1 || pSpace p == 2) && field p.toNat 57 6 == 0

/-- What a pointer register holds of a written pointer: valid is computed (R100). -/
def pFix (p : PtrBits) : PtrBits := pSet p 63 1 (if pWf p then 1 else 0)

/-- The bits of an element format (Table 5-2). -/
def ebits (fmt : Nat) : Nat :=
  match fmt with
  | 0x00 | 0x01 | 0x0C | 0x0D | 0x20 => 8
  | 0x02 | 0x03 | 0x08 | 0x09 => 16
  | 0x04 | 0x05 | 0x0A => 32
  | 0x06 | 0x07 | 0x0B => 64
  | f => if 0x12 ≤ f ∧ f ≤ 0x18 then f - 0x10 else 8

/-- BFP2 to BFP8. -/
def isBfp (fmt : Nat) : Bool := decide (0x12 ≤ fmt) && decide (fmt ≤ 0x18)

/-- The registers one element takes (Table 7-4). -/
def fmtRegs (fmt : Nat) : Nat := if ebits fmt = 64 then 2 else 1

/-! ### Checks at issue (Table 5-4) -/

/-- The features an interface accepted (Table 27-4). -/
def State.feature (s : State) (vif k : Nat) : Bool := ((s.vif vif).accept.getD 0).getLsbD k

/-- The cores of a position: where a block's window lies. -/
def Block.posOf (b : Block) (core : Nat) : Option Nat := b.cores.findIdx? (· == core)

/-- The core a cluster-scratch address names. -/
def clScratchCore (p : PtrBits) : Nat := (coresOfCluster (pUnit p)).getD (pBase p / 2 ^ 21 % 4) 0

/-- The unit check of R101 on a core. -/
def unitOk (core : Nat) (b : Block) (p : PtrBits) : Bool :=
  match pScope p with
  | 0 => pUnit p == core
  | 1 => pUnit p == clusterOf core && (!pClScratch p || (b.posOf (clScratchCore p)).isSome)
  | 2 => pUnit p == dieOf core
  | _ => true

/-- Checks 1 to 4 of Table 5-4; `accepts` is the instruction's own part of check 2. -/
def Ctx.checkPtr (x : Ctx) (s : State) (p : PtrBits) (accepts writes : Bool) (idx : Int := 0) : Except Trap Unit :=
  if !pValid p then .error (x.trap .bounds x.act (wrap 64 idx))
  else if !accepts || (pPeer p && (!s.feature x.l.vif 6 || decide (x.l.team ≤ pBase p / 2 ^ 45))) then
    .error (x.trap .access x.act)
  else if !unitOk x.g.core x.b p then .error (x.trap .scope x.act (pUnit p))
  else if writes && pClass p == 1 then .error (x.trap .cls x.act)
  else .ok ()

/-- n elements from index i lie in bounds (R102). -/
def inBounds (p : PtrBits) (i : Int) (n : Nat) : Bool :=
  decide (0 ≤ i) && decide ((i + n) * ebits (pFmt p) ≤ 8 * (pLen p : Int))

/-- The bit address of element i (R155). -/
def elemBit (p : PtrBits) (i : Int) : Nat := 8 * pBase p + i.toNat * ebits (pFmt p)

/-- The byte address of element i. -/
def elemByte (p : PtrBits) (i : Int) : Nat := elemBit p i / 8

/-- A check made for each lane: the lanes that fail, and what the lowest of them reports. -/
def Ctx.perLane (x : Ctx) (c : Cause) (lanes : Lanes) (ok : Nat → Bool) (info : Nat → Nat) : Except Trap Unit :=
  let bad := mkLanes (fun l => lanes.getLsbD l && !ok l)
  if bad = 0 then .ok () else .error (x.trap c bad (info (lowest bad)))

/-! ### Scratch windows -/

/-- The place a window offset has (Table 7-1). -/
def swizzle (mode w : Nat) : Nat :=
  let row := w / 512
  if mode = 0 then w
  else if mode = 7 then w ^^^ (row % 32 * 16)
  else w ^^^ (row % 2 ^ mode * 8)

/-- The window of a block on each of its cores, in bytes (R144). -/
def Launch.window (l : Launch) : Nat := l.hdr.scratch * 1024

/-- The window that a scratch pointer names, for a block that issues on a core (Table 5-3). -/
def spotOf (b : Block) (core : Nat) (p : PtrBits) : Spot :=
  if pClScratch p then { b := b.ref, pos := (b.posOf (clScratchCore p)).getD 0 }
  else if pLaunchScratch p then { b := ⟨b.ref.launch, pBase p / 2 ^ 23⟩, pos := pBase p / 2 ^ 21 % 4 }
  else { b := b.ref, pos := (b.posOf core).getD 0 }

/-- The key of a window byte: its core position and its swizzled offset (R146). -/
def winKey (pos swz a : Nat) : Nat := 2 ^ 21 * pos + swizzle swz (a % 2 ^ 21)

/-- A window byte; one nothing has written since the block started is 0 (R145); none in a poisoned sector. -/
def Block.winRead (b : Block) (k : Nat) : Option Byte := if b.winPoison.contains (k / 32) then none else some (sgetD b.window k 0)

/-- Writes the bytes of one window sector, none standing for poison (R85). -/
def Block.winSector (b : Block) (sec : Nat) (ws : List (Nat × Option Byte)) : Block :=
  let full := (List.range 32).all (fun o => ws.any (fun x => x.1 == 32 * sec + o))
  if ws.any (fun x => x.2.isNone) then { b with winPoison := if b.winPoison.contains sec then b.winPoison else sec :: b.winPoison }
  else if b.winPoison.contains sec ∧ !full then b
  else
    { b with window := ws.foldl (fun (m : Sparse Byte) (x : Nat × Option Byte) => sput 0 m x.1 (x.2.getD 0)) b.window
             winPoison := b.winPoison.filter (· != sec) }

/-! ### Translation -/

/-- What a translation comes to (R120, R124). -/
inductive Xl where
  | ok (key : Nat) (level : Nat)
  | fault (cause : Nat)
  | mismatch
  /-- A table entry the walker reads is poisoned. -/
  | poison (key : Nat)
  deriving DecidableEq, Repr

/-- What an access wants of a translation. -/
structure XlReq where
  vif : Nat
  ctx : Nat
  /-- 0 device memory, 1 host memory (R120); 2 either, for LOCQ. -/
  tgt : Nat
  write : Bool
  fetch : Bool := false
  /-- LOCQ sets no bit and caches nothing (R142). -/
  quiet : Bool := false
  deriving DecidableEq, Repr

/-- The bytes that an entry of a level covers; level 6 stands for a 64 KiB page. -/
def xlSize (level : Nat) : Nat := if level = 6 then 65536 else 2 ^ (12 + 9 * (level - 1))
/-- The address bits above a level's page. -/
def xlTag (level va : Nat) : Nat := va / xlSize level

/-- A cached entry of a unit. -/
def State.tlb? (s : State) (u : CacheId) (vif ctx level va : Nat) : Option Nat :=
  (s.tlbs.find? (fun t => t.unit == u && t.vif == vif && t.ctx == ctx && t.level == level && t.va == xlTag level va)).map (·.entry)

/-- The sets and the ways of a unit's structure (Table 5-7): 384 entries in an L1 TLB, 8,192 in a cluster's, 1,024 in a walk cache. -/
def tlbShape : CacheId → Nat × Nat
  | .l1 _ => (32, 12) | .cl _ => (512, 16) | _ => (1, 1024)

/-- Caches an entry in a unit, the oldest of its set leaving where that is full. DESIGN CHOICE: an entry's set is its page's number in
pages of its own size, modulo the sets; a walk cache is one set. -/
def State.setTlb (s : State) (u : CacheId) (vif ctx level va entry : Nat) : State :=
  let t : Tlb := { unit := u, vif, ctx, level, va := xlTag level va, entry }
  let rest := s.tlbs.filter (fun y => !(y.unit == u && y.vif == vif && y.ctx == ctx && y.level == level && y.va == t.va))
  let mine := fun (y : Tlb) => y.unit == u && y.va % (tlbShape u).1 == t.va % (tlbShape u).1
  { s with tlbs := t :: ((rest.filter mine).take ((tlbShape u).2 - 1) ++ rest.filter (fun y => !mine y)) }

/-- A table entry's fields (Table 5-6). -/
def xlLeaf (level e : Nat) : Bool := level == 1 || (decide (level ≤ 3) && field e 60 1 == 1)
def xlTgt (e : Nat) : Nat := field e 57 2
def xlAddr (e : Nat) : Nat := field e 12 40 * 4096

/-- The entry is malformed (R119). DESIGN CHOICE: an unplaced leaf (tgt = 2) names no page, so no alignment is asked of its address, and
it is reported as unplaced. -/
def xlMalformed (level e : Nat) : Bool :=
  field e 52 5 != 0 || field e 9 3 != 0 || field e 0 7 != 0 || xlTgt e == 3 ||
  (decide (4 ≤ level) && field e 60 1 == 1) ||
  (if xlLeaf level e then
    (xlTgt e == 0 && decide (2 ^ 39 ≤ xlAddr e)) ||
    (xlTgt e != 2 && ((level == 3 && xlAddr e % 2 ^ 30 != 0) || (level == 2 && xlAddr e % 2 ^ 21 != 0)))
   else xlTgt e != 0 || decide (2 ^ 39 ≤ xlAddr e))

/-- What a leaf gives an access, in the order of R120: the key, and the level, which is 4 for a 64 KiB page (level 6 among the cached
entries), whose frame is that of its share. -/
def xlJudge (r : XlReq) (level e va : Nat) : Xl :=
  if xlTgt e = 2 then .fault 1
  else if r.tgt ≠ 2 ∧ xlTgt e ≠ r.tgt then .mismatch
  else if r.write ∧ field e 62 1 = 0 then .fault 2
  else if r.fetch ∧ field e 61 1 = 0 then .fault 3
  else
    let frame := xlAddr e / xlSize level * xlSize level
    .ok ((if xlTgt e = 1 then hostBase else 0) + frame + va % xlSize level) (if level = 6 then 4 else level)

/-- The share that serves an address whose level-1 entry has c64 set, with its place in the table: the address's own, or any one of the
sixteen, taken whole, where they do not agree in the fields that the driver writes (R119). -/
def State.c64Entry (s : State) (vif table va e : Nat) : (Nat × Nat) × State :=
  let own := va / 4096 % 512
  let i := own / 16 * 16
  let r := s.homeRead vif (table + 8 * i) 128
  match r.1 with
  | none => ((own, e), r.2)
  | some bs =>
    let es := (List.range 16).map (fun k => leNat ((bs.drop (8 * k)).take 8))
    -- every field but addr, a and d
    let bare := fun x => x - xlAddr x - field x 7 2 * 128
    let first := es.getD 0 0
    let agree := (List.range 16).all (fun k => bare (es.getD k 0) == bare first && xlAddr (es.getD k 0) == xlAddr first + 4096 * k)
      && xlAddr first % 65536 == 0
    if agree then ((own, e), r.2)
    else (choose (own, e) s.tick (2 ^ 40 + va / 65536) ((List.range 16).map (fun k => (i + k, es.getD k 0))), r.2)

/-- An entry with its accessed bit set, and its dirty bit for a write (R119). -/
def xlMark (write : Bool) (e : Nat) : Nat :=
  let e1 := e - field e 8 1 * 256 + 256
  if write then e1 - field e1 7 1 * 128 + 128 else e1

/-- Walks the tables from a level down (R118 to R120). `units` are the TLBs that keep the leaf. -/
def State.walk (r : XlReq) (units : List CacheId) (die va : Nat) : Nat → Nat → State → Xl × State
  | 0, _, s => (.fault 4, s)
  | l + 1, table, s =>
    let level := l + 1
    let a := table + 8 * (va / 2 ^ (12 + 9 * l) % 512)
    let got : Option Nat × State :=
      match s.tlb? (.rdc die) r.vif r.ctx level va with
      | some e => (some e, s)
      | none => let q := s.homeRead r.vif a 8; (q.1.map leNat, q.2)
    match got.1 with
    | none => (.poison a, got.2)
    | some e0 =>
      if field e0 63 1 = 0 then (.fault 0, got.2)
      else if xlMalformed level e0 then (.fault 4, got.2)
      else if !xlLeaf level e0 then
        let s1 := if r.quiet then got.2 else got.2.setTlb (.rdc die) r.vif r.ctx level va e0
        State.walk r units die va l (xlAddr e0) s1
      else
        let wide := decide (level = 1) && field e0 59 1 == 1
        let q := if wide then got.2.c64Entry r.vif table va e0 else ((va / 2 ^ (12 + 9 * l) % 512, e0), got.2)
        let e := q.1.2
        let page := if wide then 6 else level
        if field e 63 1 = 0 then (.fault 0, q.2)
        else if xlMalformed level e then (.fault 4, q.2)
        else
          match xlJudge r page e va with
          | .ok key lv =>
            if r.quiet then (.ok key lv, q.2)
            else
              let e1 := xlMark r.write e
              let s1 := if e1 = e then q.2 else q.2.homeWrite r.vif (table + 8 * q.1.1) (leBytes 8 e1)
              (.ok key lv, units.foldl (fun t u => t.setTlb u r.vif r.ctx page va e1) s1)
          | other => (other, q.2)

/-- Where ATS is enabled on an interface's function, a leaf's host address is untranslated, and the host bridge has it translated, page by
page (R448). -/
def State.atsMap (s : State) (vif : Nat) : Xl → Xl
  | .ok key level =>
    if hostBase ≤ key ∧ (s.vif vif).ats then
      .ok (hostBase + Config.atsPage vif ((key - hostBase) / 4096) % 2 ^ 40 * 4096 + key % 4096) level
    else .ok key level
  | x => x

/-- Translates a virtual address: a TLB's entry serves, but for a write whose page is not yet marked dirty, which walks
(R119, R121). DESIGN CHOICE: in a context that names no root table, no entry is present (cause 0). -/
def State.translate (s : State) (r : XlReq) (units : List CacheId) (die va : Nat) : Xl × State :=
  let hit := units.findSome? (fun u => [1, 6, 2, 3].findSome? (fun level =>
    (s.tlb? u r.vif r.ctx level va).map (fun e => (level, e))))
  let walkIt : Xl × State :=
    match sget (s.vif r.vif).roots r.ctx with
    | none => (.fault 0, s)
    | some root => State.walk r units die va 5 root s
  let got := match hit with
    | some (level, e) => if r.write ∧ field e 62 1 = 1 ∧ field e 7 1 = 0 then walkIt else (xlJudge r level e va, s)
    | none => walkIt
  (s.atsMap r.vif got.1, got.2)

/-- The TLBs of a core. -/
def coreTlbs (core : Nat) : List CacheId := [.l1 core, .cl (clusterOf core)]

/-! ### Fault records (R124) -/

/-- The lowest number that a list lacks. -/
def freshFrom : Nat → Nat → List Nat → Nat
  | 0, n, _ => n
  | k + 1, n, used => if used.contains n then freshFrom k (n + 1) used else n

/-- An access kind's part in sharing a record: whether it writes. -/
def AccKind.writes : AccKind → Bool
  | .write | .atomic | .engWrite => true
  | _ => false

/-- An engine's access: its record names the engine, so that it shares one only with that engine's (R187). -/
def AccKind.engine : AccKind → Bool
  | .engRead | .engWrite => true
  | _ => false

/-- Writes a fault record, or joins the outstanding one of the same page, context and kind; its tag. DESIGN CHOICE: a new record takes the
lowest tag that no outstanding record of the interface has. -/
def State.faultRecord (s : State) (r : FaultRec) : Nat × State :=
  let v := s.vif r.vif
  match v.faults.find? (fun f => f.ctx == r.ctx && f.va / 4096 == r.va / 4096 && AccKind.writes f.kind == AccKind.writes r.kind &&
      AccKind.engine f.kind == AccKind.engine r.kind && (!AccKind.engine r.kind || f.source == r.source)) with
  | some f => (f.tag, s)
  | none =>
    let tag := freshFrom 65536 0 (v.faults.map (·.tag))
    (tag, s.setVif r.vif { v with faults := v.faults ++ [{ r with tag, time := s.time }] })

/-! ### Bytes behind a pointer

A core's access to the bytes of a pointer of the scratch, global and host spaces, once translated. -/

/-- Where a byte lies. -/
inductive Loc where
  | win (b : BRef) (key : Nat)
  | mem (key : Nat)
  /-- Peer memory of the device's own rank: at the package point, and cached nowhere (R103, R126). -/
  | home (key : Nat)
  deriving DecidableEq, Repr

/-- Where the bytes of an access lie, byte by byte, or what keeps them from being found: the first of its causes. -/
inductive Found where
  | at_ (locs : List Loc)
  | fault (va cause : Nat)
  | mismatch
  | poison (key : Nat)
  deriving DecidableEq, Repr

/-- Finds `n` bytes from a byte address of a pointer on; those of a scratch pointer in the window given, else in the one it names now. -/
def Ctx.find (x : Ctx) (p : PtrBits) (write : Bool) (a : Nat) (n : Nat) (s : State) (spot : Option Spot := none) : Found × State :=
  if pSpace p = 1 ∨ pSpace p = 2 then
    let sp := spot.getD (spotOf x.b x.g.core p)
    (.at_ ((List.range n).map (fun k => .win sp.b (winKey sp.pos (pSwz p) (a + k)))), s)
  else
    let r : XlReq := { vif := x.l.vif, ctx := x.l.ctx, tgt := if pHost p then 1 else 0, write }
    let a0 := if pPeer p then a % 2 ^ 45 else a
    let loc := fun key => if pPeer p then Loc.home key else Loc.mem key
    (List.range n).foldl (fun acc k =>
      match acc.1 with
      | .at_ ls =>
        let q := acc.2.translate r (coreTlbs x.g.core) (dieOf x.g.core) (a0 + k)
        (match q.1 with
          | .ok key _ => .at_ (ls ++ [loc key])
          | .fault c => .fault (a0 + k) c
          | .mismatch => .mismatch
          | .poison key => .poison key, q.2)
      | other => (other, acc.2)) (.at_ [], s)

/-- A core's way to cached memory through a pointer. -/
def Ctx.via (x : Ctx) (p : PtrBits) (na : Bool := false) : Via :=
  { core := x.g.core, vif := x.l.vif, sync := pClass p == 2, scope := pScope p, na }

/-- A window byte by its key: none where it is poison; a window that is not there has no stated value. -/
def State.winRead (s : State) (b : BRef) (k : Nat) : Option Byte :=
  match s.block? b with
  | some blk => if blk.place = .exited then some (BitVec.ofNat 8 (Config.free s.tick (2 ^ 44 + k))) else blk.winRead k
  | none => some (BitVec.ofNat 8 (Config.free s.tick (2 ^ 44 + k)))

/-- Writes window bytes, the bytes of one sector together; those of a window that is gone are dropped (R187). A part of a
poisoned sector merges nothing and is counted (R85). -/
def State.winWrites (s : State) (b : BRef) (ws : List (Nat × Option Byte)) : State :=
  ((ws.map (fun x => x.1 / 32)).eraseDups).foldl (fun (t : State) (sec : Nat) =>
    match t.block? b with
    | some blk =>
      if blk.place = .exited then t
      else
        let mine := ws.filter (fun x => x.1 / 32 == sec)
        let full := (List.range 32).all (fun o => mine.any (fun x => x.1 == 32 * sec + o))
        let die := dieOf (blk.cores.getD (sec / 2 ^ 16) 0)
        let t1 := if blk.winPoison.contains sec ∧ !full then t.count die 1 else t
        t1.setBlock (blk.winSector sec mine)
    | none => t) s

/-- Reads the sectors of some keys, each once, by `rd`: each sector as it answers. -/
def State.gather (s : State) (rd : State → Nat → List Nat → (List Byte × Bool) × State) (keys : List Nat) :
    Sparse (List Byte × Bool) × State :=
  ((keys.map (· / 32)).eraseDups).foldl (fun acc sec =>
    let r := rd acc.2 sec ((keys.filter (fun k => k / 32 == sec)).map (· % 32))
    (acc.1 ++ [(sec, r.1)], r.2)) ([], s)

/-- Reads located bytes, each sector once; none for a byte of a poisoned sector. -/
def State.readEach (s : State) (w : Via) (ls : List Loc) : List (Option Byte) × State :=
  let mems := ls.filterMap (fun l => match l with | .mem k => some k | _ => none)
  let homes := ls.filterMap (fun l => match l with | .home k => some k | _ => none)
  let m := s.gather (fun t sec offs => t.loadSector w sec offs) mems
  let h := m.2.gather (fun t sec offs => t.loadHome w sec offs) homes
  let at_ := fun (got : Sparse (List Byte × Bool)) (k : Nat) =>
    match sget got (k / 32) with
    | some (bs, false) => some (bs.getD (k % 32) 0)
    | _ => none
  (ls.map (fun l => match l with
    | .win b k => s.winRead b k
    | .mem k => at_ m.1 k
    | .home k => at_ h.1 k), h.2)

/-- Reads located bytes; none where one lies in a poisoned sector. -/
def State.readLocs (s : State) (w : Via) (ls : List Loc) : Option (List Byte) × State :=
  let r := s.readEach w ls
  (if r.1.all (·.isSome) then some (r.1.map (·.getD 0)) else none, r.2)

/-- Bits of located bytes: each byte's mask and its bits. -/
abbrev BitsAt (α : Type) := List (α × Nat × Nat)

/-- The bits that each byte takes of those named for it: of the last that names a bit (R148). -/
def mergeBits (ws : BitsAt Nat) : BitsAt Nat :=
  ((ws.map (fun (x : Nat × Nat × Nat) => x.1)).eraseDups).map (fun k =>
    (k, (ws.filter (fun x => x.1 == k)).foldl (fun (acc : Nat × Nat) x => (acc.1 ||| x.2.1, acc.2 &&& (255 - x.2.1) ||| x.2.2)) (0, 0)))

/-- Every named byte is named whole. -/
def wholeBits (ws : BitsAt Nat) : Bool := ws.all (fun x => x.2.1 == 255)
/-- Named whole bytes as the bytes that they are. -/
def bytesOf (ws : BitsAt Nat) : List (Nat × Byte) := ws.map (fun x => (x.1, BitVec.ofNat 8 x.2.2))

/-- Writes bits of a window's sector, a byte that is not named whole merged where it lies; in a poisoned sector that is dropped and
counted (R85, R148). -/
def State.winBits (s : State) (b : BRef) (ws : BitsAt Nat) : State :=
  if wholeBits ws then s.winWrites b ((bytesOf ws).map (fun x => (x.1, some x.2)))
  else
    let old := ws.map (fun x => s.winRead b x.1)
    if old.any (·.isNone) then
      match s.block? b with
      | some blk => s.count (dieOf (blk.cores.getD ((ws.map (fun (x : Nat × Nat × Nat) => x.1)).headD 0 / 2 ^ 21) 0)) 1
      | none => s
    else
      s.winWrites b ((old.zip ws).map (fun y =>
        (y.2.1, some (BitVec.ofNat 8 ((y.1.getD 0).toNat &&& (255 - y.2.2.1) ||| y.2.2.2)))))

/-- Writes bits of a sector of the device's own memory through a peer pointer, at the package point. -/
def State.homeBits (s : State) (w : Via) (sec : Nat) (ws : BitsAt Nat) : State :=
  if wholeBits ws then s.storeHome w sec (bytesOf ws)
  else
    let r := s.loadHome w sec (ws.map (fun (x : Nat × Nat × Nat) => x.1))
    if r.1.2 then r.2.count (homeDie sec) 1
    else r.2.storeHome w sec (ws.map (fun x => (x.1, BitVec.ofNat 8 ((r.1.1.getD x.1 0).toNat &&& (255 - x.2.1) ||| x.2.2))))

/-- Writes bits of located bytes, the bits of one sector together. -/
def State.writeBits (s : State) (w : Via) (ls : BitsAt Loc) : State :=
  let each := fun (keys : BitsAt Nat) (wr : State → Nat → BitsAt Nat → State) (t : State) =>
    ((keys.map (fun (x : Nat × Nat × Nat) => x.1 / 32)).eraseDups).foldl (fun (u : State) sec =>
      wr u sec (mergeBits (keys.filter (fun x => x.1 / 32 == sec)))) t
  let inSec := fun (ws : BitsAt Nat) => ws.map (fun x => (x.1 % 32, x.2))
  let wins := ls.filterMap (fun x => match x.1 with | .win b k => some (b, k, x.2) | _ => none)
  let homes := ls.filterMap (fun x => match x.1 with | .home k => some (k, x.2) | _ => none)
  let mems := ls.filterMap (fun x => match x.1 with | .mem k => some (k, x.2) | _ => none)
  let s1 := ((wins.map (·.1)).eraseDups).foldl (fun (t : State) (b : BRef) =>
    each ((wins.filter (fun x => x.1 == b)).map (·.2)) (fun u _ ws => u.winBits b ws) t) s
  let s2 := each homes (fun u sec ws => u.homeBits w sec (inSec ws)) s1
  each mems (fun u sec ws => if wholeBits ws then u.storeSector w sec (bytesOf (inSec ws)) else u.storeBits w sec (inSec ws)) s2

/-- Writes located bytes: the bytes of one sector are written together. -/
def State.writeLocs (s : State) (w : Via) (ls : List (Loc × Byte)) : State :=
  s.writeBits w (ls.map (fun x => (x.1, 255, x.2.toNat)))

end Sys2Proof.Machine
end

