-- ==== Sys2Proof/Machine/Code.lean ====
section
/-! DEFINITION. Instruction fetch through the core's instruction cache (03 R73 to R75) and the checks of branch targets
(R65, R66). -/

namespace Sys2Proof.Machine

open Sys2Proof

/-- What a fetch finds. -/
inductive Fetched where
  | word (w : Nat)
  | fault (va cause : Nat)
  /-- Translation refuses the access (R120). -/
  | refused
  | poison (va : Nat)
  deriving DecidableEq, Repr

/-- A line of a core's instruction cache. -/
def State.iline? (s : State) (core vif ctx line : Nat) : Option ILine :=
  s.ilines.find? (fun x => x.core == core && x.vif == vif && x.ctx == ctx && x.line == line)

/-- The cores of a die that hold a block of a launch of the same image (R73). -/
def State.imageCores (s : State) (die vif ctx base : Nat) : List Nat :=
  (s.blocks.flatMap (fun b =>
    match s.launch? b.ref.launch with
    | some l => if b.place = .resident ∧ l.vif = vif ∧ l.ctx = ctx ∧ pBase l.image = base then b.cores else []
    | none => [])).filter (fun c => dieOf c == die)

/-- The 128 bytes of a line, read by the die's fetch agent at package scope, and which of its sectors are poison. -/
def State.readLine (s : State) (vif die key : Nat) : (List Byte × List Nat) × State :=
  (List.range 4).foldl (fun acc k =>
    let sec := key / 32 + k
    let r := State.readLevel (homePath die sec) vif sec (List.range 32) acc.2
    ((acc.1.1 ++ r.1.1, if r.1.2 then acc.1.2 ++ [k] else acc.1.2), r.2)) (([], []), s)

/-- Takes lines into the instruction caches: 2,048 lines each, in 128 sets of 16 ways (R73). DESIGN CHOICE: a line's set is its number
modulo the sets, and the oldest line of a full set leaves. -/
def State.takeLines (s : State) (news : List ILine) : State :=
  news.foldl (fun (t : State) (x : ILine) =>
    let mine := fun (y : ILine) => y.core == x.core && y.line % 128 == x.line % 128
    { t with ilines := x :: ((t.ilines.filter mine).take 15 ++ t.ilines.filter (fun y => !mine y)) }) s

/-- Fills a missing line and delivers it (R73). -/
def State.fillLine (s : State) (core vif ctx base line : Nat) : Except Fetched ILine × State :=
  let die := dieOf core
  let va := 128 * line
  let q := s.translate { vif, ctx, tgt := 0, write := false, fetch := true } (coreTlbs core) die va
  match q.1 with
  | .fault c => (.error (.fault va c), q.2)
  | .mismatch => (.error .refused, q.2)
  | .poison _ => (.error (.poison va), q.2)
  | .ok key _ =>
    let r := q.2.readLine vif die key
    let cores := (core :: r.2.imageCores die vif ctx base).eraseDups
    let fresh : ILine := { core, vif, ctx, line, bytes := r.1.1, poison := r.1.2 }
    let news := cores.filterMap (fun c => if (r.2.iline? c vif ctx line).isSome then none else some { fresh with core := c })
    (.ok fresh, r.2.takeLines news)

/-- The word at a byte offset of a launch's image, fetched for a core; a word of a poisoned sector is poison (R75, R85). DESIGN CHOICE: a
translation fault of the line's fill is reported at the address of the word that the fetch was for. -/
def State.fetch (s : State) (core : Nat) (l : Launch) (off : Nat) : Fetched × State :=
  let va := pBase l.image + off
  let take := fun (x : ILine) =>
    if x.poison.contains (va % 128 / 32) then Fetched.poison (va / 32 * 32) else .word (leNat ((x.bytes.drop (va % 128)).take 8))
  match s.iline? core l.vif l.ctx (va / 128) with
  | some x => (take x, s)
  | none =>
    let q := s.fillLine core l.vif l.ctx (pBase l.image) (va / 128)
    match q.1 with
    | .ok x => (take x, q.2)
    | .error (.fault _ c) => (.fault va c, q.2)
    | .error (.poison _) => (.poison (va / 32 * 32), q.2)
    | .error e => (e, q.2)

/-- An offset lies among the code words (R65, its first two conditions). -/
def Launch.inCode (l : Launch) (t : Nat) : Bool := t % 8 == 0 && decide (64 ≤ t) && decide (t < 64 + l.hdr.codelen)

/-- What the check of a branch target comes to (R65). -/
inductive Target where
  | good
  | bad
  | stop (f : Fetched)
  deriving DecidableEq, Repr

/-- Checks one target (R65). -/
def State.target (s : State) (core : Nat) (l : Launch) (t : Nat) : Target × State :=
  if !l.inCode t then (.bad, s)
  else
    let r := s.fetch core l t
    match r.1 with
    | .word w => (if wordKind w = 3 then .good else .bad, r.2)
    | f => (.stop f, r.2)

/-- Checks several targets: the bad ones, and those whose word cannot be fetched, with what stops each (R66). -/
def State.targets (s : State) (core : Nat) (l : Launch) (ts : List Nat) : (List Nat × List (Nat × Fetched)) × State :=
  ts.foldl (fun acc t =>
    let r := acc.2.target core l t
    match r.1 with
    | .good => (acc.1, r.2)
    | .bad => ((t :: acc.1.1, acc.1.2), r.2)
    | .stop f => ((acc.1.1, acc.1.2 ++ [(t, f)]), r.2)) (([], []), s)

/-- The clause that holds an offset, found by walking the headers from offset 64 on (R43, R51). `n` bounds the walk. -/
def State.clauseAt (core : Nat) (l : Launch) (t : Nat) : Nat → Nat → State → Option Clause
  | 0, _, _ => none
  | n + 1, head, s =>
    if t ≤ head then none
    else
      match (s.fetch core l head).1 with
      | .word w =>
        match decodeHeader l.hdr.version w with
        | none => none
        | some h =>
          let stop := head + 8 * (h.count + 1)
          if t < stop then some { head, stop, flagA := h.flagA, flagB := h.flagB, yld := h.yld }
          else State.clauseAt core l t n stop (s.fetch core l head).2
      | _ => none

end Sys2Proof.Machine
end

