-- ==== Sys2Proof/Machine/Flags.lean ====
section
/-! DEFINITION. Completion flags and the status bits (R53 to R56, R222, Table 12-2): counting an operation in, taking it
out, and the sticky exceptions of sr.fpstat. -/

namespace Sys2Proof.Machine

open Sys2Proof

/-- Adds one to a flag, up to 63 (R53). -/
def Group.count (g : Group) (n : Nat) : Group := { g with flags := sput 0 g.flags n (min 63 (g.flag n + 1)) }
/-- Takes one from a flag. -/
def Group.uncount (g : Group) (n : Nat) : Group := { g with flags := sput 0 g.flags n (g.flag n - 1) }
/-- Counts an operation in its flag, where it has one. -/
def Group.countIn (g : Group) (f : Option (Fin 12)) : Group :=
  match f with
  | some n => g.count n.val
  | none => g
/-- Takes an operation out of its flag. -/
def Group.countOut (g : Group) (f : Option (Fin 12)) : Group :=
  match f with
  | some n => g.uncount n.val
  | none => g
/-- Every flag is clear. -/
def Group.flagsClear (g : Group) : Bool := (List.range 12).all (fun n => g.flag n == 0)

/-- The flag an instruction sets: an entry's own where it runs again, else the one fsel selects (R54, R423). -/
def Ctx.flag (x : Ctx) (i : Instr) : Option (Fin 12) :=
  match x.c.inj with
  | some (_, f) => f
  | none =>
    if i.setsFlag then (match i.ctl with | some c => if c.fsel then x.c.flagB else x.c.flagA | none => none) else none

/-- Sets sticky exceptions (Table 12-2: bits 0 to 4). -/
def Group.stick (g : Group) (x : BitVec 5) : Group := { g with fpstat := g.fpstat ||| x.setWidth 32 }

/-- What a debug register holds of a written value: its reserved bits read as zero (R6, Table 26-5). -/
def debugBits (n : Nat) (x : BitVec 64) : BitVec 64 :=
  match n with
  | 0x20 => x &&& 3
  | 0x21 | 0x22 | 0x23 | 0x24 => x &&& 0xFFFFFFF9
  | 0x27 | 0x28 => x &&& 0xFFFF0003
  | _ => x

/-- The fragment's last instruction has not finished: it waits in a WAITA, a CWAIT, a DEQ or a CJOIN (R222). -/
def Frag.waitsOn (f : Frag) : Bool := match f.wait with | .test _ | .deq .. | .cjoin _ => true | _ => false

/-- The operations that count among the group's 16 (R415). -/
def Group.unfinished (g : Group) : Nat :=
  (g.pend.filter (fun p => p.counted)).length + (g.frags.map (fun f => f.inject.length + b01 f.waitsOn)).sum

/-- An access to a peer or to the host whose response has not come (R208). -/
def Group.awaiting (g : Group) : Bool := g.pend.any (fun p => match p.doing with | .response _ => true | _ => false)

/-- The entries that a fragment has yet to issue again, and those that stand in its frames. -/
def Frag.entries (f : Frag) : List Entry :=
  let of_ := fun (x : Option Frame) => match x with | some fr => fr.entries | none => []
  f.inject ++ of_ f.frame ++ of_ f.under

/-- The access of an entry has gone out, and its response has not come. -/
def State.out (s : State) (e : Entry) : Bool :=
  match e.peer with
  | some id => s.requests.any (fun r => r.id == id && r.answer.isNone)
  | none => false

/-- An access of the group to a peer or to the host has not been performed, those that stand in a frame or wait to be issued again among
them (R208). -/
def State.awaiting (s : State) (g : Group) : Bool := g.awaiting || g.frags.any (fun f => f.entries.any s.out)

end Sys2Proof.Machine
end

