-- ==== Sys2Proof/Machine/Ops.lean ====
section
/-! DEFINITION. The operations that every instruction shares: the end of an issue, merges and barriers, a thread's and a
launch's end, taking a trap (R414 to R421), the return from one (R422 to R424), and `State.run`, the form of a meaning. -/

namespace Sys2Proof.Machine

open Sys2Proof

/-! ### Reports -/

/-- The global timestamp as a 64-bit number. -/
def State.now (s : State) : Nat := s.time

/-- A thread's name (Table 26-1). -/
def threadName (b : BRef) (thread : Nat) : Nat := thread % 2 ^ 16 + 2 ^ 16 * (b.block % 2 ^ 24) + 2 ^ 40 * (b.launch % 2 ^ 16)

/-- The thread in a lane of a group. -/
def Group.threadAt (g : Group) (l : Nat) : Nat := (g.threads.getD l none).getD 0

/-- Puts a trace record on its way to the interface's ring, where its mask enables the kind (R437). -/
def State.traceRec (s : State) (vif : Nat) (r : TraceRec) : State :=
  let v := s.vif vif
  if v.ringSlots ≠ 0 ∧ v.ringKinds.testBit r.kind then s.setVif vif { v with trace := v.trace ++ [r] } else s

/-- Reports to the error queues: PF 0's always, the interface's for its own launches and for kinds 3, 4 and 5 (R455). -/
def State.errorRec (s : State) (r : ErrRec) : State :=
  let s1 := { s with errors := s.errors ++ [r] }
  if 3 ≤ r.kind ∧ r.kind ≤ 5 then
    (List.range 64).foldl (fun (t : State) (i : Nat) => t.setVif i { t.vif i with errors := (t.vif i).errors ++ [r] }) s1
  else
    match s1.launch? r.launch with
    | some l => let v := s1.vif l.vif; s1.setVif l.vif { v with errors := v.errors ++ [r] }
    | none => s1

/-! ### Fragments moving on -/

/-- A fragment at the word after its instruction: the prefix position moves and the clause may end (R51, R60). -/
def Frag.advance (f : Frag) (npc : Nat) : Frag :=
  { f with
    pc := npc
    clause := f.clause.bind (fun c => if c.stop ≤ npc then none else some c)
    pfx := f.pfx.bind (fun p => if p.len ≤ p.pos + 1 ∨ f.clause.any (fun c => c.stop ≤ npc) then none else some { p with pos := p.pos + 1 }) }

/-- How an instruction leaves its fragment: at the next word, where the instruction has put it, where a return from a trap has, or in
a trap that its checks of memory have ended in. -/
inductive Flow where | step | stay | resumed | trapped | held
  deriving DecidableEq, Repr

/-- What a meaning's own part answers. -/
abbrev Body := Ctx → State → Except Trap (State × Flow)

/-! ### Rejoin masks (R374 to R376) -/

/-- The fragment waits at a JWAIT of a register. -/
def Frag.atJwait (f : Frag) (k : Nat) : Bool := match f.wait with | .jwait j => j.val == k | _ => false
/-- The fragment waits at some JWAIT. -/
def Frag.jwaiting (f : Frag) : Bool := match f.wait with | .jwait _ => true | _ => false

/-- The rejoin register is live (R374). -/
def Rejoin.live (r : Rejoin) : Bool := r.expected != 0 || r.arrived != 0

/-- Merges the fragments that wait on a register, where its release test succeeds (R375). -/
def Group.joinK (g : Group) (k : Nat) : Group :=
  let r := g.rejoin k
  match r.wpc with
  | none => g
  | some pc =>
    if r.expected &&& g.live &&& ~~~r.arrived = 0 then
      let ws := g.frags.filter (fun f => f.atJwait k)
      let f : Frag :=
        { lanes := r.arrived, pc := pc, clause := ws.findSome? (·.clause), last := g.seq
          traps := ws.flatMap (·.traps), kept := ws.flatMap (·.kept), handler := ws.any (·.handler), frame := ws.findSome? (·.frame)
          stopped := ws.any (·.stopped), allStop := ws.any (·.allStop), stepped := ws.any (·.stepped) }
      { g with frags := { f.advance (pc + 8) with pfx := none } :: g.frags.filter (fun f => !f.atJwait k),
               j := sput {} g.j k {} }
    else g

/-- Makes every release test of a group again. -/
def Group.joinAll (g : Group) : Group := (List.range 8).foldl Group.joinK g

/-- The mask of live rejoin registers. -/
def Group.liveMask (g : Group) : Nat := bitsNat (fun k => (g.rejoin k).live) 8

/-! ### Barriers (R407, R408) -/

/-- The groups of a block, resident or saved. -/
def State.groupsOf (s : State) (b : BRef) : List Group :=
  s.groups.filter (fun (g : Group) => g.ref.b == b) ++ (match s.block? b with | some x => x.saved | none => [])

/-- Threads wait in the block's bins. -/
def Block.binned (b : Block) : Bool := b.bins.any (fun x => !x.threads.isEmpty)

/-- Every live thread of a block is in a fragment that a test accepts. -/
def State.allAt (s : State) (b : BRef) (p : Frag → Bool) : Bool :=
  (s.groupsOf b).all (fun g => g.frags.all p) && !(match s.block? b with | some x => x.binned | none => false)

def Frag.atBar (f : Frag) : Bool := match f.wait with | .bar => true | _ => false
def Frag.atCbar (f : Frag) : Bool := match f.wait with | .cbar => true | _ => false
def Frag.atCjoin (f : Frag) : Bool := match f.wait with | .cjoin _ => true | _ => false

/-- Lets fragments go on. -/
def Group.wake (g : Group) (p : Frag → Bool) : Group :=
  { g with frags := g.frags.map (fun f => if p f then { f with wait := .no } else f) }

/-- Releases a block's arrived fragments, each with an acquire of a scope. -/
def State.wakeBlock (s : State) (b : BRef) (scope : Nat) (p : Frag → Bool) : State :=
  let cores := ((s.groups.filter (fun (g : Group) => g.ref.b == b)).map (fun (g : Group) => g.core)).eraseDups
  let s1 := cores.foldl (fun (t : State) (c : Nat) => t.acquire c scope) s
  let s2 := { s1 with groups := s1.groups.map (fun (g : Group) => if g.ref.b = b then g.wake p else g) }
  match s2.block? b with
  | some x => s2.setBlock { x with saved := x.saved.map (fun (g : Group) => g.wake p) }
  | none => s2

/-- Completes a block's barrier where every live thread has arrived (R407). -/
def State.checkBar (s : State) (b : BRef) : State :=
  if (s.groupsOf b).any (fun g => g.frags.any Frag.atBar) ∧ s.allAt b Frag.atBar then s.wakeBlock b 1 Frag.atBar else s

/-- The blocks of a launch that have not exited. -/
def State.liveBlocks (s : State) (launch : Nat) : List Block :=
  s.blocks.filter (fun b => b.ref.launch == launch && b.place != .exited)

/-- Completes a launch's barrier where every live thread of every block has arrived (R408). -/
def State.checkCbar (s : State) (launch : Nat) : State :=
  match s.launch? launch with
  | none => s
  | some l =>
    let bs := s.liveBlocks launch
    if l.placed = l.nblk ∧ bs.any (fun b => (s.groupsOf b.ref).any (fun g => g.frags.any Frag.atCbar)) ∧
        bs.all (fun b => s.allAt b.ref Frag.atCbar) then
      bs.foldl (fun (t : State) (b : Block) =>
        let t1 := t.wakeBlock b.ref 3 Frag.atCbar
        match t1.block? b.ref with
        | some x => (match x.place with | .evicted _ => t1.setBlock { x with place := .evicted true } | _ => t1)
        | none => t1) s
    else s

/-! ### The end of a thread, a block and a launch -/

/-- The lineage has settled: its tiles are provisional no more (R340). -/
def Lineage.settled (l : Lineage) : Bool :=
  (if l.remote then l.firsts.all (fun k => l.corrections.any (fun c => c.1 == k)) else l.complete) && l.spurs.all (fun p => p.corr.isSome)

/-- A lineage holds a tile of the gang (R346). Every tile of a lineage is its root's gang's. -/
def State.lineageHolds (s : State) (b : BRef) (gang : Nat) : Bool :=
  s.lineages.any (fun l => l.root.b == b && l.root.gang == gang && !l.settled)

/-- Closes the gang's open MPUB lineages (R334). -/
def State.closeRoots (s : State) (b : BRef) (gang : Nat) : State :=
  { s with lineages := s.lineages.map (fun l => if l.root.b = b ∧ l.root.gang = gang then { l with opens := 0 } else l) }

/-- A blocking point or an EXIT of a gang closes its open MPUB lineages, those also of the MPUBs that still stand in the queue: such a one
counts no MLOOP that is issued later (R334, R345, R346). -/
def State.closeOpen (s : State) (b : BRef) (gang : Nat) : State :=
  let mpub := fun (o : TileOp) => o.g.b == b && o.gang == gang && o.closedAt.isNone && (match o.job with | .mpub .. => true | _ => false)
  let close := fun (o : TileOp) => if mpub o then { o with closedAt := some s.serial } else o
  { s.closeRoots b gang with quads := s.quads.map (fun (q : Quad) => { q with queue := q.queue.map close }) }

/-- A block has reached a blocking point, exited or been placed, for its interface's watchdog (R431). -/
def State.noteMove (s : State) (b : BRef) : State :=
  match s.launch? b.launch with
  | some l => if (s.vif l.vif).wdSince.isSome then s.setVif l.vif { s.vif l.vif with wdMoved := true } else s
  | none => s

/-- A fragment reaches a blocking point (R334, R431). -/
def State.reachPoint (s : State) (b : BRef) (gang : Nat) : State := (s.closeOpen b gang).noteMove b

/-- A block leaves its cores: what it held of the last 100 ms counts as its interface's usage (R430). -/
def State.noteUsage (s : State) (x : Block) : State :=
  match s.launch? x.ref.launch with
  | some l =>
    let v := s.vif l.vif
    s.setVif l.vif { v with usage := v.usage.filter (fun u => decide (s.time < u.2.1 + 100000000)) ++ [(x.placedAt, s.time, x.cores.length)] }
  | none => s

/-- A run of B registers of the gang is locked (R294). -/
def State.runLocked (s : State) (b : BRef) (gang : Nat) : Bool :=
  s.quads.any (fun q => q.queue.any (fun o => o.locked && o.g.b == b && o.gang == gang))

/-- All threads of a group have exited and it has nothing left to do (R377). -/
def State.mayRetire (s : State) (g : Group) : Bool :=
  g.frags.isEmpty && g.live == 0 && g.present != 0 && g.flagsClear && !s.runLocked g.ref.b g.ref.gang &&
    !s.lineageHolds g.ref.b g.ref.gang

/-- Ends a block: its groups go, its windows, tiles and bins with them; its atomics log stays until the launch ends
(R167). -/
def State.exitBlock (s : State) (b : BRef) : State :=
  match s.block? b with
  | none => s
  | some x =>
    if x.place = .exited then s
    else
      let s0 := (if x.place = .resident then s.noteUsage x else s).noteMove b
      let s1 := { s0 with groups := s0.groups.filter (fun (g : Group) => g.ref.b != b) }
      -- the adds that its gangs still have in their queues read its tiles (R309, R418)
      let adds := s.quads.any (fun (q : Quad) => q.queue.any (fun o => o.g.b == b && (match o.job with | .drainAdd .. => true | _ => false)))
      let s2 := s1.setBlock { x with place := .exited, window := [], winPoison := [], tiles := if adds then x.tiles else [], tileInfo := [], bins := [], sources := [], saved := [] }
      match s2.launch? b.launch with
      | some l => s2.setLaunch { l with exitedBlocks := l.exitedBlocks + 1 }
      | none => s2

/-- Retires what may retire of a block, and ends it when no thread of it is left. -/
def State.settleBlock (s : State) (b : BRef) : State :=
  let s1 := { s with groups := s.groups.map (fun (g : Group) => if g.ref.b = b ∧ s.mayRetire g then { g with retired := true } else g) }
  match s1.block? b with
  | none => s1
  | some x =>
    let gs := s1.groups.filter (fun (g : Group) => g.ref.b == b)
    if x.place = .resident ∧ !x.binned ∧ gs.all (fun g => g.retired || (g.present == 0 && g.frags.isEmpty)) then
      (s1.exitBlock b).checkCbar b.launch
    else s1

/-- Tile instructions use their adapter chunks no more: a chunk that an AFLUSH has named goes with its last pin (R318, R326). -/
def State.unpin (s : State) (ids : List Nat) : State :=
  let one := fun (k : AChunk) =>
    let pins := k.pins.filter (fun id => !ids.contains id)
    if k.doomed ∧ pins.isEmpty then none else some { k with pins }
  if ids.isEmpty then s else { s with chunks := s.chunks.filterMap one }

/-- Ends every block of a launch and the work they still had queued; what the engines accepted runs on, and lineages are
discarded (R340, R418). -/
def State.endBlocks (s : State) (launch : Nat) : State :=
  let s1 := (s.liveBlocks launch).foldl (fun (t : State) (b : Block) => t.exitBlock b.ref) s
  let mine := fun (b : BRef) => b.launch == launch
  let runsOn := fun (o : TileOp) => match o.job with | .drainAdd .. => false | _ => mine o.g.b
  let gone := s1.quads.flatMap (fun (q : Quad) => (q.queue.filter runsOn).map (fun (o : TileOp) => o.id))
  { s1.unpin gone with
    quads := s1.quads.map (fun q => { q with queue := q.queue.filter (fun o => !runsOn o) })
    lineages := s1.lineages.filter (fun l => !mine l.root.b)
    -- a copy's chunks and the adds of the tile engines are accepted: they run on (R187, R308)
    requests := s1.requests.filter (fun r => !mine r.g.b || r.chunk.isSome || r.tileAdd.isSome)
    colls := s1.colls.filter (fun r => !mine r.g.b) }

/-- Ends a launch with a status, unless it is ending already (Table 20-3). -/
def State.endLaunch (s : State) (launch status : Nat) : State :=
  match s.launch? launch with
  | none => s
  | some l =>
    if l.ending then s
    else (s.setLaunch { l with ending := true, status, placed := l.nblk }).endBlocks launch

/-! ### The trap frame (Tables 23-2 and 23-3) -/

/-- A cause's code (Table 23-1). -/
def Cause.code : Cause → Nat
  | .illegal => 0x01 | .badtgt => 0x02 | .bounds => 0x03 | .cls => 0x04 | .scope => 0x05 | .xlate => 0x06 | .access => 0x07
  | .align => 0x08 | .fpe => 0x09 | .softerr => 0x0A | .memerr => 0x0B | .bkpt => 0x0C | .step => 0x0D | .watch => 0x0E
  | .trapi => 0x0F | .noret => 0x10 | .jlive => 0x11 | .atomlog => 0x12 | .adir => 0x13 | .fabric => 0x14 | .timeout => 0x15

/-- A sum of fields, each with its lowest bit. -/
def fieldSum (fs : List (Nat × Nat)) : Nat := (fs.map (fun x => x.2 * 2 ^ x.1)).sum

/-- The index of the trapping entry. -/
def Frame.trapping (f : Frame) : Option Nat :=
  match f.trap.entry with
  | some q => f.entries.findIdx? (fun e => e.seq == q)
  | none => none

/-- The header as one number (Table 23-2). -/
def Frame.bits (f : Frame) (group : Nat) : Nat :=
  let t := f.trap
  let pf := f.pfx.getD { mask := 0, pattern := 0, len := 1, pos := 0 }
  fieldSum [(0, t.lanes.toNat), (64, f.frag.toNat), (128, f.sibs.toNat), (192, pf.mask.toNat), (256, t.info.toNat),
    (320, f.pc), (352, t.tpc), (384, t.cause.code), (392, b01 t.prec), (393, b01 t.eng), (394, b01 f.pfx.isSome),
    (395, pf.pos), (398, pf.len - 1), (401, pf.pattern.toNat), (412, t.fpx.toNat), (417, f.entries.length),
    (422, f.trapping.getD 0), (426, b01 f.trapping.isSome), (440, group), (450, t.rank), (512, f.time)]

/-- A register's 2,048-bit slot. -/
def rowBits (r : Row) : Nat := fieldSum ((List.range r.length).map (fun k => (32 * k, (Row.at r k).toNat)))

/-- An entry as one number (Table 23-3). -/
def Entry.bits (e : Entry) : Nat :=
  let slot := fun (rows : List Row) k => rowBits (rows.getD k [])
  let ext := fun k => match e.exts[k]? with | some x => if x < 2 ^ 62 then 2 ^ 62 + x else x - 2 ^ 62 | none => 0
  fieldSum [(0, e.word), (64, ext 0), (128, ext 1), (192, e.lanes.toNat), (256, e.pend.toNat), (320, e.last),
    (329, b01 e.mtx), (330, b01 e.skip), (331, b01 e.peer.isSome), (332, (match e.flag with | some n => n.val | none => 0)),
    (336, b01 e.flag.isSome), (384, slot e.ops.a 0), (2432, slot e.ops.a 1), (4480, slot e.ops.b 0), (6528, slot e.ops.b 1),
    (8576, slot e.ops.c 0), (10624, slot e.ops.c 1)]

/-- The bytes that a pointer's frame takes, written through the core's L1 where they translate. -/
def State.frameWrite (s : State) (core vif ctx va : Nat) (bs : List Byte) : State :=
  let w : Via := { core, vif, sync := false, scope := 3 }
  (List.range ((bs.length + 63) / 64)).foldl (fun (t : State) (k : Nat) =>
    let q := t.translate { vif, ctx, tgt := 0, write := true } (coreTlbs core) (dieOf core) (va + 64 * k)
    match q.1 with
    | .ok key _ => q.2.storeBytes w key ((bs.drop (64 * k)).take 64)
    | _ => q.2) s

/-- Bytes of a frame as the group reads them back; none where they do not translate or are poison. -/
def State.frameRead (s : State) (core vif ctx va n : Nat) : Option (List Byte) × State :=
  let w : Via := { core, vif, sync := false, scope := 3 }
  (List.range ((n + 63) / 64)).foldl (fun acc k =>
    let q := acc.2.translate { vif, ctx, tgt := 0, write := false } (coreTlbs core) (dieOf core) (va + 64 * k)
    match acc.1, q.1 with
    | some bs, .ok key _ =>
      let r := q.2.loadBytes w key (min 64 (n - 64 * k))
      (r.1.map (fun b => bs ++ b), r.2)
    | _, _ => (none, q.2)) (some [], s)

/-! ### Taking a trap (R415 to R419) -/

/-- The lanes of a group's fragments. -/
def Group.running (g : Group) : Lanes := g.frags.foldl (fun m f => m ||| f.lanes) 0

/-- The lane that stands for an outstanding operation: the lowest of its active set that a fragment still holds, or, where none
is left, of the fragment that issued it. -/
def Group.ownLane (g : Group) (p : Pend) : Nat :=
  let m := p.entry.lanes &&& g.running
  lowest (if m = 0 then p.frag &&& g.running else m)

/-- A fragment of the group holds an outstanding operation. -/
def Group.owns (g : Group) (f : Frag) (p : Pend) : Bool := f.lanes.getLsbD (g.ownLane p)

/-- The quad's record of a tile instruction. -/
def State.tileOp? (s : State) (g : GRef) (seq : Nat) : Option TileOp :=
  s.quads.findSome? (fun q => q.queue.find? (fun o => o.g == g && o.seq == seq))

/-- The operation will end in a trap, or in the watchpoint that it has touched. -/
def Pend.bound (p : Pend) : Bool := p.doing == .ready && (p.trap.isSome || p.watch.isSome)

/-- A request of a load from a peer or from the host. -/
def Request.isLoad (r : Request) : Bool := r.accs.all (fun a => match a.op with | .load _ => true | _ => false)

/-- The operation acts on registers only, so that the device may let it finish or make it an entry (R415, step 2). One that will end in a
trap becomes an entry, and arises again from it: behind another trap it may not finish in the handler (R416). -/
def State.mayFinish (p : Pend) (t : Trap) : Bool :=
  p.doing == .ready && t.entry != some p.entry.seq && p.soft.isNone && !p.bound && p.regOnly

/-- The replay entry that an outstanding operation becomes; none where it finishes instead (R415, step 2). A store or an atomic that has gone
to a peer or to the host finishes: the fabric or the bridge has accepted it. -/
def State.asEntry (s : State) (g : GRef) (t : Trap) (p : Pend) : Option Entry :=
  let plain := if t.entry = some p.entry.seq then some p.entry else none
  match p.doing with
    | .response id =>
      if plain.isSome then plain
      else if s.requests.any (fun r => r.id == id && r.isLoad) then some { p.entry with peer := some id, acq := p.acq }
      else none
    | .quad =>
      match s.tileOp? g p.entry.seq with
      | some o =>
        if o.suspended then some { p.entry with flag := o.entry.flag, mtx := true, last := if o.step = 0 then 511 else o.step - 1, pend := o.rows }
        else plain
      | none => plain
    | .trapping => if plain.isSome then plain else if p.entry.skip then none else some p.entry
    -- a check of fixed latency that fails while another trap is taken: the instruction runs again (R285, R416)
    | .ready =>
      if plain.isSome then plain
      else if p.soft.isSome ∨ (p.bound ∧ (p.regOnly ∨ p.again)) then some p.entry
      else if State.mayFinish p t ∧ Config.free s.tick (2 ^ 20 + p.entry.seq) % 2 = 1 then some p.entry
      else none
    | _ => plain

/-- What a fragment that takes a trap goes back to: what it sleeps on, but for a JWAIT or a gather, which it reaches again. -/
def Frag.rest (f : Frag) : Wait :=
  match f.wait with
  | .jwait _ | .reform .. | .reorder .. => .no
  | w => w

/-- The frame of a fragment's trap, and the group with its entries taken out of their flags. The trapping instruction comes first among those
that take a place, then the others that must, then those that may finish; what the 16 leave no room for stays outstanding (R415). -/
def State.formFrame (s : State) (g : Group) (f : Frag) (t : Trap) (later : List Entry) : Group × Frame :=
  let mine := g.pend.filter (fun p => g.owns f p)
  let entries := fun (q : Pend → Bool) => (mine.filter q).filterMap (fun p => s.asEntry g.ref t p)
  let own := fun (p : Pend) => t.entry == some p.entry.seq
  let made := (entries own ++ entries (fun p => !own p && p.counted && !State.mayFinish p t) ++ entries (fun p => !own p && !p.counted) ++
    entries (fun p => !own p && p.counted && State.mayFinish p t)).take (16 - (f.inject.length + later.length))
  let gone := fun (p : Pend) => g.owns f p && made.any (fun e => e.seq == p.entry.seq)
  let g1 := (g.pend.filter gone).foldl (fun h p => h.countOut p.entry.flag) g
  let g2 := { g1 with pend := g1.pend.filter (fun p => !gone p), latch := [], young := [] }
  let fr : Frame :=
    { trap := t, pc := f.pc, frag := f.lanes, sibs := mkLanes (fun l => g.frags.any (fun x => x.lanes != f.lanes && x.lanes.getLsbD l))
      pfx := f.pfx, clause := f.clause, entries := (sortBy (fun (a b : Entry) => decide (a.seq ≤ b.seq)) made ++ f.inject ++ later).take 16, time := s.now
      wait := f.rest, since := g.seq }
  (g2, fr)

/-- Writes the frame of a fragment's trap (R415, step 4): the state, the group, and the frame. -/
def State.makeFrame (s : State) (g : Group) (f : Frag) (t : Trap) (later : List Entry) : State × Group × Frame :=
  let (g2, fr) := s.formFrame g f t later
  let s1 := match s.launch? g.ref.b.launch with
    | none => s
    | some l =>
      let va := pBase g.tfp
      let s1 := s.frameWrite g.core l.vif l.ctx va (leBytes 256 (fr.bits g.ref.k))
      (List.range fr.entries.length).foldl (fun (u : State) (i : Nat) => match fr.entries[i]? with
        | some e => u.frameWrite g.core l.vif l.ctx (va + 256 + 2048 * i) (leBytes 2048 e.bits)
        | none => u) s1
  (s1, g2, fr)

/-- Ends the launch of a group whose trap no handler takes (R418, R419). -/
def State.trapKills (s : State) (g : Group) (t : Trap) (fr : Option Frame) : State :=
  (s.errorRec { time := s.now, source := g.core, kind := 6, launch := g.ref.b.launch, arg := t.cause.code, frame := fr, group := g.ref.k }).endLaunch
    g.ref.b.launch 2

/-- The record of a trap taken or of a stop (Table 26-3). -/
def State.trapTrace (s : State) (g : Group) (f : Frag) (t : Trap) (kind : Nat) : State :=
  match s.launch? g.ref.b.launch with
  | none => s
  | some l => s.traceRec l.vif { time := s.now, source := g.core, kind, name := threadName g.ref.b (g.threadAt (lowest f.lanes)),
                                 pc := t.tpc, payload := t.cause.code }

/-- A sibling of a stopped fragment stops where it stands, and what it sleeps on or waits for stays its own (R444). Its frame is written as a
held trap: the core keeps it, for the group's memory holds the first stop's (R417). DESIGN CHOICE: its cause is STEP. -/
def State.stopHere (s : State) (g : Group) (x : Frag) : State :=
  let t : Trap := { cause := .step, lanes := x.lanes, tpc := x.pc }
  let q := s.formFrame g x t []
  (s.trapTrace g x t 2).setGroup (q.1.setFrag (lowest x.lanes)
    { x with stopped := true, inject := [], allStop := false, frame := some { q.2 with wait := .no }, under := if x.handler then x.frame else none })

/-- A stop's siblings stop at their next clause, or, where they sleep or wait, where they stand (R444). -/
def State.stopSiblings (s : State) (g : Group) (f : Frag) : State :=
  let others := g.frags.filter (fun x => x.lanes != f.lanes && !x.stopped)
  let s1 := s.setGroup { g with frags := g.frags.map (fun x => if x.lanes != f.lanes ∧ !x.stopped ∧ x.wait = .no then { x with allStop := true } else x) }
  if g.dctl.getLsbD 1 then
    (others.filter (fun x => x.wait != .no)).foldl (fun (t : State) (x : Frag) => match t.group? g.ref with
      | some h => t.stopHere h x
      | none => t) s1
  else s.setGroup g

/-- A fragment as a trap finds it: at the word that the trap is reported at (R67, R414). -/
def Frag.stands (f : Frag) (t : Trap) : Frag :=
  match t.at_ with
  | some z => { f with pc := z.pc, clause := z.clause, pfx := z.pfx }
  | none => f

/-- The fragment that holds a lane takes a trap: it stops for the debugger, is held behind a sibling's handler, ends the
launch, or enters the handler with its frame written (R415 to R419, R441). `later` are entries that go with it. -/
def State.takeTrap (s : State) (r : GRef) (lane : Nat) (t0 : Trap) (later : List Entry := []) : State :=
  match s.group? r with
  | none => s
  | some g =>
    match g.frag? lane, s.launch? r.b.launch with
    | some f, some l =>
      let t := { t0 with after := false }
      let dbg := (s.vif l.vif).debugger && (t.cause == .bkpt || t.cause == .step || t.cause == .watch)
      if !dbg ∧ f.handler then s.trapKills g t f.frame
      else if !dbg ∧ g.frags.any (fun x => x.handler) then
        let seq := if t.prec then g.seq else t.seq
        s.setGroup (g.setFrag lane { f with traps := f.traps ++ [{ t with seq, arose := if t.arose = 0 then s.tick else t.arose }], inject := f.inject ++ later })
      else
        let (s1, g1, fr) := s.makeFrame g (f.stands t) t later
        -- a trap whose instruction stands among the entries arises again when that runs again
        let left := f.traps.filter (fun u => !fr.entries.any (fun e => u.entry == some e.seq))
        if dbg then
          let f1 := { f.stands t with stopped := true, wait := .no, frame := some fr, under := if f.handler then f.frame else none, inject := [], allStop := false, traps := left }
          (s1.trapTrace g f t 2).stopSiblings (g1.setFrag lane f1) f1
        else
          let s2 := s1.trapTrace g f t 3
          let q := s2.target g.core l g.thand.toNat
          let ok := g.thand != 0 && (match q.1 with | .good => true | .bad => false | .stop _ => true)
          if !ok then (s2.setGroup g1).trapKills g t (some fr)
          else
            q.2.setGroup (g1.setFrag lane { lanes := f.lanes, pc := g.thand.toNat, last := f.last, handler := true,
                                            frame := some fr, kept := left })
    | _, _ => s

/-! ### Returning from a trap (R423, R424) -/

/-- A reserved bit of the header is set. -/
def headerReserved (h : Nat) : Bool :=
  field h 409 3 != 0 || field h 427 13 != 0 || field h 462 50 != 0 || field h 576 1472 != 0

/-- A reserved bit of an entry is set. -/
def entryReserved (e : Nat) : Bool := field e 337 47 != 0 || field e 12672 3712 != 0

/-- A slot as a row of 64 words. -/
def slotRow (e k : Nat) : Row := (List.range 64).map (fun l => BitVec.ofNat 32 (field e (384 + 2048 * k + 32 * l) 32))

/-- A field's captured registers with the handler's edits of the two slots a frame shows, which an edited word may read where the first did
not. -/
def editRows (old : List Row) (e k : Nat) : List Row :=
  (List.range (max 2 old.length)).map (fun i => if i < 2 then slotRow e (2 * k + i) else old.getD i [])

/-- An extension word of an entry as its payload; a word of another kind is no payload (R48). -/
def extPayload (x : Nat) : Nat := if wordKind x = 1 then x % 2 ^ 62 else 2 ^ 62 + x

/-- An entry as ERET takes it from the frame in memory: the RW fields as they stand there, the others as they were
written; of a matrix entry only skip (R421 to R424). As many extension words are taken as the word needs in the kernel's version (R48). -/
def Entry.edited (e : Entry) (ver m : Nat) : Entry :=
  let e1 := { e with skip := field m 330 1 == 1, bad := entryReserved m }
  if e.mtx then e1
  else
    { e1 with
      word := field m 0 64
      exts := (List.range (extsOf ver (field m 0 64))).map (fun k => extPayload (field m (64 + 64 * k) 64))
      lanes := BitVec.ofNat 64 (field m 192 64)
      ops := { a := editRows e.ops.a m 0, b := editRows e.ops.b m 1, c := editRows e.ops.c m 2 } }

/-- The frame as memory holds it: the header and the entries, the core's own copy standing for what cannot be read. -/
def State.readFrame (s : State) (g : Group) (vif ctx : Nat) (fr : Frame) : Nat × List Entry × State :=
  let va := pBase g.tfp
  let ver := ((s.launch? g.ref.b.launch).map (fun l => l.hdr.version)).getD 3
  let q := s.frameRead g.core vif ctx va 256
  let h := match q.1 with | some bs => leNat bs | none => fr.bits g.ref.k
  let r := (List.range fr.entries.length).foldl (fun (acc : List Entry × State) (i : Nat) =>
    match fr.entries[i]? with
    | none => acc
    | some e =>
      let u := acc.2.frameRead g.core vif ctx (va + 256 + 2048 * i) 2048
      (acc.1 ++ [match u.1 with | some bs => e.edited ver (leNat bs) | none => e], u.2)) ([], q.2)
  (h, r.1, r.2)

/-- Gives up a matrix entry: its tile keeps the completed steps, its run is released (R424). -/
def State.dropTileOp (s : State) (g : GRef) (seq : Nat) : State :=
  let mine := fun (o : TileOp) => o.g == g && o.seq == seq
  { s.unpin (s.quads.flatMap (fun (q : Quad) => (q.queue.filter mine).map (fun (o : TileOp) => o.id))) with
    quads := s.quads.map (fun (q : Quad) => { q with queue := q.queue.filter (fun o => !mine o) }) }

/-- What a return to a frame comes to: a check of R423 fails, the word at the PC cannot be fetched yet, or the fragment goes on. -/
inductive Resume where
  | bad
  | sleep (va cause : Nat) (s : State)
  | go (s : State) (f : Frag)

/-- The PC check of ERET (R65, R423): the PC that the trap saved lies among the code words, and one that the handler put in its
place is a branch target. -/
def State.resumePc (s : State) (g : Group) (l : Launch) (fr : Frame) (pc : Nat) : Target × State :=
  if pc = fr.pc then (if l.inCode pc then .good else .bad, s) else s.target g.core l pc

/-- A fragment goes back to its frame: to the pc memory holds, with its prefix state, what it slept on, and its entries to be issued
again (R423). -/
def State.resume (s : State) (g : Group) (l : Launch) (f : Frag) (fr : Frame) : Resume :=
  let r := s.readFrame g l.vif l.ctx fr
  let pc := field r.1 320 32
  if f.lanes ≠ fr.frag &&& ~~~g.exited ∨ headerReserved r.1 ∨ 16 < field r.1 417 5 then .bad
  else
    let q := r.2.2.resumePc g l fr pc
    match q.1 with
    | .stop (.fault va c) => .sleep va c q.2
    | .good =>
      let es := r.2.1.filter (fun e => !e.skip)
      let s1 := (r.2.1.filter (fun e => e.skip && e.mtx)).foldl (fun (t : State) (e : Entry) => t.dropTileOp g.ref e.seq) q.2
      .go s1 { f with pc, clause := if pc = fr.pc then fr.clause else none, pfx := fr.pfx, inject := es, handler := false, frame := none, came := some fr
                      stopped := false, stepped := false, wait := fr.wait, traps := f.kept ++ f.traps, kept := [] }
    | _ => .bad

/-- Adds lanes to a tag of a sleep. -/
def addTags (tags : List (Nat × Lanes)) (tag : Nat) (m : Lanes) : List (Nat × Lanes) :=
  if tags.any (fun x => x.1 == tag) then tags.map (fun x => if x.1 = tag then (tag, x.2 ||| m) else x) else tags ++ [(tag, m)]

/-- Puts a fragment to sleep on the fetches of words whose pages are missing, with nothing issued (R66, R75): each fault's address, its cause
and the lanes that it stops. `at_` is the word that could not be fetched, where it is the fragment's own. -/
def State.fetchSleep (s : State) (g : Group) (l : Launch) (f : Frag) (fs : List (Nat × Nat × Lanes)) (at_ : Option FragAt := none) : State :=
  let one := fun (acc : List (Nat × Lanes) × State) (y : Nat × Nat × Lanes) =>
    let q := acc.2.faultRecord { tag := 0, vif := l.vif, ctx := l.ctx, va := y.1, kind := .fetch, cause := y.2.1, launch := l.id, source := g.core
                                 die := dieOf g.core, block := g.ref.b.block, time := 0 }
    (addTags acc.1 q.1 y.2.2, q.2)
  let r := fs.foldl one ([], s)
  let va := (fs.headD (0, 0, 0)).1
  (r.2.setGroup (g.setFrag (lowest f.lanes) { f with wait := .fault r.1 0 false va at_ })).reachPoint g.ref.b g.ref.gang

/-- A second add that was dropped goes again once the leader has returned from the trap that reported it (R339); its lineage may have settled
since. -/
def State.resend (s : State) (first : Option Nat) : State :=
  if first.isNone then s
  else { s with tileAdds := s.tileAdds.map (fun (a : TileAdd) => if a.dropped ∧ some a.id = first then { a with dropped := false, out := false } else a) }

/-- The barriers that a fragment's return may complete. -/
def State.checkArrived (s : State) (b : BRef) : State := (s.checkBar b).checkCbar b.launch

/-- ERET (R423). -/
def eretBody : Body := fun x s =>
  if x.g.frags.all (fun f => !f.handler) then .error (x.trap .illegal)
  else
    match (x.g.frags.find? (fun f => f.handler)).bind (·.frame) with
    | none => .error (x.trap .illegal)
    | some fr =>
      match s.resume x.g x.l x.f fr with
      | .go s1 f1 =>
        match s1.group? x.c.g with
        | some g => .ok (((s1.setGroup (g.setFrag x.c.f f1)).resend fr.trap.resend).checkArrived x.c.g.b, .resumed)
        | none => .ok (s1, .stay)
      | .sleep va c s1 => .ok (s1.fetchSleep x.g x.l x.f [(va, c, x.f.lanes)], .resumed)
      | .bad => .ok (s.trapKills x.g fr.trap (some fr), .stay)

/-- Traps JLIVE where every fragment of a group waits at a JWAIT (R376). -/
def State.checkJlive (s : State) (r : GRef) : State :=
  match s.group? r with
  | none => s
  | some g =>
    if !g.frags.isEmpty ∧ g.frags.all Frag.jwaiting then
      let low := (g.frags.map (fun f => lowest f.lanes)).foldl min 64
      match g.frag? low with
      | some f =>
        match f.wait with
        | .jwait k =>
          let j := g.rejoin k.val
          let arrived := j.arrived &&& ~~~f.lanes
          let g1 := { g.setFrag low { f with wait := .no } with
            j := sput {} g.j k.val { j with arrived, wpc := if arrived = 0 then none else j.wpc } }
          (s.setGroup g1).takeTrap r low { cause := .jlive, lanes := f.lanes, info := BitVec.ofNat 64 g.liveMask, tpc := f.pc }
        | _ => s
      | none => s
    else s

/-- The entries of a handler's frame go with it where none of its threads is left: its fragment can come to no ERET (R423). What the quad
holds of them is given up (R424). -/
def State.dropHandler (s : State) (r : GRef) (f : Frag) : State :=
  match f.frame, s.group? r with
  | some fr, some g =>
    if g.frags.any (fun x => x.handler) then s
    else (fr.entries.filter (fun e => e.mtx)).foldl (fun (t : State) (e : Entry) => t.dropTileOp r e.seq) s
  | _, _ => s

/-- Threads leave a group: the lanes exit (R377). -/
def State.exitLanes (s : State) (r : GRef) (lane : Nat) (lanes : Lanes) : State :=
  match s.group? r with
  | none => s
  | some g =>
    match g.frag? lane with
    | none => s
    | some f =>
      let f1 := { f with lanes := f.lanes &&& ~~~lanes }
      let g1 := g.splitFrag lane (if f1.lanes = 0 then [] else [f1])
      let g2 := { g1 with exited := g1.exited ||| lanes,
                          j := g1.j.map (fun (x : Nat × Rejoin) => (x.1, { x.2 with expected := x.2.expected &&& ~~~lanes })) }
      let s0 := s.setGroup g2.joinAll
      let s1 := (if f1.lanes = 0 then s0.dropHandler r f else s0).closeOpen r.b r.gang
      ((s1.checkBar r.b).checkCbar r.b.launch).settleBlock r.b

/-! ### The form of a meaning -/

/-- How the checks before an instruction's own effect end. -/
inductive Gate where
  | go
  /-- A covering predicate block leaves it no lane: it changes nothing (R62). -/
  | skip
  /-- It is not eligible yet. -/
  | wait
  | trap (t : Trap)
  deriving DecidableEq, Repr

/-- A uniform or vector designator is within the group's allocation (R46); 383 is the link slot. -/
def Launch.allocated (l : Launch) (r : Nat) : Bool := decide (r < 8 * l.hdr.vgran) || r == 383
def Ctx.allocated (x : Ctx) (r : Nat) : Bool := x.l.allocated r

/-- A run of registers is within the group's allocation (R157). -/
def Ctx.runOk (x : Ctx) (r n : Nat) : Bool := (List.range n).all (fun k => x.allocated (r + k))

/-- An instruction's designators name registers and tiles that its launch has (R46). -/
def Launch.fits (l : Launch) (i : Instr) : Bool :=
  i.vregs.all (fun r => (List.range r.2).all (fun k => l.allocated (r.1 + k))) && i.tiles.all (fun t => decide (t < l.hdr.tiles))

/-- The mask names no granule at or above the allocation (R370). -/
def Ctx.maskOk (x : Ctx) (m : BitVec 48) : Bool := decide (m.toNat < 2 ^ x.l.hdr.vgran)

/-- A format slot is declared (R264, R299). -/
def Ctx.slotOk (x : Ctx) (k : Slot) : Bool := x.l.hdr.fmtmask.testBit k.val

/-- A format slot. -/
def Ctx.slot (x : Ctx) (k : Slot) : SlotInfo := x.l.slots.getD k.val default

/-- A slot that VPACK.blk and VUNPK.blk take: a BFP format, or E4M3 or E5M2 with a scale (R251). -/
def SlotInfo.blk (k : SlotInfo) : Bool := (isBfp k.fmt || k.fmt == 0x0C || k.fmt == 0x0D) && k.scale != 0

/-- What an instruction needs of the state beside its designators, for decoding (R226, R264, R290, R370, R406, R423,
R451). -/
def Ctx.stateOk (x : Ctx) (s : State) (i : Instr) : Bool :=
  let feat := fun k => s.feature x.l.vif k
  match i with
  | .jwait .. => !x.c.covered
  | .reform _ _ m | .reorder _ _ _ m => !x.c.covered && x.maskOk m
  | .bar .. | .cbar .. | .eret .. => !x.c.covered
  | .cjoin .. => !x.c.covered && feat 12
  | .spawn .. => feat 12
  | .vpack _ (.blk _ _ _ _ _ k) => x.slotOk k && (x.slot k).blk
  | .vunpk _ (.blk _ _ _ k) => x.slotOk k && (x.slot k).blk
  | .vfadd _ _ _ rc .. | .vfmul _ _ _ rc .. | .vmul _ rc .. | .vmad _ rc .. => !rc || feat 3
  | .vfma _ _ _ _ _ rc .. => !rc || feat 3
  | .mloop _ m =>
    (!m.rc || feat 3) && (m.p == 0 || feat 5) && x.slotOk m.bslot &&
    (match m.a with
      | .ptr _ k ad => x.slotOk k && (ad.isNone || (feat 4 && x.l.hdr.adir))
      | .tile _ => true)
  | .mdrainMem _ k .. => x.slotOk k
  | .mpub .. => feat 5
  | .aflush .. | .apref .. | .astat .. => feat 4 && x.l.hdr.adir
  | .ckpt .. => feat 8
  | .coll .. => feat 6
  | .nbr _ n .. => feat 6 && decide (n.val < x.l.hdr.tdims)
  | .rank _ (.coord n) _ => decide (n.val < x.l.hdr.tdims)
  | _ => true

/-- The registers of one element behind the instruction's pointer (R157). -/
def Ctx.width (x : Ctx) (i : Instr) : Nat :=
  match i with
  | .ld _ _ _ _ _ p _ | .st _ _ _ _ _ p _ _ | .atom _ _ _ p _ _ => fmtRegs (pFmt (x.a .a p.val))
  | _ => 1

/-- A run of `n` registers of elements that take `w` each: allocated, and even where an element is a pair (R157). -/
def Ctx.opdOk (x : Ctx) (w : Nat) : Opd → Bool
  | .v r n => x.runOk r n && r % w == 0
  | .s r n => decide (r + n ≤ 128) && r % w == 0
  | .a _ => true

/-- The register runs of a memory instruction fit the elements behind its pointer (R157, R163). -/
def Ctx.memRunOk (x : Ctx) (w : Nat) (i : Instr) : Bool :=
  match i with
  | .ld _ n _ _ d _ _ => x.opdOk w (d.opd (n.elems * w))
  | .st _ n _ _ _ _ _ v => x.opdOk w (v.opd (n.elems * w))
  | .atom _ o d _ _ v =>
    (match d with | some d => x.opdOk w (d.opd w) | none => true) &&
      (if o = .cas then x.opdOk (2 * w) (v.opd (2 * w)) else x.opdOk w (v.opd w))
  | _ => true

/-- The decode checks that need the group's launch (R46, R54); an entry's flag fits its word (R423). -/
def Ctx.decodes (x : Ctx) (i : Instr) : Bool := x.l.fits i && ((x.flag i).isSome == i.setsFlag)

/-- The ILLEGAL cases of an instruction's own description (Table 3-7, order 7). -/
def Ctx.admits (x : Ctx) (s : State) (i : Instr) : Bool := x.stateOk s i && x.memRunOk (x.width i) i

/-- No ILLEGAL case holds. -/
def Ctx.legal (x : Ctx) (s : State) (i : Instr) : Bool := x.decodes i && x.admits s i

/-- An instruction of fixed latency, and PREF, which counts for nothing among the 16 (R415). -/
def counts16 (i : Instr) : Bool :=
  i.setsFlag ||
  match i with
  | .st .. | .atom .. | .atomf .. | .waita .. | .cwait .. | .cjoin .. | .cpyLd .. | .cpySt .. | .cpyrd .. | .deq .. | .mzero .. | .tadd .. | .tscale .. | .mpub .. => true
  | _ => false

/-- A tile instruction that its quad queues (R297, R332). -/
def isQueued : Instr → Bool
  | .mloop .. | .mzero .. | .mload .. | .mdrainReg .. | .mdrainMem .. | .mdrainAdd .. | .tadd .. | .tscale .. | .mpub ..
  | .settle .. => true
  | _ => false

/-- The quad of a group (R16). -/
def Group.quad (g : Group) : Nat := g.part / 4

/-- The queue of a quad. -/
def State.quadOf (s : State) (core quad : Nat) : Quad :=
  (s.quads.find? (fun q => q.core == core && q.quad == quad)).getD { core, quad, queue := [] }
/-- Replaces a quad's queue. -/
def State.setQuad (s : State) (q : Quad) : State := { s with quads := upsert (fun x => x.core == q.core && x.quad == q.quad) q s.quads }

/-- The queued tile instructions of a quad (R297): those of a resident block that have work to do. A suspended one is out of the queue (R302,
R461). -/
def State.queued (s : State) (core quad : Nat) : Nat :=
  ((s.quadOf core quad).queue.filter (fun o => !o.awaits && !o.suspended && (s.group? o.g).isSome)).length

/-- The registers of the gang's locked runs of B (R294). -/
def State.lockedRegs (s : State) (b : BRef) (gang : Nat) : List Nat :=
  s.quads.flatMap (fun q => q.queue.flatMap (fun o =>
    if o.locked ∧ o.g.b = b ∧ o.gang = gang then
      (match o.job with
        | .mloop m _ _ bs _ _ _ _ _ _ => (List.range (((m.n1.val + 1) * ebits bs.fmt + 15) / 16)).map (m.vb.val + ·)
        | _ => [])
    else []))

/-- The scope at which an access acquires: a load through a synchronising pointer, and any ATOM (R130, R158). -/
def Ctx.acquires (x : Ctx) (i : Instr) : Option Nat :=
  match i with
  | .ld _ _ _ _ _ p _ => if pClass (x.a .a p.val) = 2 then some (pScope (x.a .a p.val)) else none
  | .atom _ _ _ p _ _ => some (pScope (x.a .a p.val))
  | _ => none

/-- The group waits for the answer of an acquire, before which it performs no later access (R158, R208); one that stands in a frame, or waits
to be issued again, among them. -/
def State.acquiring (s : State) (g : Group) : Bool :=
  g.pend.any (fun p => p.acq.isSome && (match p.doing with | .response _ => true | _ => false)) ||
    g.frags.any (fun f => f.entries.any (fun e => e.acq.isSome && s.out e))

/-- An access to memory that is no release. -/
def isAccess : Instr → Bool
  | .ld .. | .st .. | .waita .. | .deq .. | .ctest .. | .cwait .. | .cpyLd .. | .cpySt .. | .cpyrd .. | .mload .. | .mloop .. | .mdrainMem .. => true
  | _ => false

/-- The pointer reaches the host or a peer: its group's earlier accesses there are performed when their responses come. -/
def farPtr (p : PtrBits) : Bool := pHost p || pPeer p

/-- A release waits for the group's earlier accesses (R158, R208); so do NARROW and WIDEN, whose maintenance covers them (R117), and a matrix
instruction that reads or writes memory beyond the device (R291). -/
def Ctx.ordersAll (x : Ctx) (i : Instr) : Bool :=
  match i with
  | .narrow .. | .widen .. => true
  | .mloop _ m => (match m.a with
    | .ptr p _ ad => ad.isSome || farPtr (x.a .a p.val)
    | .tile _ => false)
  | .mload _ _ p _ _ | .mdrainMem _ _ _ _ p _ _ _ => farPtr (x.a .a p.val)
  | .st _ _ _ _ _ p _ _ => pClass (x.a .a p.val) == 2
  | .atom .. | .bar .. | .cbar .. | .eret .. | .spawn .. | .enq .. | .ckpt .. | .coll .. => true
  | _ => false

/-- What keeps an instruction back (R53, R158, R172, R294, R297, R379, R396, R411, R415, Table 16-7). -/
def Ctx.blocked (x : Ctx) (s : State) (i : Instr) : Bool :=
  let gang := x.c.g.gang
  let locked := s.lockedRegs x.c.g.b gang
  (match x.flag i with | some n => decide (63 ≤ x.g.flag n.val) | none => false) ||
  (counts16 i && x.c.inj.isNone && decide (16 ≤ x.g.unfinished)) ||
  ((i.vdst (x.width i)).any (fun r => locked.any (fun k => decide (r.1 ≤ k) && decide (k < r.1 + r.2)))) ||
  (isQueued i && x.c.inj.isNone && decide (16 ≤ s.queued x.g.core x.g.quad)) ||
  (x.ordersAll i && (match i with | .eret .. => x.g.awaiting | _ => s.awaiting x.g)) || (isAccess i && s.acquiring x.g) ||
  match i with
  | .cpyLd .. | .cpySt .. | .cpyrd .. => decide (256 ≤ (s.copies.filter (fun c => c.cluster == clusterOf x.g.core)).length)
  | .coll _ _ ch .. => s.colls.any (fun c => c.ch == ch.val)
  | .reform .. | .reorder .. =>
    s.quads.any (fun q => q.core == x.g.core && q.queue.any (fun o => o.locked && o.g.b == x.c.g.b))
  | .cjoin .. => x.g.pend.any (fun p => p.entry.word / 2 ^ 52 % 1024 == 0x3CA)
  | _ => false

/-- A checked instruction of fixed latency that the fragment issued will trap SOFTERR when its check ends (R285). -/
def Ctx.softAhead (x : Ctx) : Bool := x.g.pend.any (fun p => p.soft.isSome && x.g.owns x.f p)
/-- Such a check has ended: the fragment takes the trap before it issues again. -/
def Ctx.softDue (x : Ctx) : Bool := x.g.pend.any (fun p => p.soft == some 0 && x.g.owns x.f p)

/-- An instruction after which the fragment's threads may be elsewhere: it waits for the checks of those before it (R285, R416). -/
def movesThreads : Instr → Bool
  | .exit .. | .reform .. | .reorder .. | .eret .. => true
  | _ => false

/-- The checks before an instruction's own effect, in order: what any word must pass, then an active set, then its own (R62, Table
3-7). A trap waits for the trap of an earlier instruction (R416). -/
def Ctx.gate (x : Ctx) (s : State) (i : Instr) : Gate :=
  let stop := if x.softAhead then Gate.wait else .trap (x.trap .illegal)
  if x.softDue then .wait
  else if !x.decodes i then stop
  else if x.act == 0 then .skip
  else if !x.admits s i then stop
  else if x.blocked s i || (x.softAhead && movesThreads i) then .wait
  else .go

/-- The latches after an issue (R221): a field with its hold bit captures; an instruction that reads a vector register
empties the rest. An entry that runs again reads no register. -/
def Ctx.latches (x : Ctx) (i : Instr) : Sparse Latch :=
  let w := x.width i
  let vs := (i.reads w).filterMap (fun y => match y.2 with | .v r n => some (y.1, r, n) | _ => none)
  if x.c.inj.isSome ∨ !i.readsV w then x.g.latch
  else (vs.filter (fun y => (i.holdFlds).contains y.1)).map (fun y =>
    (y.1.n, { reg := y.2.1, rows := (List.range y.2.2).map (fun k => mkRow (fun l => x.v y.1 y.2.1 k l)) }))

/-! ### The lane-cycle record (R435, R436) -/

/-- The bin of a PC. -/
def LaneRec.bin (r : LaneRec) (pc : Nat) : Nat := (r.starts.filter (fun x => decide (x ≤ pc))).length - 1
/-- Adds to a counter: 0 active, 1 masked by divergence, 2 predicated off, 3 absent, 4 idle. -/
def LaneRec.add (r : LaneRec) (pc cat n : Nat) : LaneRec :=
  let k := 5 * r.bin pc + cat
  { r with counters := sput 0 r.counters k ((sgetD r.counters k 0 + n) % 2 ^ 48) }

/-- Counts an issue of a group's fragment, where its launch keeps a record (R435). -/
def State.countIssue (s : State) (g : Group) (lanes act : Lanes) (pc : Nat) : State :=
  match s.launch? g.ref.b.launch with
  | none => s
  | some l =>
    match l.laneRec with
    | none => s
    | some r =>
      let r1 := ((r.add pc 0 (popCount act)).add pc 1 (popCount (g.live &&& ~~~lanes))).add pc 2 (popCount (lanes &&& ~~~act))
      s.setLaunch { l with laneRec := some (r1.add pc 3 (64 - popCount g.live)) }

/-- The eligible groups of the choice as they stood before it: it issued nothing, so it passed none of them over (R397). Their yields come back
too, where the choice itself was none. -/
def State.unpass (s : State) (ps : List (GRef × Nat × Bool)) (yields : Bool) : State :=
  { s with groups := s.groups.map (fun (h : Group) => match ps.find? (fun y => y.1 == h.ref) with
      | some y => { h with passedCount := y.2.1, yielded := if yields then y.2.2 else h.yielded }
      | none => h) }

/-- Nothing has issued: the fragment stands where it stood before the words that govern the instruction, so that a wait field is evaluated and a
predicate sampled again when the instruction issues (R50, R61). -/
def Ctx.back (x : Ctx) (s : State) : State :=
  let s1 := match x.c.was, s.group? x.c.g with
    | some z, some g => (match g.frag? x.c.f with
      | some f => s.setGroup (g.setFrag x.c.f { f with pc := z.pc, clause := z.clause, pfx := z.pfx })
      | none => s)
    | _, _ => s
  { s1.unpass x.c.passed true with cur := none }

/-- The first issue number of what the fragment has issued in its present mode: a handler's own instructions, else all of its. -/
def Frag.since (f : Frag) : Nat := if f.handler then (((f.under.or f.frame).map (fun fr => fr.since)).getD 0) else 0

/-- An earlier instruction of the fragment will end in a trap, which comes before the issue trap of a later one (R416). -/
def Ctx.boundAhead (x : Ctx) : Bool := x.g.pend.any (fun p => p.bound && x.g.owns x.f p && decide (x.f.since ≤ p.entry.seq))

/-- A fragment has a trap to take: one of an instruction that it issued before its handler waits for ERET (R416). -/
def Frag.addTrap (f : Frag) (t : Trap) : Frag :=
  if t.seq < f.since then { f with kept := f.kept ++ [t] } else { f with traps := f.traps ++ [t] }

/-- The end of an issue: the fragment moves on, the group has issued, and no instruction executes any more. An entry that
ran again leaves its place in the replay queue. -/
def Ctx.finish (x : Ctx) (fl : Flow) (s : State) : State :=
  match s.group? x.c.g with
  | none => { s with cur := none }
  | some g =>
    let g1 := match g.frag? x.c.f with
      | none => g
      | some f =>
        let f1 := { f with last := g.seq }
        let f2 := { f1 with stepped := true }
        let f3 := match x.c.inj, fl with
          | some _, _ => { f1 with inject := f1.inject.drop 1 }
          | none, .step => f2.advance x.c.npc
          | none, .stay => f2
          | none, _ => f1
        g.setFrag x.c.f f3
    let ended := match x.f.clause with | some c => c.yld && decide (c.stop ≤ x.c.npc) && x.c.inj.isNone | none => false
    { s.setGroup { g1 with seq := g.seq + 1, passedCount := 0, yielded := g1.yielded || ended } with cur := none }

/-- TRAP and BKPT, whose whole effect is their trap, count as issues (R397, R414, R435). -/
def Ctx.trapIssued (x : Ctx) (s : State) : State :=
  let s1 := match s.group? x.c.g with
    | some g => s.setGroup { g with seq := g.seq + 1, passedCount := 0 }
    | none => s
  s1.countIssue x.g x.f.lanes x.act x.c.pc

/-- A trap at issue: the instruction does not issue, and no group has been passed over; what follows an entry that runs again goes with the
trap (R397, R414, R423). TRAP and BKPT have issued and moved to the next word. Where an earlier instruction of the fragment will end in a trap,
that one comes first, and this instruction issues again later (R416). -/
def Ctx.fail (x : Ctx) (s : State) (t : Trap) : State :=
  if x.boundAhead then x.back s
  else
    match s.group? x.c.g with
    | none => { s with cur := none }
    | some g =>
      match g.frag? x.c.f with
      | none => { s with cur := none }
      | some f =>
        let f1 := if t.after ∧ x.c.inj.isNone then { f.advance x.c.npc with stepped := true, last := g.seq } else f
        let f2 := if x.c.inj.isSome then { f1 with inject := f1.inject.drop 1 } else f1
        let s1 := (s.setGroup (g.setFrag x.c.f f2)).takeTrap x.c.g x.c.f t
        { (if t.after then x.trapIssued s1 else s1.unpass x.c.passed false) with cur := none }

/-- The group as the instruction issues: dist clocks have passed since its previous issue (R57), and the latches hold
what it captures. -/
def Ctx.atIssue (x : Ctx) (i : Instr) : Ctx :=
  let d := match i.ctl with | some c => max 1 c.dist.val | none => 1
  let y := { x with g := { x.g.elapse d with yielded := false }, held := (x.g.elapse d).latch }
  { y with g := { y.g with latch := y.latches i } }

/-- The form of every meaning of an instruction word: the state's checks, the effect `body`, and the end of the issue. -/
def State.run (s : State) (i : Instr) (body : Body) : Host.Outcome State Fault Refusal :=
  match s.ctx? with
  | none => .fault .noFragment
  | some x0 =>
    let x := x0.atIssue i
    match x.gate s i with
    | .trap t => .next (x.fail s t)
    | .wait => .next (x.back s)
    | .skip => .next (x.finish .step ((s.setGroup x.g).countIssue x.g x.f.lanes x.act x.c.pc))
    | .go =>
      match body x (s.setGroup x.g) with
      | .error t => .next (if x.softAhead then x.back s else x.fail s t)
      | .ok (s1, .trapped) => .next (if x.softAhead then x.back s else s1)
      | .ok (_, .held) => .next (x.back s)
      | .ok (s1, fl) => .next ((x.finish fl (s1.countIssue x.g x.f.lanes x.act x.c.pc)).checkJlive x.c.g)

/-- What an instruction stands in when its entry is acted on after its issue: its captured operands and its lanes. -/
def State.entryCtx (s : State) (g : Group) (f : Frag) (e : Entry) : Option Ctx :=
  match s.block? g.ref.b, s.launch? g.ref.b.launch with
  | some b, some l =>
    some { c := { g := g.ref, f := lowest f.lanes, act := e.lanes, pc := e.tpc, npc := f.pc, word := e.word, exts := e.exts
                  covered := false, flagA := none, flagB := none, after := 0, inj := some (e.ops, e.flag) }
           g, f, b, l, t := s.tick }
  | _, _ => none

/-! ### The three common forms of an effect -/

/-- The latency after which an instruction's results are read new: none for an entry that runs again, all of which the first instruction
at the frame's PC sees (R423). -/
def Ctx.lat (x : Ctx) (lat : Nat) : Nat := if x.c.inj.isSome then 0 else lat

/-- The body of a fixed-latency instruction that writes registers (R58, R222). -/
def fixedBody (lat : Nat) (f : Ctx → List Res) : Body := fun x s => .ok (s.setGroup (x.g.writes (x.lat lat) (f x)), .step)

/-- The meaning of a fixed-latency instruction. -/
def State.fixed (s : State) (i : Instr) (lat : Nat) (f : Ctx → List Res) : Host.Outcome State Fault Refusal :=
  s.run i (fixedBody lat f)

/-- The entry of an instruction as it issues (R422). -/
def Ctx.entry (x : Ctx) (i : Instr) : Entry :=
  { seq := x.g.seq, word := x.c.word, exts := x.c.exts, lanes := x.act, ops := x.capture i (x.width i), flag := x.flag i, tpc := x.c.pc }

/-- Adds an outstanding operation, counted in its flag. -/
def Group.begin (g : Group) (p : Pend) : Group := { g with pend := g.pend ++ [{ p with gone := g.exited }] }.countIn p.entry.flag

/-- What a flag-covered operation on registers comes to: its results, its sticky exceptions and the trap it ends in. -/
structure Out where
  res : List Res
  sticky : BitVec 5 := 0
  trap : Option Trap := none
  deriving DecidableEq, Repr

/-- The body of a flag-covered operation on registers (R53, R222): it completes when its flag's count is taken out; one that
traps writes nothing (R258). -/
def coveredBody (i : Instr) (f : Ctx → Out) : Body := fun x s =>
  let o := f x
  let none_ := o.trap.isSome
  .ok (s.setGroup (x.g.begin { entry := x.entry i, frag := x.f.lanes, res := if none_ then [] else o.res
                               sticky := if none_ then 0 else o.sticky, trap := o.trap, regOnly := true }), .step)

/-- The meaning of a flag-covered operation on registers. -/
def State.covered (s : State) (i : Instr) (f : Ctx → Out) : Host.Outcome State Fault Refusal := s.run i (coveredBody i f)

/-! ### Residue checks (R283 to R285, R303) -/

/-- What soft errors do to the values of the next check, and the state with that check made. -/
def State.strike (s : State) : List Strike × State :=
  match s.strikes with
  | [] => ([], s)
  | m :: ms => (m, { s with strikes := ms })

/-- A value that a checked instruction forms, and the residue that separate logic carries for it (R284). -/
structure Checked where
  value : Int
  residue : Nat
  deriving DecidableEq, Repr

/-- A checked value with a bit of its magnitude flipped. -/
def flipBit (v : Int) (k : Nat) : Int := if v < 0 then -((v.natAbs ^^^ 2 ^ k : Nat) : Int) else ((v.natAbs ^^^ 2 ^ k : Nat) : Int)

/-- The residue check of an instruction that carries `rc`, or that the launch has checked (R283, R284): the active lanes in which a
comparison fails, and the state after the check. `vals` are the values that each lane checks; one that no soft error strikes agrees
with its residue. An instruction that is not checked makes none. -/
def Ctx.check (x : Ctx) (rc : Option Bool) (vals : Nat → List Checked) (s : State) : Lanes × State :=
  match rc with
  | none => (0, s)
  | some rc =>
    let fails := fun (z : Strike) (c : Checked) => flipBit c.value z.bit % 3 != (c.residue : Int)
    if rc || x.l.resid then
      (x.act &&& mkLanes (fun l => s.strike.1.any (fun z => z.lane == l && (vals l)[z.value]?.any (fails z))), s.strike.2)
    else (0, s)

/-- The residue check of a block of an MLOOP (R303): whether it passes, and the state after it. -/
def Ctx.blockCheck (x : Ctx) (rc : Bool) (s : State) : Bool × State :=
  if rc || x.l.resid then (s.strike.1.isEmpty, s.strike.2) else (true, s)

/-- A trap of the completion kind at this instruction, which stands as the trapping entry (R414). -/
def Ctx.late (x : Ctx) (t : Trap) : Trap := { t with prec := false, entry := some x.g.seq, seq := x.g.seq }

/-- A body whose instruction may be checked (R285): one whose check fails writes nothing and ends in SOFTERR, which comes before its
FPE. `lat` is the latency of a form of fixed latency, with which its check ends. -/
def checkedBody (i : Instr) (rc : Option Bool) (lat : Nat) (vals : Ctx → Nat → List Checked) (body : Body) : Body := fun x s =>
  let q := x.check rc (vals x) s
  if q.1 = 0 then body x q.2
  else .ok (q.2.setGroup (x.g.begin { entry := x.entry i, frag := x.f.lanes, trap := some (x.late (x.trap .softerr q.1))
                                      counted := i.setsFlag
                                      soft := if i.setsFlag then none else some lat }), .step)

end Sys2Proof.Machine
end

