-- ==== Sys2Proof/Machine/Alu.lean ====
section
/-! DEFINITION. The integer arithmetic of the vector and scalar units, at a width of W bits (12 R265 to R270, R280 to R282),
and the writes of a lane-by-lane result. Operands are numbers below 2^W. -/

namespace Sys2Proof.Machine

open Sys2Proof

/-- An exact sum or difference as it is stored (R265): wrapped, or saturated as signed or unsigned. -/
def saturate (w : Nat) (m : Sat) (e : Int) : Nat :=
  match m with
  | .wrap => wrap w e
  | .sats => wrap w (min (max e (-(2 ^ (w - 1) : Nat))) ((2 ^ (w - 1) : Nat) - 1))
  | .satu => wrap w (min (max e 0) ((2 ^ w : Nat) - 1))

/-- An operand as an add or subtract reads it: signed under .sats only (R265). -/
def satRead (w : Nat) (m : Sat) (x : Nat) : Int :=
  match m with
  | .sats => signed w x
  | _ => (x : Int)

/-- ADD and SUB (R265). -/
def aluAdd (w : Nat) (m : Sat) (x y : Nat) : Nat := saturate w m (satRead w m x + satRead w m y)
def aluSub (w : Nat) (m : Sat) (x y : Nat) : Nat := saturate w m (satRead w m x - satRead w m y)

/-- The exact result of VADDC before it is cut, at 32 bits (R265). -/
def aluAddc (sub : Bool) (x y : Nat) (ci : Bool) : Nat := x + (if sub then 2 ^ 32 - 1 - y else y) + (if ci then 1 else 0)

/-- The low half of a product, the high half, and a multiply-add (R266). -/
def aluMul (w x y : Nat) : Nat := x * y % 2 ^ w
def aluMulh (w : Nat) (u : Bool) (x y : Nat) : Nat :=
  if u then x * y / 2 ^ w else wrap w (signed w x * signed w y / (2 ^ w : Nat))
def aluMad (w x y z : Nat) : Nat := (x * y + z) % 2 ^ w

/-- The complement (R267). -/
def aluNot (w x : Nat) : Nat := 2 ^ w - 1 - x

/-- The shifts, whose count is taken whole (R267). -/
def aluShl (w x n : Nat) : Nat := if w ≤ n then 0 else x * 2 ^ n % 2 ^ w
def aluShr (w x n : Nat) : Nat := if w ≤ n then 0 else x / 2 ^ n
def aluSar (w x n : Nat) : Nat :=
  if w ≤ n then (if signed w x < 0 then 2 ^ w - 1 else 0) else wrap w (signed w x / (2 ^ n : Nat))

/-- An operand as a comparison reads it. -/
def cmpRead (w : Nat) (u : Bool) (x : Nat) : Int := if u then (x : Int) else signed w x

/-- The smaller and the larger (R268). -/
def aluMin (w : Nat) (u : Bool) (x y : Nat) : Nat := if cmpRead w u x ≤ cmpRead w u y then x else y
def aluMax (w : Nat) (u : Bool) (x y : Nat) : Nat := if cmpRead w u x ≤ cmpRead w u y then y else x

/-- |a| and −a of a 32-bit value; −2^31 has its own result (R268). -/
def aluNeg (sat : Bool) (x : Nat) : Nat :=
  if x = 2 ^ 31 then (if sat then 2 ^ 31 - 1 else 2 ^ 31) else wrap 32 (-(signed 32 x))
def aluAbs (sat : Bool) (x : Nat) : Nat := if signed 32 x < 0 then aluNeg sat x else x

/-- How many of the low n bits are one. -/
def bitCount (x : Nat) : Nat → Nat
  | 0 => 0
  | n + 1 => bitCount x n + (if x.testBit n then 1 else 0)

/-- How many bits a number takes, at most n. -/
def bitLen (x : Nat) : Nat → Nat
  | 0 => 0
  | n + 1 => if x.testBit n then n + 1 else bitLen x n

/-- Leading zeros and ones of a 32-bit value (R268). -/
def aluClz (x : Nat) : Nat := 32 - bitLen x 32
def aluPopc (x : Nat) : Nat := bitCount x 32

/-- Position and effective width of a bit-field control (R269). -/
def bfPos (ctl : Nat) : Nat := ctl % 256
def bfWidth (ctl : Nat) : Nat := min (ctl / 256 % 256) (32 - bfPos ctl)
/-- The control names no field (R269). -/
def bfNone (ctl : Nat) : Bool := decide (32 ≤ bfPos ctl) || ctl / 256 % 256 == 0

/-- VBFE (R269). -/
def aluBfe (sgn : Bool) (x ctl : Nat) : Nat :=
  if bfNone ctl then 0
  else
    let f := x / 2 ^ bfPos ctl % 2 ^ bfWidth ctl
    if sgn then wrap 32 (signed (bfWidth ctl) f) else f

/-- VBFI (R269). -/
def aluBfi (x y ctl : Nat) : Nat :=
  if bfNone ctl then x
  else
    let m := (2 ^ bfWidth ctl - 1) * 2 ^ bfPos ctl
    (x &&& (2 ^ 32 - 1 - m)) ||| (y * 2 ^ bfPos ctl &&& m)

/-- An integer comparison (R270). -/
def aluCmp (w : Nat) (cc : CmpI) (u : Bool) (x y : Nat) : Bool :=
  let a := cmpRead w u x
  let b := cmpRead w u y
  match cc with
  | .eq => decide (a = b)
  | .ne => decide (a ≠ b)
  | .lt => decide (a < b)
  | .le => decide (a ≤ b)
  | .gt => decide (b < a)
  | .ge => decide (b ≤ a)

/-- Unsigned division: a divisor of 0 gives all ones, and the dividend as the remainder (R282). -/
def aluDiv (w : Nat) (rem : Bool) (x y : Nat) : Nat :=
  if y = 0 then (if rem then x else 2 ^ w - 1) else (if rem then x % y else x / y)

/-! ### Results -/

/-- A source's value in a lane as a number. -/
def Ctx.u (x : Ctx) (f : Fld) (y : Src) (l : Nat) : Nat := (x.src f y 0 l).toNat

/-- A result written to the active lanes of a vector register, and of a register pair. -/
def Ctx.toV (x : Ctx) (d : VReg) (f : Nat → Nat) : List Res := [.v d.val x.act (mkRow (fun l => BitVec.ofNat 32 (f l)))]
def Ctx.toV2 (x : Ctx) (d : VReg) (f : Nat → Nat) : List Res :=
  [.v d.val x.act (mkRow (fun l => wordAt (f l) 0)), .v (d.val + 1) x.act (mkRow (fun l => wordAt (f l) 1))]

/-- A truth written to the active lanes of a predicate. -/
def Ctx.toP (x : Ctx) (d : PReg) (f : Nat → Bool) : List Res := [.p d.val x.act (mkLanes f)]

/-- A uniform operand: 32 bits, or a pair's 64. -/
def Ctx.su (x : Ctx) (f : Fld) (w : Bool) (r : SReg) : Nat := if w then x.s2 f r else (x.s f r.val 0).toNat

/-- A result written to a uniform register or pair. -/
def toS (w : Bool) (d : SReg) (r : Nat) : List Res :=
  if w then [.s d.val (wordAt r 0), .s (d.val + 1) (wordAt r 1)] else [.s d.val (BitVec.ofNat 32 r)]

/-- The width in bits of a scalar form (R280). -/
def bits (w : Bool) : Nat := if w then 64 else 32

end Sys2Proof.Machine
end

