-- ==== Sys2Proof/Machine/Float.lean ====
section
/-! DEFINITION. Floating formats and the one rounding function (11 R233 to R240), and the exact operations of the floating
instructions (12 R259 to R261, R273 to R278). A value is a sign, a magnitude m and an exponent e: m times 2^e. -/

namespace Sys2Proof.Machine

open Sys2Proof

/-! ### Formats (Table 11-1) -/

/-- A floating format: exponent bits, mantissa bits and bias; E4M3 has its own largest exponent. -/
structure FloatFmt where
  eb : Nat
  mb : Nat
  bias : Nat
  e4m3 : Bool := false
  deriving DecidableEq, Repr

def fp64 : FloatFmt := { eb := 11, mb := 52, bias := 1023 }
def fp32 : FloatFmt := { eb := 8, mb := 23, bias := 127 }
def fp16 : FloatFmt := { eb := 5, mb := 10, bias := 15 }
def bf16 : FloatFmt := { eb := 8, mb := 7, bias := 127 }
def fpE4m3 : FloatFmt := { eb := 4, mb := 3, bias := 7, e4m3 := true }
def fpE5m2 : FloatFmt := { eb := 5, mb := 2, bias := 15 }

/-- What an encoding stands for. -/
inductive FVal where
  | nan (sign quiet : Bool)
  | inf (sign : Bool)
  | num (sign : Bool) (m : Nat) (e : Int)
  deriving DecidableEq, Repr

/-- The sign bit, the exponent field and the mantissa field of an encoding. -/
def FloatFmt.signOf (F : FloatFmt) (x : Nat) : Bool := x.testBit (F.eb + F.mb)
def FloatFmt.expOf (F : FloatFmt) (x : Nat) : Nat := x / 2 ^ F.mb % 2 ^ F.eb
def FloatFmt.manOf (F : FloatFmt) (x : Nat) : Nat := x % 2 ^ F.mb

/-- The value of an encoding (R233). -/
def FloatFmt.value (F : FloatFmt) (x : Nat) : FVal :=
  let s := F.signOf x
  let e := F.expOf x
  let f := F.manOf x
  if e = 0 then .num s f (1 - (F.bias + F.mb : Nat))
  else if e = 2 ^ F.eb - 1 ∧ F.e4m3 = false then (if f = 0 then .inf s else .nan s (f.testBit (F.mb - 1)))
  else if e = 2 ^ F.eb - 1 ∧ f = 2 ^ F.mb - 1 then .nan s true
  else .num s (2 ^ F.mb + f) ((e : Int) - (F.bias + F.mb : Nat))

/-- A subnormal encoding. -/
def FloatFmt.subnormal (F : FloatFmt) (x : Nat) : Bool := F.expOf x == 0 && F.manOf x != 0

/-- A source as flush mode has it read (R239, R259). -/
def FloatFmt.flushIn (F : FloatFmt) (flush : Bool) (x : Nat) : Nat :=
  if flush ∧ F.subnormal x then (if F.signOf x then 2 ^ (F.eb + F.mb) else 0) else x

/-- A sign and the bits below it. -/
def FloatFmt.pack (F : FloatFmt) (s : Bool) (x : Nat) : Nat := (if s then 2 ^ (F.eb + F.mb) else 0) + x

/-- The magnitudes of the largest finite value, of infinity and of the canonical NaN. -/
def FloatFmt.maxBits (F : FloatFmt) : Nat := if F.e4m3 then 0x7E else (2 ^ F.eb - 1) * 2 ^ F.mb - 1
def FloatFmt.infBits (F : FloatFmt) : Nat := if F.e4m3 then 0x7F else (2 ^ F.eb - 1) * 2 ^ F.mb
def FloatFmt.nanBits (F : FloatFmt) : Nat := if F.e4m3 then 0x7F else (2 ^ F.eb - 1) * 2 ^ F.mb + 2 ^ (F.mb - 1)

/-! ### Exceptions (Table 12-2) -/

def excNv : BitVec 5 := 1
def excDz : BitVec 5 := 2
def excOf : BitVec 5 := 4
def excUf : BitVec 5 := 8
def excNx : BitVec 5 := 16

/-- An encoding, and the exceptions raised on the way to it. -/
structure FRes where
  bits : Nat
  exc : BitVec 5 := 0
  deriving DecidableEq, Repr

/-! ### Rounding (R237) -/

/-- A mode rounds a magnitude up: its low bit, whether it leaves something, how that compares with a half. -/
def roundsUp (rm : Rm) (s odd inexact more tie : Bool) : Bool :=
  match rm with
  | .rne => more || (tie && odd)
  | .rz => false
  | .rup => inexact && !s
  | .rdn => inexact && s

/-- A magnitude m·2^e, with something below it where `st` says so, in units of 2^q: the rounded number of units and
whether it is inexact. -/
def roundAt (rm : Rm) (s : Bool) (m : Nat) (e : Int) (st : Bool) (q : Int) : Nat × Bool :=
  if q ≤ e then
    let k := m * 2 ^ (e - q).toNat
    (k + (if roundsUp rm s (k % 2 == 1) st false false then 1 else 0), st)
  else
    let n := (q - e).toNat
    let k := m / 2 ^ n
    let r := m % 2 ^ n
    let half := 2 ^ (n - 1)
    let inexact := r != 0 || st
    (k + (if roundsUp rm s (k % 2 == 1) inexact (decide (half < r) || (r == half && st)) (r == half && !st) then 1 else 0), inexact)

/-- Round of a finite value (R237), with the exceptions of Table 12-1. `st`: the exact value lies a little above m·2^e. -/
def FloatFmt.round (F : FloatFmt) (rm : Rm) (sat flush : Bool) (s : Bool) (m0 : Nat) (e0 : Int) (st0 : Bool := false) : FRes :=
  if m0 = 0 ∧ st0 = false then { bits := F.pack s 0 }
  else
    let emin : Int := 1 - (F.bias : Int)
    let far := decide ((m0.log2 : Int) + e0 < emin - F.mb - 3)
    let m := if far then 1 else m0
    let e := if far then emin - F.mb - 4 else e0
    let st := far || st0
    let E : Int := (m.log2 : Int) + e
    let r := roundAt rm s m e st (max E emin - F.mb)
    let u := roundAt rm s m e st (E - F.mb)
    let tiny := decide (E < emin) && !(decide (E = emin - 1) && decide (2 ^ (F.mb + 1) ≤ u.1))
    let carry := decide (2 ^ (F.mb + 1) ≤ r.1)
    let E1 : Int := if carry then max E emin + 1 else max E emin
    let k := if carry then r.1 / 2 else r.1
    let field := (E1 + F.bias).toNat
    let code := if k < 2 ^ F.mb then k else field * 2 ^ F.mb + (k - 2 ^ F.mb)
    if F.maxBits < code then
      let up := rm == .rne || (rm == .rup && !s) || (rm == .rdn && s)
      { bits := F.pack s (if !sat && up then F.infBits else F.maxBits), exc := excOf ||| excNx }
    else
      let cut := flush && code != 0 && decide (k < 2 ^ F.mb)
      let nx := r.2 || cut
      { bits := F.pack s (if cut then 0 else code)
        exc := (if nx then excNx else 0) ||| (if (tiny && r.2) || cut then excUf else 0) }

/-- Round of an infinity (R237). -/
def FloatFmt.roundInf (F : FloatFmt) (sat s : Bool) : Nat :=
  if F.e4m3 ∧ sat then F.pack s F.maxBits else F.pack s F.infBits

/-- The integer that Select gives (R248). -/
def roundToInt (rm : Rm) (s : Bool) (m : Nat) (e : Int) : Int :=
  let r := (roundAt rm s m e false 0).1
  if s then -(r : Int) else r

/-! ### NaNs (R260) -/

/-- The encoding is a NaN, and a signalling one. -/
def FloatFmt.isNan (F : FloatFmt) (x : Nat) : Bool := match F.value x with | .nan .. => true | _ => false
def FloatFmt.isSnan (F : FloatFmt) (x : Nat) : Bool := match F.value x with | .nan _ q => !q | _ => false

/-- The NaN of an operation with a NaN operand, and the invalid of a signalling one; none with no NaN operand. -/
def FloatFmt.nanOf (F : FloatFmt) (xs : List Nat) : Option FRes :=
  (xs.find? F.isNan).map (fun x =>
    { bits := if F.isSnan x then x + 2 ^ (F.mb - 1) else x, exc := if xs.any F.isSnan then excNv else 0 })

/-- The result of an invalid operation. -/
def FloatFmt.invalid (F : FloatFmt) : FRes := { bits := F.nanBits, exc := excNv }

/-! ### The arithmetic of R273 -/

/-- A signed number of units. -/
def sgnNat (s : Bool) (m : Nat) : Int := if s then -(m : Int) else m

/-- The exact sum of two finite values, rounded, with the zero of R260. -/
def FloatFmt.addNum (F : FloatFmt) (rm : Rm) (flush : Bool) (s1 : Bool) (m1 : Nat) (e1 : Int) (s2 : Bool) (m2 : Nat) (e2 : Int) :
    FRes :=
  let e := min e1 e2
  let v := sgnNat s1 (m1 * 2 ^ (e1 - e).toNat) + sgnNat s2 (m2 * 2 ^ (e2 - e).toNat)
  if v = 0 then { bits := F.pack (if m1 = 0 ∧ m2 = 0 ∧ s1 = s2 then s1 else rm == .rdn) 0 }
  else F.round rm false flush (decide (v < 0)) v.natAbs e

/-- VFADD, and VFSUB with `neg` (R273). -/
def FloatFmt.add (F : FloatFmt) (rm : Rm) (flush neg : Bool) (a0 b0 : Nat) : FRes :=
  let a := F.flushIn flush a0
  let b := F.flushIn flush b0
  match F.nanOf [a, b] with
  | some r => r
  | none =>
    match F.value a, F.value b with
    | .inf s, .inf t => if s = xor t neg then { bits := F.pack s F.infBits } else F.invalid
    | .inf s, _ => { bits := F.pack s F.infBits }
    | _, .inf t => { bits := F.pack (xor t neg) F.infBits }
    | .num s m e, .num t n k => F.addNum rm flush s m e (xor t neg) n k
    | _, _ => F.invalid

/-- VFMUL (R273). -/
def FloatFmt.mul (F : FloatFmt) (rm : Rm) (flush : Bool) (a0 b0 : Nat) : FRes :=
  let a := F.flushIn flush a0
  let b := F.flushIn flush b0
  match F.nanOf [a, b] with
  | some r => r
  | none =>
    match F.value a, F.value b with
    | .inf s, .inf t => { bits := F.pack (xor s t) F.infBits }
    | .inf s, .num t n _ => if n = 0 then F.invalid else { bits := F.pack (xor s t) F.infBits }
    | .num s m _, .inf t => if m = 0 then F.invalid else { bits := F.pack (xor s t) F.infBits }
    | .num s m e, .num t n k => F.round rm false flush (xor s t) (m * n) (e + k)
    | _, _ => F.invalid

/-- What the product of a multiply-add comes to. -/
def FVal.times (nab : Bool) : FVal → FVal → Option FVal
  | .inf s, .inf t => some (.inf (xor nab (xor s t)))
  | .inf s, .num t n _ => if n = 0 then none else some (.inf (xor nab (xor s t)))
  | .num s m _, .inf t => if m = 0 then none else some (.inf (xor nab (xor s t)))
  | .num s m e, .num t n k => some (.num (xor nab (xor s t)) (m * n) (e + k))
  | x, _ => some x

/-- VFMA (R273): one rounding. -/
def FloatFmt.fma (F : FloatFmt) (rm : Rm) (flush nab nc : Bool) (a0 b0 c0 : Nat) : FRes :=
  let a := F.flushIn flush a0
  let b := F.flushIn flush b0
  let c := F.flushIn flush c0
  let p := FVal.times nab (F.value a) (F.value b)
  match F.nanOf [a, b, c] with
  | some r => if p = none then { r with exc := r.exc ||| excNv } else r
  | none =>
    match p, F.value c with
    | none, _ => F.invalid
    | some (.inf s), .inf t => if s = xor t nc then { bits := F.pack s F.infBits } else F.invalid
    | some (.inf s), _ => { bits := F.pack s F.infBits }
    | some _, .inf t => { bits := F.pack (xor t nc) F.infBits }
    | some (.num s m e), .num t n k => F.addNum rm flush s m e (xor t nc) n k
    | _, _ => F.invalid

/-- One number orders below another, −0 below +0 (R166, R274). -/
def FloatFmt.below (F : FloatFmt) (a b : Nat) : Bool :=
  let key : Nat → Int := fun x => if F.signOf x then -((x % 2 ^ (F.eb + F.mb) : Nat) : Int) - 1 else (x : Int)
  decide (key a < key b)

/-- VFMIN and VFMAX (R274). -/
def FloatFmt.minMax (F : FloatFmt) (flush larger : Bool) (a0 b0 : Nat) : FRes :=
  let a := F.flushIn flush a0
  let b := F.flushIn flush b0
  let exc := if F.isSnan a || F.isSnan b then excNv else 0
  let r := if F.isNan a then (if F.isNan b then F.nanBits else b)
    else if F.isNan b then a
    else if F.below b a = larger then a else b
  { bits := r, exc }

/-- Two numbers compare (−0 equals +0). -/
def FloatFmt.order (F : FloatFmt) (a b : Nat) : Ordering :=
  let key : Nat → Int := fun x => if F.signOf x then -((x % 2 ^ (F.eb + F.mb) : Nat) : Int) else (x : Int)
  compare (key a) (key b)

/-- VFCMP (R275, Table 12-5). -/
def FloatFmt.cmp (F : FloatFmt) (cc : CmpF) (flush : Bool) (a0 b0 : Nat) : Bool × BitVec 5 :=
  let a := F.flushIn flush a0
  let b := F.flushIn flush b0
  let nan := F.isNan a || F.isNan b
  let o := F.order a b
  let t := match cc with
    | .eq => !nan && o == .eq
    | .ne => nan || o != .eq
    | .lt => !nan && o == .lt
    | .le => !nan && o != .gt
    | .gt => !nan && o == .gt
    | .ge => !nan && o != .lt
    | .un => nan
    | .num => !nan
  let nv := match cc with
    | .lt | .le | .gt | .ge => nan
    | _ => F.isSnan a || F.isSnan b
  (t, if nv then excNv else 0)

/-! ### Reciprocals and roots (R276, Table 12-6) -/

/-- The whole square root of a number, found bit by bit from 2^b down. -/
def isqrt (x : Nat) : Nat → Nat → Nat
  | 0, r => r
  | b + 1, r => isqrt x b (if (r + 2 ^ b) * (r + 2 ^ b) ≤ x then r + 2 ^ b else r)

/-- VRCP. -/
def FloatFmt.rcp (F : FloatFmt) (rm : Rm) (flush : Bool) (a0 : Nat) : FRes :=
  let a := F.flushIn flush a0
  match F.value a with
  | .nan .. => (F.nanOf [a]).getD F.invalid
  | .inf s => { bits := F.pack s 0 }
  | .num s m e =>
    if m = 0 then { bits := F.pack s F.infBits, exc := excDz }
    else F.round rm false flush s (2 ^ 160 / m) (-160 - e) (2 ^ 160 % m != 0)

/-- A magnitude with an even exponent: m·2^e as n·4^h. -/
def evenExp (m : Nat) (e : Int) : Nat × Int := if e % 2 = 0 then (m, e / 2) else (2 * m, (e - 1) / 2)

/-- VRSQ. -/
def FloatFmt.rsq (F : FloatFmt) (rm : Rm) (flush : Bool) (a0 : Nat) : FRes :=
  let a := F.flushIn flush a0
  match F.value a with
  | .nan .. => (F.nanOf [a]).getD F.invalid
  | .inf s => if s then F.invalid else { bits := 0 }
  | .num s m e =>
    if m = 0 then { bits := F.pack s F.infBits, exc := excDz }
    else if s then F.invalid
    else
      let p := evenExp m e
      let y := isqrt (2 ^ 256 / p.1) 129 0
      F.round rm false flush false y (-128 - p.2) (y * y * p.1 != 2 ^ 256)

/-- VSQRT. -/
def FloatFmt.sqrt (F : FloatFmt) (rm : Rm) (flush : Bool) (a0 : Nat) : FRes :=
  let a := F.flushIn flush a0
  match F.value a with
  | .nan .. => (F.nanOf [a]).getD F.invalid
  | .inf s => if s then F.invalid else { bits := F.infBits }
  | .num s m e =>
    if m = 0 then { bits := F.pack s 0 }
    else if s then F.invalid
    else
      let p := evenExp m e
      let y := isqrt (p.1 * 2 ^ 128) 96 0
      F.round rm false flush false y (p.2 - 64) (y * y != p.1 * 2 ^ 128)

/-- VLDEXP (R278). -/
def FloatFmt.ldexp (F : FloatFmt) (rm : Rm) (flush : Bool) (a0 : Nat) (n : Int) : FRes :=
  let a := F.flushIn flush a0
  match F.value a with
  | .nan .. => (F.nanOf [a]).getD F.invalid
  | .inf s => { bits := F.pack s F.infBits }
  | .num s m e => F.round rm false flush s m (e + n)

/-! ### The faithful instructions (R277)

The exact result is enclosed in fixed point, in units of 2^-400, and the free value of the step picks one of the two
FP32 values that bracket it. -/

/-- The bits of the fixed point. -/
def fixP : Nat := 400
/-- The error the enclosures allow for, in units of 2^-400. -/
def fixErr : Nat := 2 ^ 16

/-- The sum of z^(2k+1)/(2k+1) from a term on, in fixed point; alternating with `alt`. -/
def atanSum (alt : Bool) (z2 : Nat) : Nat → Nat → Nat → Int
  | 0, _, _ => 0
  | n + 1, k, t => (sgnNat (alt && k % 2 == 1) (t / (2 * k + 1))) + atanSum alt z2 n (k + 1) (t * z2 / 2 ^ fixP)

/-- π and the natural logarithm of 2 in fixed point: Machin's formula, and 2·atanh(1/3). -/
def fixPi : Nat :=
  let at_ := fun (d n : Nat) => atanSum true (2 ^ fixP / (d * d)) n 0 (2 ^ fixP / d)
  (16 * at_ 5 100 - 4 * at_ 239 40).toNat
def fixLn2 : Nat := (2 * atanSum false (2 ^ fixP / 9) 140 0 (2 ^ fixP / 3)).toNat

/-- The power series of the exponential from a term on. -/
def expSum (t : Nat) : Nat → Nat → Nat → Nat
  | 0, _, _ => 0
  | n + 1, k, x => x + expSum t n (k + 1) (x * t / 2 ^ fixP / (k + 1))

/-- The power series of the sine from a term on. -/
def sinSum (t2 : Nat) : Nat → Nat → Nat → Int
  | 0, _, _ => 0
  | n + 1, k, x => sgnNat (k % 2 == 1) x + sinSum t2 n (k + 1) (x * t2 / 2 ^ fixP / ((2 * k + 2) * (2 * k + 3)))

/-- One of the two FP32 values that bracket a result near v·2^(e-400). -/
def faithful (flush pick s : Bool) (v : Nat) (e : Int) : FRes :=
  fp32.round (if pick then .rup else .rdn) false flush s (v - fixErr) (e - fixP) true

/-- A dyadic as a whole number and a fraction in fixed point: floor(x) and (x − floor(x))·2^400. -/
def fixSplit (s : Bool) (m : Nat) (e : Int) : Int × Nat :=
  let x := sgnNat s (m * 2 ^ (e + fixP).toNat)
  (x / (2 ^ fixP : Nat), (x % (2 ^ fixP : Nat)).toNat)

/-- VEXP2. -/
def vexp2 (flush pick : Bool) (a0 : Nat) : FRes :=
  let a := fp32.flushIn flush a0
  match fp32.value a with
  | .nan .. => (fp32.nanOf [a]).getD fp32.invalid
  | .inf s => { bits := if s then 0 else fp32.infBits }
  | .num s m e =>
    let n := fixSplit s m (min e 8)
    if n.2 = 0 then fp32.round .rne false flush false 1 n.1
    else faithful flush pick false (expSum (n.2 * fixLn2 / 2 ^ fixP) 90 0 (2 ^ fixP)) n.1

/-- VLOG2. -/
def vlog2 (flush pick : Bool) (a0 : Nat) : FRes :=
  let a := fp32.flushIn flush a0
  match fp32.value a with
  | .nan .. => (fp32.nanOf [a]).getD fp32.invalid
  | .inf s => if s then fp32.invalid else { bits := fp32.infBits }
  | .num s m e =>
    if m = 0 then { bits := fp32.pack true fp32.infBits, exc := excDz }
    else if s then fp32.invalid
    else
      let k := m.log2
      let n : Int := k + e
      if m = 2 ^ k then fp32.round .rne false flush (decide (n < 0)) n.natAbs 0
      else
        let z := (m - 2 ^ k) * 2 ^ fixP / (m + 2 ^ k)
        let ln := (2 * atanSum false (z * z / 2 ^ fixP) 140 0 z).toNat
        let v : Int := n * (2 ^ fixP : Nat) + (ln * 2 ^ fixP / fixLn2 : Nat)
        faithful flush pick (decide (v < 0)) v.natAbs 0

/-- The sine of π times a dyadic. A whole argument gives a zero of the given sign. -/
def sinPi (flush pick zero s : Bool) (m : Nat) (e : Int) : FRes :=
  let n := fixSplit s m e
  let neg := decide (n.1 % 2 = 1)
  let half := 2 ^ (fixP - 1)
  if n.2 = 0 then { bits := fp32.pack zero 0 }
  else if n.2 = half then { bits := fp32.pack neg 0x3F800000 }
  else
    let f := if half < n.2 then 2 ^ fixP - n.2 else n.2
    let t := f * fixPi / 2 ^ fixP
    faithful flush pick neg (sinSum (t * t / 2 ^ fixP) 60 0 t).toNat 0

/-- VSIN. -/
def vsin (flush pick : Bool) (a0 : Nat) : FRes :=
  let a := fp32.flushIn flush a0
  match fp32.value a with
  | .nan .. => (fp32.nanOf [a]).getD fp32.invalid
  | .inf _ => fp32.invalid
  | .num s m e => sinPi flush pick s s m e

/-- VCOS: the sine a half-turn's half further on. -/
def vcos (flush pick : Bool) (a0 : Nat) : FRes :=
  let a := fp32.flushIn flush a0
  match fp32.value a with
  | .nan .. => (fp32.nanOf [a]).getD fp32.invalid
  | .inf _ => fp32.invalid
  | .num s m e =>
    let k := min e (-1)
    let v := sgnNat s (m * 2 ^ (e - k).toNat) + (2 ^ (-1 - k).toNat : Nat)
    sinPi flush pick false (decide (v < 0)) v.natAbs k

end Sys2Proof.Machine
end

