-- ==== Sys2Proof/Machine/FloatInstr.lean ====
section
/-! DEFINITION. The floating instructions (12 R271 to R278): the FP32 forms of arithmetic are of fixed latency, and their
FPE is taken at issue; the FP64 forms and the transcendentals are covered by a flag (R258, R262, R272). -/

namespace Sys2Proof.Machine

open Sys2Proof

/-- The format of a floating instruction. -/
def floatFmt : FFmt → FloatFmt
  | .f32 => fp32
  | .f64 => fp64

/-- What each lane comes to; a lane outside the active set comes to nothing. -/
def Ctx.perRow (x : Ctx) (f : Nat → FRes) : List FRes :=
  (List.range 64).map (fun l => if x.act.getLsbD l then f l else { bits := 0 })

/-- The exceptions raised, and the lanes that raised one that the launch enables (R262). -/
def excAll (rs : List FRes) : BitVec 5 := rs.foldl (fun e r => e ||| r.exc) 0
def excLanes (en : BitVec 5) (rs : List FRes) : Lanes := mkLanes (fun l => (rs.getD l { bits := 0 }).exc &&& en != 0)

/-- The FPE trap of an instruction, where an enabled exception was raised (R262). -/
def Ctx.fpe (x : Ctx) (lanes : Lanes) (exc : BitVec 5) : Option Trap :=
  if exc &&& x.fpen = 0 then none else some { x.trap .fpe lanes with fpx := exc }

/-- The body of a fixed-latency float form: precise FPE at issue, else the writes and the sticky bits. -/
def fpFixedBody (lat : Nat) (f : Ctx → Nat → FRes) (w : Ctx → (Nat → Nat) → List Res) : Body := fun x s =>
  let rs := x.perRow (f x)
  match x.fpe (excLanes x.fpen rs) (excAll rs) with
  | some t => .error t
  | none => .ok (s.setGroup ((x.g.stick (excAll rs)).writes (x.lat lat) (w x (fun l => (rs.getD l { bits := 0 }).bits))), .step)

/-- A flag-covered float form (R258). -/
def fpCovered (f : Ctx → Nat → FRes) (w : Ctx → (Nat → Nat) → List Res) : Ctx → Out := fun x =>
  let rs := x.perRow (f x)
  { res := w x (fun l => (rs.getD l { bits := 0 }).bits), sticky := excAll rs
    trap := (x.fpe (excLanes x.fpen rs) (excAll rs)).map x.late }

/-! ### The values that a residue check compares (R284) -/

/-- A number's significand, signed; none of a zero, an infinity or a NaN, which reach no multiplier or adder. -/
def FVal.reaches : FVal → Option (Int × Int)
  | .num s m e => if m = 0 then none else some (if s then -(m : Int) else m, e)
  | _ => none

/-- A residue modulo 3. -/
def res3 (x : Int) : Nat := (x % 3).toNat

/-- The integer product of two significands. -/
def mulChecked (a b : FVal) : List Checked :=
  match a.reaches, b.reaches with
  | some (m, _), some (n, _) => [{ value := m * n, residue := res3 m * res3 n % 3 }]
  | _, _ => []

/-- The unrounded sum of two aligned addends, each residue taken times that of its alignment shift. -/
def addChecked (a b : Option (Int × Int)) : List Checked :=
  match a, b with
  | some (m, e), some (n, f) =>
    let i := (e - min e f).toNat
    let j := (f - min e f).toNat
    let two := fun (k : Nat) => if k % 2 = 0 then 1 else 2
    [{ value := m * 2 ^ i + n * 2 ^ j, residue := (res3 m * two i + res3 n * two j) % 3 }]
  | _, _ => []

/-- What VFADD, VFMUL and VFMA check in a lane. -/
def FloatFmt.addChecks (F : FloatFmt) (flush : Bool) (a b : Nat) : List Checked :=
  addChecked (F.value (F.flushIn flush a)).reaches (F.value (F.flushIn flush b)).reaches
def FloatFmt.mulChecks (F : FloatFmt) (flush : Bool) (a b : Nat) : List Checked :=
  mulChecked (F.value (F.flushIn flush a)) (F.value (F.flushIn flush b))
def FloatFmt.fmaChecks (F : FloatFmt) (flush nab nc : Bool) (a b c : Nat) : List Checked :=
  let val := fun y => (F.value (F.flushIn flush y)).reaches
  let sgn := fun (neg : Bool) (y : Int × Int) => if neg then (-y.1, y.2) else y
  let p := match val a, val b with
    | some (m, e), some (n, f) => some (m * n, e + f)
    | _, _ => none
  F.mulChecks flush a b ++ addChecked (p.map (sgn nab)) ((val c).map (sgn nc))

/-- The meaning of a float form: FP64 covered by its flag, FP32 of a fixed latency; `rc` where a residue check may apply, of the values
`vals` (R283, R284). -/
def State.float (s : State) (i : Instr) (k : FFmt) (lat : Nat) (f : Ctx → Nat → FRes) (w : Ctx → (Nat → Nat) → List Res)
    (rc : Option Bool := none) (vals : Ctx → Nat → List Checked := fun _ _ => []) : Host.Outcome State Fault Refusal :=
  s.run i (checkedBody i rc lat vals (match k with | .f32 => fpFixedBody lat f w | .f64 => coveredBody i (fpCovered f w)))

/-- A floating source in a lane: a register, or a pair (R256). -/
def Ctx.fsrc (x : Ctx) (k : FFmt) (f : Fld) (y : Src) (l : Nat) : Nat :=
  match k with
  | .f32 => x.u f y l
  | .f64 => x.src2 f y l

/-- A floating result written to a vector register or pair. -/
def toF (k : FFmt) (d : VReg) : Ctx → (Nat → Nat) → List Res :=
  match k with
  | .f32 => fun x r => x.toV d r
  | .f64 => fun x r => x.toV2 d r

/-- A free choice of the step in a lane, for the two bracketing values of R277. -/
def Ctx.pick (x : Ctx) (l : Nat) : Bool := Config.free x.t (2 ^ 30 + l) % 2 == 1

/-- The values that VFADD, VFMUL and VFMA check in each lane. -/
def addVals (f : FFmt) (a b : Src) : Ctx → Nat → List Checked := fun x l => (floatFmt f).addChecks x.l.flush (x.fsrc f .a a l) (x.fsrc f .b b l)
def mulVals (f : FFmt) (a b : Src) : Ctx → Nat → List Checked := fun x l => (floatFmt f).mulChecks x.l.flush (x.fsrc f .a a l) (x.fsrc f .b b l)
def fmaVals (f : FFmt) (nab nc : Bool) (a b e : Src) : Ctx → Nat → List Checked := fun x l =>
  (floatFmt f).fmaChecks x.l.flush nab nc (x.fsrc f .a a l) (x.fsrc f .b b l) (x.fsrc f .c e l)

/-- VFADD (R273). -/
def execVfadd (c : Ctl) (f : FFmt) (rm : Rm) (rc : Bool) (d : VReg) (a b : Src) (s : State) : Host.Outcome State Fault Refusal :=
  s.float (.vfadd c f rm rc d a b) f 6 (fun x l => (floatFmt f).add rm x.l.flush false (x.fsrc f .a a l) (x.fsrc f .b b l)) (toF f d) (some rc)
    (addVals f a b)

/-- VFSUB (R273). -/
def execVfsub (c : Ctl) (f : FFmt) (rm : Rm) (d : VReg) (a b : Src) (s : State) : Host.Outcome State Fault Refusal :=
  s.float (.vfsub c f rm d a b) f 6 (fun x l => (floatFmt f).add rm x.l.flush true (x.fsrc f .a a l) (x.fsrc f .b b l)) (toF f d)

/-- VFMUL (R273). -/
def execVfmul (c : Ctl) (f : FFmt) (rm : Rm) (rc : Bool) (d : VReg) (a b : Src) (s : State) : Host.Outcome State Fault Refusal :=
  s.float (.vfmul c f rm rc d a b) f 6 (fun x l => (floatFmt f).mul rm x.l.flush (x.fsrc f .a a l) (x.fsrc f .b b l)) (toF f d) (some rc)
    (mulVals f a b)

/-- VFMA (R273). -/
def execVfma (c : Ctl) (f : FFmt) (rm : Rm) (nab nc rc : Bool) (d : VReg) (a b e : Src) (s : State) :
    Host.Outcome State Fault Refusal :=
  s.float (.vfma c f rm nab nc rc d a b e) f 6
    (fun x l => (floatFmt f).fma rm x.l.flush nab nc (x.fsrc f .a a l) (x.fsrc f .b b l) (x.fsrc f .c e l)) (toF f d) (some rc) (fmaVals f nab nc a b e)

/-- VFMIN (R274). -/
def execVfmin (c : Ctl) (f : FFmt) (d : VReg) (a b : Src) (s : State) : Host.Outcome State Fault Refusal :=
  s.float (.vfmin c f d a b) f 4 (fun x l => (floatFmt f).minMax x.l.flush false (x.fsrc f .a a l) (x.fsrc f .b b l)) (toF f d)

/-- VFMAX (R274). -/
def execVfmax (c : Ctl) (f : FFmt) (d : VReg) (a b : Src) (s : State) : Host.Outcome State Fault Refusal :=
  s.float (.vfmax c f d a b) f 4 (fun x l => (floatFmt f).minMax x.l.flush true (x.fsrc f .a a l) (x.fsrc f .b b l)) (toF f d)

/-- VFCMP (R275): a truth is a result of one bit. -/
def execVfcmp (c : Ctl) (f : FFmt) (cc : CmpF) (d : PReg) (a b : Src) (s : State) : Host.Outcome State Fault Refusal :=
  s.float (.vfcmp c f cc d a b) f 4
    (fun x l => let r := (floatFmt f).cmp cc x.l.flush (x.fsrc f .a a l) (x.fsrc f .b b l); { bits := if r.1 then 1 else 0, exc := r.2 })
    (fun x r => x.toP d (fun l => r l == 1))

/-- VRCP (R276). -/
def execVrcp (c : Ctl) (rm : Rm) (d : VReg) (a : Src) (s : State) : Host.Outcome State Fault Refusal :=
  s.covered (.vrcp c rm d a) (fpCovered (fun x l => fp32.rcp rm x.l.flush (x.u .a a l)) (toF .f32 d))

/-- VRSQ (R276). -/
def execVrsq (c : Ctl) (rm : Rm) (d : VReg) (a : Src) (s : State) : Host.Outcome State Fault Refusal :=
  s.covered (.vrsq c rm d a) (fpCovered (fun x l => fp32.rsq rm x.l.flush (x.u .a a l)) (toF .f32 d))

/-- VSQRT (R276): a transcendental in both formats, so its flag covers both. -/
def execVsqrt (c : Ctl) (f : FFmt) (rm : Rm) (d : VReg) (a : Src) (s : State) : Host.Outcome State Fault Refusal :=
  s.covered (.vsqrt c f rm d a) (fpCovered (fun x l => (floatFmt f).sqrt rm x.l.flush (x.fsrc f .a a l)) (toF f d))

/-- VEXP2 (R277). -/
def execVexp2 (c : Ctl) (d : VReg) (a : Src) (s : State) : Host.Outcome State Fault Refusal :=
  s.covered (.vexp2 c d a) (fpCovered (fun x l => vexp2 x.l.flush (x.pick l) (x.u .a a l)) (toF .f32 d))

/-- VLOG2 (R277). -/
def execVlog2 (c : Ctl) (d : VReg) (a : Src) (s : State) : Host.Outcome State Fault Refusal :=
  s.covered (.vlog2 c d a) (fpCovered (fun x l => vlog2 x.l.flush (x.pick l) (x.u .a a l)) (toF .f32 d))

/-- VSIN (R277). -/
def execVsin (c : Ctl) (d : VReg) (a : Src) (s : State) : Host.Outcome State Fault Refusal :=
  s.covered (.vsin c d a) (fpCovered (fun x l => vsin x.l.flush (x.pick l) (x.u .a a l)) (toF .f32 d))

/-- VCOS (R277). -/
def execVcos (c : Ctl) (d : VReg) (a : Src) (s : State) : Host.Outcome State Fault Refusal :=
  s.covered (.vcos c d a) (fpCovered (fun x l => vcos x.l.flush (x.pick l) (x.u .a a l)) (toF .f32 d))

/-- VLDEXP (R278). -/
def execVldexp (c : Ctl) (f : FFmt) (rm : Rm) (d : VReg) (a b : Src) (s : State) : Host.Outcome State Fault Refusal :=
  s.float (.vldexp c f rm d a b) f 6 (fun x l => (floatFmt f).ldexp rm x.l.flush (x.fsrc f .a a l) (signed 32 (x.u .b b l))) (toF f d)

end Sys2Proof.Machine
end

