-- ==== Sys2Proof/Machine/Convert.lean ====
section
/-! DEFINITION. Conversions (11 R238 to R255): VCVT, VPACK, VUNPK, VRND and VCLASS. None of them raises an exception. -/

namespace Sys2Proof.Machine

open Sys2Proof

/-- A conversion format: floating, or an integer of a signedness and a width (Table 11-5). -/
inductive NumFmt where
  | flt (F : FloatFmt)
  | int (sgn : Bool) (w : Nat)
  deriving DecidableEq, Repr

/-- The format of a conversion code. -/
def numFmt : CvtFmt → NumFmt
  | .f32 => .flt fp32 | .f64 => .flt fp64 | .f16 => .flt fp16 | .bf16 => .flt bf16 | .e4m3 => .flt fpE4m3 | .e5m2 => .flt fpE5m2
  | .sint8 => .int true 8 | .uint8 => .int false 8 | .sint16 => .int true 16 | .uint16 => .int false 16
  | .sint32 => .int true 32 | .uint32 => .int false 32 | .sint64 => .int true 64 | .uint64 => .int false 64

/-- The bits of an element. -/
def NumFmt.width : NumFmt → Nat
  | .flt F => F.eb + F.mb + 1
  | .int _ w => w

/-- A NaN carried into a floating format (Table 11-3). -/
def cvtNan (D S : FloatFmt) (x : Nat) : Nat :=
  let s := S.signOf x
  if D.mb ≤ 3 then D.pack s D.nanBits
  else if S.mb ≤ 3 then D.pack s D.nanBits
  else
    let p := x % 2 ^ (S.mb - 1)
    D.pack s (D.nanBits + (if S.mb ≤ D.mb then p * 2 ^ (D.mb - S.mb) else p / 2 ^ (S.mb - D.mb)))

/-- The least and the largest value of an integer format. -/
def intMin (sgn : Bool) (w : Nat) : Int := if sgn then -(2 ^ (w - 1) : Nat) else 0
def intMax (sgn : Bool) (w : Nat) : Int := if sgn then (2 ^ (w - 1) : Nat) - 1 else (2 ^ w : Nat) - 1

/-- An integer stored in a format: clamped, or wrapped (R248). -/
def cvtInt (sgn : Bool) (w : Nat) (nosat : Bool) (n : Int) : Nat :=
  if nosat then wrap w n else wrap w (min (max n (intMin sgn w)) (intMax sgn w))

/-- The conversion of one element (R248). -/
def cvt (dst src : NumFmt) (rm : Rm) (nosat flush : Bool) (x0 : Nat) : Nat :=
  let x1 := x0 % 2 ^ src.width
  match src with
  | .flt S =>
    let x := S.flushIn flush x1
    match S.value x, dst with
    | .nan .., .flt D => cvtNan D S x
    | .nan .., .int .. => 0
    | .inf s, .flt D => if nosat then D.roundInf false s else (if D.e4m3 then D.roundInf true s else D.pack s D.infBits)
    | .inf s, .int sgn w => wrap w (if s then intMin sgn w else intMax sgn w)
    | .num s m e, .flt D => (D.round rm (!nosat) flush s m e).bits
    | .num s m e, .int sgn w => cvtInt sgn w nosat (roundToInt rm s m e)
  | .int sgn w =>
    let n : Int := if sgn then signed w x1 else (x1 : Int)
    match dst with
    | .flt D => (D.round rm (!nosat) flush (decide (n < 0)) n.natAbs 0).bits
    | .int sg v => cvtInt sg v nosat n

/-- An element in a lane of a vector source, of one register or a pair (R245). -/
def Ctx.elem (x : Ctx) (f : Fld) (r : VReg) (w l : Nat) : Nat :=
  if w = 64 then pairVal (x.v f r.val 0 l) (x.v f r.val 1 l) else (x.v f r.val 0 l).toNat

/-- An element written to a vector register or pair. -/
def Ctx.toElem (x : Ctx) (w : Nat) (d : VReg) (f : Nat → Nat) : List Res := if w = 64 then x.toV2 d f else x.toV d f

/-- VCVT (R247, R248). -/
def execVcvt (c : Ctl) (dst src : CvtFmt) (rm : Rm) (nosat : Bool) (d : VReg) (a : VSrc) (s : State) :
    Host.Outcome State Fault Refusal :=
  s.fixed (.vcvt c dst src rm nosat d a) 6 (fun x =>
    let D := numFmt dst
    let S := numFmt src
    x.toElem D.width d (fun l => cvt D S rm nosat x.l.flush (x.elem .a a.r S.width l)))

/-! ### Packing -/

/-- The byte formats of VPACK.b4, and the register format each is formed from (R250). -/
def b4Fmt : B4Fmt → NumFmt
  | .e4m3 => .flt fpE4m3 | .e5m2 => .flt fpE5m2 | .sint8 => .int true 8 | .uint8 => .int false 8
def b4Reg : B4Fmt → NumFmt
  | .e4m3 | .e5m2 => .flt fp32
  | .sint8 => .int true 32
  | .uint8 => .int false 32
/-- The half formats of the .h2 forms. -/
def h2Fmt (bf : Bool) : NumFmt := .flt (if bf then bf16 else fp16)

/-- A scale's value: none for NaN (R234, R235). `kind` is 1 for E8M0 and 2 for E4M3. -/
def scaleVal (kind sc : Nat) : Option (Bool × Nat × Int) :=
  if kind = 1 then (if sc = 255 then none else some (false, 1, (sc : Int) - 127))
  else
    match fpE4m3.value sc with
    | .num s m e => some (s, m, e)
    | _ => none

/-- The sign of a scale byte. -/
def scaleSign (kind sc : Nat) : Bool := kind == 2 && sc.testBit 7

/-- The encoding of 2^E as a scale (R251). -/
def scaleCode (kind : Nat) (E : Int) : Nat :=
  if kind = 1 then (E + 127).toNat
  else if -6 ≤ E then ((E + 7) * 8).toNat
  else 2 ^ (E + 9).toNat

/-- A floating element format of a slot. -/
def slotFloat (fmt : Nat) : FloatFmt := if fmt = 0x0C then fpE4m3 else fpE5m2

/-- The exponent of a block whose largest magnitude is m·2^e (R251). -/
def blkExp (k : SlotInfo) (m : Nat) (e : Int) : Int :=
  let t : Int := (m.log2 : Int) + e
  let E := if isBfp k.fmt then t + 1
    else
      let top : Int := if k.fmt = 0x0C then 8 else 15
      -- a·2^-E is at most 1.75·2^top where a is at most 1.75·2^t
      if m * 4 ≤ 7 * 2 ^ m.log2 then t - top else t - top + 1
  if k.scale = 1 then min (max E (-127)) 127 else min (max E (-9)) 8

/-- One element of a block with exponent E (R251). -/
def blkElem (k : SlotInfo) (rm : Rm) (nosat flush : Bool) (E : Int) (s : Bool) (m : Nat) (e : Int) : Nat :=
  if isBfp k.fmt then
    let w := ebits k.fmt
    cvtInt true w false (roundToInt rm s m (e + (w : Int) - 1 - E))
  else ((slotFloat k.fmt).round rm (!nosat) flush s m (e - E)).bits

/-- A block formed of 32 lanes' FP32 values (R251): the scale byte and the elements. -/
def packBlk (k : SlotInfo) (rm : Rm) (nosat flush : Bool) (xs0 : List Nat) : Nat × List Nat :=
  let xs := xs0.map (fun x0 =>
    let x := fp32.flushIn flush x0
    match fp32.value x with
    | .inf s => if nosat then x else fp32.pack s fp32.maxBits
    | _ => x)
  let vals := xs.map fp32.value
  if vals.any (fun v => match v with | .num .. => false | _ => true) then
    (if k.scale = 1 then 0xFF else 0x7F, xs.map (fun _ => 0))
  else
    let mags := vals.filterMap (fun v => match v with | .num _ m e => if m = 0 then none else some (m, e) | _ => none)
    match mags with
    | [] => (if k.scale = 1 then 0x00 else 0x01, xs.map (fun _ => 0))
    | p :: ps =>
      -- an FP32 magnitude's bits order as its value does
      let top := (xs.map (fun x => x % 2 ^ 31)).foldl max 0
      let a := match fp32.value top with | .num _ m e => (m, e) | _ => (ps.foldl (fun _ y => y) p)
      let E := blkExp k a.1 a.2
      (scaleCode k.scale E, vals.map (fun v => match v with
        | .num s m e => blkElem k rm nosat flush E s m e
        | _ => 0))

/-- The block forms of the lanes of both segments: scales and elements. -/
def Ctx.packed (x : Ctx) (k : SlotInfo) (rm : Rm) (nosat : Bool) (a : VSrc) : List (Nat × List Nat) :=
  [0, 1].map (fun g => packBlk k rm nosat x.l.flush ((List.range 32).map (fun i =>
    if x.act.getLsbD (32 * g + i) then (x.v .a a.r.val 0 (32 * g + i)).toNat else 0)))

/-- What a form of VPACK writes (R250, R251). -/
def Ctx.vpack (x : Ctx) (f : PackForm) : List Res :=
  match f with
  | .h2 bf rm nosat d a b =>
    let one := fun (f : Fld) (r : VSrc) l => cvt (h2Fmt bf) (.flt fp32) rm nosat x.l.flush (x.v f r.r.val 0 l).toNat
    x.toV d (fun l => one .a a l + 2 ^ 16 * one .b b l)
  | .b4 k rm nosat d a =>
    let one := fun i l => cvt (b4Fmt k) (b4Reg k) rm nosat x.l.flush (x.v .a a.r.val i l).toNat
    x.toV d (fun l => one 0 l + 2 ^ 8 * one 1 l + 2 ^ 16 * one 2 l + 2 ^ 24 * one 3 l)
  | .blk rm nosat d e a k =>
    let bs := x.packed (x.slot k) rm nosat a
    let blk := fun g => bs.getD g (0, [])
    x.toV d (fun l => (blk (l / 32)).2.getD (l % 32) 0) ++ toS false e ((blk 0).1 + 256 * (blk 1).1)

/-- VPACK (R249 to R251). -/
def execVpack (c : Ctl) (f : PackForm) (s : State) : Host.Outcome State Fault Refusal :=
  s.fixed (.vpack c f) 6 (fun x => x.vpack f)

/-- The value of a slot's element (R235, R241). -/
def slotElem (fmt x : Nat) : FVal :=
  if isBfp fmt then
    let w := ebits fmt
    let q := signed w x
    .num (decide (q < 0)) q.natAbs (1 - (w : Int))
  else
    match fmt with
    | 0x08 => fp16.value (x % 2 ^ 16)
    | 0x09 => bf16.value (x % 2 ^ 16)
    | 0x0A => fp32.value (x % 2 ^ 32)
    | f => (slotFloat f).value (x % 2 ^ 8)

/-- The sign of a value. -/
def FVal.neg : FVal → Bool
  | .nan s _ => s
  | .inf s => s
  | .num s _ _ => s

/-- One lane of VUNPK.blk (R252). -/
def unpackBlk (k : SlotInfo) (flush : Bool) (el sc : Nat) : Nat :=
  let v := slotElem k.fmt el
  let s := xor v.neg (scaleSign k.scale sc)
  let nan := fp32.pack s fp32.nanBits
  match v, scaleVal k.scale sc with
  | .nan .., _ => nan
  | _, none => nan
  | .inf _, some (_, m, _) => if m = 0 then nan else fp32.pack s fp32.infBits
  | .num _ m e, some (_, n, f) => (fp32.round .rne false flush s (m * n) (e + f)).bits

/-- What a form of VUNPK writes (R250, R252). -/
def Ctx.vunpk (x : Ctx) (f : UnpackForm) : List Res :=
  match f with
  | .h2 bf d a =>
    let one := fun i l => cvt (.flt fp32) (h2Fmt bf) .rne true x.l.flush ((x.v .a a.r.val 0 l).toNat / 2 ^ (16 * i))
    [.v d.val x.act (mkRow (fun l => BitVec.ofNat 32 (one 0 l))), .v (d.val + 1) x.act (mkRow (fun l => BitVec.ofNat 32 (one 1 l)))]
  | .b4 k d a =>
    let one := fun i l => cvt (b4Reg k) (b4Fmt k) .rne true x.l.flush ((x.v .a a.r.val 0 l).toNat / 2 ^ (8 * i))
    (List.range 4).map (fun i => .v (d.val + i) x.act (mkRow (fun l => BitVec.ofNat 32 (one i l))))
  | .blk d a e k =>
    let sc := (x.s .b e.val 0).toNat
    x.toV d (fun l => unpackBlk (x.slot k) x.l.flush (x.v .a a.r.val 0 l).toNat (sc / 2 ^ (8 * (l / 32)) % 256))

/-- VUNPK (R249, R250, R252). -/
def execVunpk (c : Ctl) (f : UnpackForm) (s : State) : Host.Outcome State Fault Refusal :=
  s.fixed (.vunpk c f) 6 (fun x => x.vunpk f)

/-! ### VRND and VCLASS -/

/-- One element of VRND (R253). -/
def rnd (F : FloatFmt) (rm : Rm) (flush : Bool) (x0 : Nat) : Nat :=
  let x := F.flushIn flush x0
  match F.value x with
  | .nan .. => cvtNan F F x
  | .inf _ => x
  | .num s m e => (F.round .rne false false s (roundToInt rm s m e).natAbs 0).bits

/-- VRND (R253). -/
def execVrnd (c : Ctl) (f : FFmt) (rm : Rm) (d : VReg) (a : VSrc) (s : State) : Host.Outcome State Fault Refusal :=
  s.fixed (.vrnd c f rm d a) 6 (fun x =>
    let w := 32 * f.regs
    x.toElem w d (fun l => rnd (floatFmt f) rm x.l.flush (x.elem .a a.r w l)))

/-- The formats of VCLASS. -/
def classFmt : ClassFmt → FloatFmt
  | .f32 => fp32 | .f64 => fp64 | .f16 => fp16 | .bf16 => bf16 | .e4m3 => fpE4m3 | .e5m2 => fpE5m2

/-- The class bit of an encoding (Table 11-9). -/
def FloatFmt.classBit (F : FloatFmt) (x : Nat) : Nat :=
  match F.value x with
  | .nan _ q => if q then 9 else 8
  | .inf s => if s then 0 else 7
  | .num s m _ =>
    if m = 0 then (if s then 3 else 4)
    else if F.subnormal x then (if s then 2 else 5)
    else (if s then 1 else 6)

/-- VCLASS (R254). -/
def execVclass (c : Ctl) (f : ClassFmt) (d : VReg) (a : VSrc) (s : State) : Host.Outcome State Fault Refusal :=
  s.fixed (.vclass c f d a) 6 (fun x =>
    let F := classFmt f
    let w := F.eb + F.mb + 1
    x.toV d (fun l => 2 ^ F.classBit (x.elem .a a.r w l % 2 ^ w)))

end Sys2Proof.Machine
end

