-- ==== Sys2Proof/Machine/Issue.lean ====
section
/-! DEFINITION. From a fragment's pc to the instruction it issues: clause headers, predicate-block prefixes and the decode
checks of Table 3-7, replay entries, and the choice of group and fragment (R50, R60 to R67, R368, R396, R397, R423). -/

namespace Sys2Proof.Machine

open Sys2Proof

/-- What a fragment does next: a step of its own that issues no instruction word (a trap at a word, a fetch that faults,
an entry that its unit takes back), or an instruction, with the state in which it executes. -/
inductive Next where
  | done (s : State)
  | run (i : Instr) (s : State)

/-- A fragment's group sleeps on a translation fault (R124). -/
def Group.faulting (g : Group) : Bool :=
  g.frags.any (fun f => match f.wait with | .fault .. => true | _ => false) || g.pend.any (fun p => !p.tags.isEmpty)

/-- The breakpoint register that names an offset (R441). -/
def Group.bpAt (g : Group) (pc : Nat) : Option Nat :=
  (List.range 4).find? (fun k => let b := (sgetD g.bpc k 0).toNat; b % 2 == 1 && b / 8 * 8 == pc)

/-- The debug registers act on the fragment: no debugger, and it is in handler mode, and they do not (R441). -/
def debugOn (s : State) (l : Launch) (f : Frag) : Bool := !f.handler || (s.vif l.vif).debugger

/-- The fragment stands where it can take a trap: it would issue, or it is asleep, but not on a translation fault. -/
def Frag.atTrap (f : Frag) : Bool :=
  !f.stopped && !f.traps.isEmpty && (match f.wait with | .fault .. => false | _ => true)

/-- A fragment of the group has a trap to take before the group issues again (R187, R258, R355, R414). -/
def Group.reported (g : Group) : Bool := !g.frags.any (fun f => f.handler) && g.frags.any (fun f => f.atTrap)

/-- The fragment may be chosen to issue, its next word aside (R368, R415, R417). -/
def Frag.runnable (f : Frag) (g : Group) : Bool := f.wait == .no && !f.stopped && f.traps.isEmpty && !g.faulting && !g.reported

/-- The active set at a prefix position (R61). -/
def Pfx.act (p : Pfx) (lanes : Lanes) : Lanes := if p.pattern.getLsbD p.pos then lanes &&& p.mask else lanes &&& ~~~p.mask

/-- An instruction that the fragment issued will end in a trap, which comes before one at the word that it stands at (R416). -/
def Group.trapAhead (g : Group) (f : Frag) : Bool :=
  g.pend.any (fun p => (p.soft.isSome || p.bound) && g.owns f p && decide (f.since ≤ p.entry.seq))

/-- A trap at the word that `f` stands at, with nothing issued: the trap's frame has that word's PC (R67). The group's own record of
the fragment stands before the words that govern it. The trap of an earlier instruction comes first (R416). -/
def State.wordTrap (s : State) (g : Group) (f : Frag) (c : Cause) (info : Nat := 0) : Next :=
  if g.trapAhead f then .done s
  else
    .done (s.takeTrap g.ref (lowest f.lanes) { cause := c, lanes := f.lanes, info := BitVec.ofNat 64 info, tpc := f.pc
                                               at_ := some { pc := f.pc, clause := f.clause, pfx := f.pfx } })

/-- A fetch that finds no word: the sleep or the trap it ends in. DESIGN CHOICE: the info of a refused fetch's ACCESS is the word's virtual
address, as of an access that failed translation, although the trap is taken at issue (Table 23-1 allows 0 there). A sleep leaves the fragment where it is: the words before it govern
nothing yet, so a wait field is evaluated and a predicate sampled when the instruction issues (R50, R61). -/
def State.fetchStop (s : State) (g : Group) (l : Launch) (f : Frag) : Fetched → Next
  | .fault va c =>
    .done (s.fetchSleep g l ((g.frag? (lowest f.lanes)).getD f) [(va, c, f.lanes)] (some { pc := f.pc, clause := f.clause, pfx := f.pfx }))
  | .refused => s.wordTrap g f .access (pBase l.image + f.pc)
  | .poison va => s.wordTrap g f .memerr va
  | .word _ => s.wordTrap g f .illegal

/-- How many instruction words may lie from an offset to the clause's end, up to n (R60, R63). A word that cannot be fetched counts:
its fetch ends as it may when the group reaches it (R75). -/
def State.instrWords (core : Nat) (l : Launch) (stop : Nat) : Nat → Nat → State → Nat
  | 0, _, _ => 0
  | n + 1, pc, s =>
    if stop ≤ pc then 0
    else
      match s.fetch core l pc with
      | (.word w, s1) => (if wordKind w = 0 then 1 else 0) + State.instrWords core l stop n (pc + 8) s1
      | (_, s1) => 1 + State.instrWords core l stop n (pc + 8) s1

/-- The extension words after an instruction: their payloads, or the fetch that stops, with its word's offset; none where one is
missing (R48). -/
def State.fetchExts (core : Nat) (l : Launch) (stop : Nat) : Nat → Nat → State → Option (Except (Nat × Fetched) (List Nat)) × State
  | 0, _, s => (some (.ok []), s)
  | n + 1, pc, s =>
    if stop ≤ pc ∨ !l.inCode pc then (none, s)
    else
      match s.fetch core l pc with
      | (.word w, s1) =>
        if wordKind w ≠ 1 then (none, s1)
        else
          match State.fetchExts core l stop n (pc + 8) s1 with
          | (some (.ok xs), s2) => (some (.ok (w % 2 ^ 62 :: xs)), s2)
          | other => other
      | (e, s1) => (some (.error (pc, e)), s1)

/-- The trap enables in the launch's record, as the core's caches and memory hold them now, read where the launch was read (R262, R389, Table 20-1). -/
def State.fpenNow (s : State) (core : Nat) (l : Launch) : Option (BitVec 5) :=
  l.recAt.bind fun va =>
    match (s.translate { vif := l.vif, ctx := l.readCtx, tgt := 0, write := false, quiet := true } (coreTlbs core) (dieOf core) va).1 with
    | .ok key _ => (s.peek core l.vif key 4).map (fun bs => BitVec.ofNat 5 (field (leNat bs) 22 5))
    | _ => none

/-- The instruction of a word and its extension words. One with an empty active set is not checked as an instruction of its own, so its extension
words are not: it changes nothing (R62, Table 3-7). -/
def decodeActive (ver w : Nat) (exts : List Nat) (act : Lanes) : Except DecodeError Instr :=
  match decodeInstr ver w exts with
  | .ok i => .ok i
  | .error e => if act = 0 then decodeFront ver w else .error e

/-- The instruction word at the fragment's pc, with its clause and prefix known (orders 2, 4, 5 and 6 of Table 3-7). -/
def State.atWord (s : State) (g : Group) (l : Launch) (f : Frag) (c : Clause) (w : Nat) : Next :=
  if wordKind w ≠ 0 then s.wordTrap g f .illegal
  else
    match decodeHead l.hdr.version w with
    | .error _ => s.wordTrap g f .illegal
    | .ok n =>
      -- check 5 comes before the extension words (Table 3-7)
      let front := match decodeFront l.hdr.version w with
        | .ok i => l.fits i && (!i.setsFlag || (match i.ctl with | some k => (if k.fsel then c.flagB else c.flagA).isSome | none => false))
        | .error _ => false
      if !front then s.wordTrap g f .illegal
      else
      match State.fetchExts g.core l c.stop n (f.pc + 8) s with
      | (none, s1) => s1.wordTrap g f .illegal
      | (some (.error e), s1) => s1.fetchStop g l { f with pc := e.1 } e.2
      | (some (.ok xs), s1) =>
        let act := match f.pfx with | some p => p.act f.lanes | none => f.lanes
        match decodeActive l.hdr.version w xs act with
        | .error _ => s1.wordTrap g f .illegal
        | .ok i =>
          .run i { s1.setGroup (g.setFrag (lowest f.lanes) f) with
            cur := some { g := g.ref, f := lowest f.lanes, act, pc := f.pc, npc := f.pc + 8 * (n + 1), word := w, exts := xs
                          covered := f.pfx.isSome, flagA := c.flagA, flagB := c.flagB, after := c.stop
                          fpen := s1.fpenNow g.core l
                          was := (g.frag? (lowest f.lanes)).map (fun (z : Frag) => { pc := z.pc, clause := z.clause, pfx := z.pfx }) } }

/-- A prefix at the fragment's pc: its fields and its range, then the first covered instruction, as of whose issue, its own dist clocks past,
the predicate is sampled (R57, R61, R63). -/
def State.atPrefix (s : State) (g : Group) (l : Launch) (f : Frag) (c : Clause) (w : Nat) : Next :=
  match decodePblk w with
  | none => s.wordTrap g f .illegal
  | some p =>
    if State.instrWords g.core l c.stop 63 (f.pc + 8) s < p.len then s.wordTrap g f .illegal
    else
      let f1 := { f with pc := f.pc + 8 }
      match s.fetch g.core l f1.pc with
      | (.word w1, s1) =>
        let m := mkLanes (fun k => xor ((g.elapse (max 1 (field w1 49 3))).readP s.tick 4 p.p.val k) p.inv)
        s1.atWord g l { f1 with pfx := some { mask := m, pattern := p.pattern, len := p.len, pos := 0 } } c w1
      | (e, s1) => s1.fetchStop g l f1 e

/-- The word at a fragment's pc inside a clause. -/
def State.inClause (s : State) (g : Group) (l : Launch) (f : Frag) (c : Clause) : Next :=
  if !l.inCode f.pc then s.wordTrap g f .illegal
  else
    match s.fetch g.core l f.pc with
    | (.word w, s1) =>
      if wordKind w = 2 ∧ f.pfx = none then s1.atPrefix g l f c w else s1.atWord g l f c w
    | (e, s1) => s1.fetchStop g l f e

/-- An entry that is to be issued again counts in a flag (R423, R429). -/
def Group.queued (g : Group) (k : Nat) : Bool := g.frags.any (fun f => f.inject.any (fun e => (e.flag.map (·.val)) == some k))

/-- The word at a fragment's pc between clauses: a header, whose flags must be clear (R49 to R51); none while they are
not. -/
def State.atHeader (s : State) (g : Group) (l : Launch) (f : Frag) : Option Next :=
  if !l.inCode f.pc then some (s.wordTrap g f .illegal)
  else
    match s.fetch g.core l f.pc with
    | (.word w, s1) =>
      match decodeHeader l.hdr.version w with
      | none => some (s1.wordTrap g f .illegal)
      | some h =>
        if (List.range 12).any (fun k => h.wait.testBit k && (g.flag k != 0 || g.queued k)) then none
        else
          let c : Clause := { head := f.pc, stop := f.pc + 8 * (h.count + 1), flagA := h.flagA, flagB := h.flagB, yld := h.yld }
          if f.allStop then
            some (.done (s1.stopHere g f))
          else some (s1.inClause g l { f with pc := f.pc + 8, clause := some c } c)
    | (e, s1) => some (s1.fetchStop g l f e)

/-- The next replay entry of a fragment is issued again (R423, R424): a matrix entry goes back to its quad, an access whose
request is still out waits again for its response, and any other is checked and executes on what it captured. -/
def State.atEntry (s : State) (g : Group) (l : Launch) (f : Frag) (e : Entry) : Next :=
  let lane := lowest f.lanes
  let rest := { f with inject := f.inject.drop 1 }
  let g1 := { g.setFrag lane { rest with last := g.seq } with seq := g.seq + 1, passedCount := 0 }
  if e.bad then .done (s.trapKills g ((f.came.map (·.trap)).getD { cause := .illegal }) f.came)
  else if e.mtx then
    let back := fun (o : TileOp) => if o.g = g.ref ∧ o.seq = e.seq then { o with suspended := false } else o
    let s1 := { s with quads := s.quads.map (fun (q : Quad) => { q with queue := q.queue.map back }) }
    .done ((s1.countIssue g f.lanes e.lanes e.tpc).setGroup (g1.begin { entry := { e with mtx := false }, frag := f.lanes, doing := .quad, counted := false }))
  else
    match e.peer with
    | some id =>
      .done ((s.countIssue g f.lanes e.lanes e.tpc).setGroup
        (g1.begin { entry := { e with peer := none, acq := none }, frag := f.lanes, doing := .response id, acq := e.acq }))
    | none =>
      match decodeActive l.hdr.version e.word e.exts e.lanes with
      | .error _ =>
        if g.trapAhead f then .done s
        else .done ((s.setGroup (g.setFrag lane rest)).takeTrap g.ref lane { cause := .illegal, lanes := e.lanes, tpc := e.tpc })
      | .ok i =>
        .run i { s with
          cur := some { g := g.ref, f := lane, act := e.lanes, pc := e.tpc, npc := f.pc, word := e.word, exts := e.exts
                        covered := false, flagA := none, flagB := none, after := 0, inj := some (e.ops, e.flag)
                        fpen := s.fpenNow g.core l } }

/-- What a fragment would do next; none while it is not eligible (R368, R396). -/
def State.next (s : State) (g : Group) (f : Frag) : Option Next :=
  match s.launch? g.ref.b.launch with
  | none => none
  | some l =>
    if !f.runnable g then none
    else if debugOn s l f ∧ f.inject.isEmpty ∧ (g.dctl.getLsbD 0 ∧ f.stepped) then none
    else
      let n := match f.inject with
        | e :: _ => some (s.atEntry g l f e)
        | [] =>
          match f.clause with
          | some c => some (s.inClause g l f c)
          | none => s.atHeader g l f
      match n with
      | some (.run i s1) =>
        match s1.ctx? with
        | none => none
        | some x =>
          if debugOn s l f ∧ x.c.inj.isNone ∧ (g.bpAt x.c.pc).isSome then none
          else
            match (x.atIssue i).gate s1 i with
            | .wait => none
            | _ => n
      | other => other

/-- A breakpoint register names the instruction word that the fragment is about to issue (R441). -/
def State.bpDue (s : State) (g : Group) (f : Frag) : Option (Nat × State) :=
  match s.launch? g.ref.b.launch with
  | none => none
  | some l =>
    if !f.runnable g ∨ !debugOn s l f ∨ !f.inject.isEmpty then none
    else
      match (match f.clause with | some c => some (s.inClause g l f c) | none => s.atHeader g l f) with
      | some (.run _ s1) =>
        match s1.cur with
        | some c => (g.bpAt c.pc).map (fun k => (k, s1))
        | none => none
      | _ => none

/-- The fragments of a group that are eligible. -/
def State.eligibleFrags (s : State) (g : Group) : List Frag := g.frags.filter (fun f => (s.next g f).isSome)

/-- The fragment that issues: the one that has gone longest without, the lowest lane on a tie (R368). -/
def chooseFrag : List Frag → Option Frag
  | [] => none
  | f :: fs =>
    match chooseFrag fs with
    | none => some f
    | some x => if f.last < x.last ∨ (f.last = x.last ∧ lowest f.lanes < lowest x.lanes) then some f else some x

/-- The groups of a partition that are eligible. -/
def State.eligibleGroups (s : State) (core part : Nat) : List Group :=
  s.groups.filter (fun g => g.core == core && g.part == part && !(s.eligibleFrags g).isEmpty)

/-- One group is older than another (R397). -/
def State.older (s : State) (g h : Group) : Bool :=
  let started := fun (x : Group) => ((s.launch? x.ref.b.launch).map (·.startedAt)).getD 0
  decide (g.age < h.age) ||
  (g.age == h.age && (decide (g.ref.k < h.ref.k) ||
    (g.ref.k == h.ref.k && decide (started g < started h))))

/-- The oldest of a list. -/
def State.oldest (s : State) : List Group → Option Group
  | [] => none
  | g :: gs =>
    match s.oldest gs with
    | none => some g
    | some h => if s.older h g then some h else some g

/-- The group a partition issues for (R397, R412). -/
def State.chooseGroup (s : State) (gs : List Group) : Option Group :=
  let top := (gs.map (·.passedCount)).foldl max 0
  if 64 ≤ top then s.oldest (gs.filter (fun g => g.passedCount == top))
  else
    match s.oldest (gs.filter (fun g => !g.yielded)) with
    | some g => some g
    | none => s.oldest gs

/-- The choice counts against the other eligible groups, and uses up their yields (R397). -/
def State.passOver (s : State) (gs : List Group) (g : Group) : State :=
  { s with groups := s.groups.map (fun (h : Group) =>
      if gs.any (fun y => y.ref == h.ref) then
        (if h.ref = g.ref then { h with yielded := false } else { h with passedCount := h.passedCount + 1, yielded := false })
      else h) }

/-- What a choice comes to, with the passed counts as they stand where it issues nothing: no group has then been passed over (R397). -/
def Next.counted (n : Next) (s : State) (gs : List Group) (g : Group) : Next :=
  let ps := gs.map (fun (h : Group) => (h.ref, h.passedCount, h.yielded))
  match n with
  | .run i t => .run i { t with cur := t.cur.map (fun (c : Cur) => { c with passed := ps }) }
  | .done t => if (t.group? g.ref).any (fun h => h.seq == g.seq) then .done (t.unpass ps (t.unpass ps true == s)) else .done t

/-- A partition's issue: what the chosen fragment does next, after the choice is counted. -/
def State.issue (s : State) (core part : Nat) : Option Next :=
  let gs := s.eligibleGroups core part
  match s.chooseGroup gs with
  | none => none
  | some g =>
    let s1 := s.passOver gs g
    match s1.group? g.ref with
    | none => none
    | some g1 =>
      match chooseFrag (s.eligibleFrags g) with
      | none => none
      | some f => (s1.next g1 f).map (fun (n : Next) => n.counted s gs g)

end Sys2Proof.Machine
end

