-- ==== Sys2Proof/Machine/Transfer.lean ====
section
/-! DEFINITION. What the memory instructions share (07 R153 to R162): the lanes and elements of an access, its checks, where
its bytes lie or what keeps it from them, the requests to peers and to the host, and the conversions of elements. -/

namespace Sys2Proof.Machine

open Sys2Proof

/-- A trap of the completion kind at this instruction is one of these (R414). -/
def Ctx.lateOpt (x : Ctx) (t : Option Trap) : Option Trap := t.map x.late

/-! ### Elements -/

/-- One element of an access: its lane, its place in the lane's run, and its bit address (R155). -/
structure Elem where
  lane : Nat
  j : Nat
  bit : Nat
  deriving DecidableEq, Repr

/-- The index of a lane (R153, R155). -/
def Ctx.idx (x : Ctx) (i : Idx) (l : Nat) : Int :=
  match i with
  | .none => 0
  | .v r => signed 32 (x.v .b r.r.val 0 l).toNat
  | .s r => signed 32 (x.s .b r.val 0).toNat
  | .imm k => signed 32 k.toNat

/-- The lanes that make an access: the lowest active one alone where a register it moves is uniform (R162). -/
def Ctx.accLanes (x : Ctx) (uni : Bool) : List Nat := if uni then [lowest x.act] else lanesOf x.act

/-- The elements of an access, lane by lane (R155). -/
def Ctx.elems (x : Ctx) (p : PtrBits) (i : Idx) (n : Nat) (ls : List Nat) : List Elem :=
  ls.flatMap (fun l => (List.range n).map (fun j => { lane := l, j, bit := elemBit p (x.idx i l + (j : Int)) }))

/-- The first byte of an element and how many it spans. -/
def Elem.byte (e : Elem) : Nat := e.bit / 8
def Elem.bytes (e : Elem) (eb : Nat) : Nat := (e.bit % 8 + eb + 7) / 8

/-- The spaces that LD, ST, ATOM, ATOMF and WAITA take (Table 5-4, step 2). -/
def dataSpace (p : PtrBits) : Bool := pGlobal p || pOwnScratch p || pClScratch p || pPeer p || pHost p

/-- The pointer names another device (R103, R354). -/
def Ctx.remote (x : Ctx) (p : PtrBits) : Bool := pPeer p && pBase p / 2 ^ 45 != x.l.rank

/-- A byte address lies in the window of the core that holds it (R156). -/
def Ctx.inWindow (x : Ctx) (p : PtrBits) (a n : Nat) : Bool :=
  !(pSpace p == 1 || pSpace p == 2) ||
    (decide (a % 2 ^ 21 + n ≤ x.l.window) && (!pLaunchScratch p || decide (pBase p / 2 ^ 21 % 4 < x.b.cores.length)))

/-- The checks of a memory instruction: Table 5-4, alignment, and the window (R156). `accepts` judges the space and the format. -/
def Ctx.memChecks (x : Ctx) (s : State) (p : PtrBits) (accepts writes : Bool) (i : Idx) (n : Nat) : Except Trap Unit :=
  let eb := ebits (pFmt p)
  let at_ := fun (l : Nat) => elemByte p (x.idx i l)
  (x.checkPtr s p (accepts) writes (x.idx i (lowest x.act))).bind fun _ =>
  (x.perLane .bounds x.act (fun l => inBounds p (x.idx i l) n) (fun l => wrap 64 (x.idx i l))).bind fun _ =>
  (x.perLane .align x.act (fun l => decide (eb % 8 ≠ 0) || at_ l % (eb / 8) == 0) at_).bind fun _ =>
  x.perLane .access x.act (fun l => (x.elems p i n [l]).all (fun e => x.inWindow p e.byte (e.bytes eb))) (fun _ => 0)

/-! ### Finding the bytes -/

/-- The bytes of every element. -/
def Ctx.locate (x : Ctx) (p : PtrBits) (write : Bool) (els : List Elem) (s : State) : List (Elem × Found) × State :=
  els.foldl (fun acc e =>
    let q := x.find p write e.byte (e.bytes (ebits (pFmt p))) acc.2
    (acc.1 ++ [(e, q.1)], q.2)) ([], s)

/-- The lanes of the elements that a test accepts. -/
def lanesWhere (fs : List (Elem × Found)) (t : Found → Bool) : Lanes :=
  mkLanes (fun l => fs.any (fun x => x.1.lane == l && t x.2))

/-- Adds lanes to a tag of a sleep. -/
def addTag (tags : List (Nat × Lanes)) (tag lane : Nat) : List (Nat × Lanes) :=
  if tags.any (fun x => x.1 == tag) then tags.map (fun x => if x.1 = tag then (tag, x.2 ||| oneLane lane) else x)
  else tags ++ [(tag, oneLane lane)]

/-- The group sleeps on translation faults: one record for each page, and the instruction stands in the replay queue
(R124). Each fault is a lane, an address and a cause. -/
def Ctx.faultSleep (x : Ctx) (s : State) (i : Instr) (kind : AccKind) (fs : List (Nat × Nat × Nat)) : State × Flow :=
  let one := fun (acc : List (Nat × Lanes) × State) (f : Nat × Nat × Nat) =>
    let q := acc.2.faultRecord { tag := 0, vif := x.l.vif, ctx := x.l.ctx, va := f.2.1, kind, cause := f.2.2, launch := x.l.id
                                 source := x.g.core, die := dieOf x.g.core, block := x.c.g.b.block, time := 0 }
    (addTag acc.1 q.1 f.1, q.2)
  let r := fs.foldl one ([], s)
  let f := { x.f with wait := .fault r.1 0 false 0, inject := x.entry i :: x.f.inject }
  ((r.2.setGroup (x.g.setFrag x.c.f f)).reachPoint x.c.g.b x.c.g.gang, .step)

/-- The operations that a group issued after an instruction go to the replay queue: those on registers, and those that have only
read memory, of the fragments that are awake (R124). -/
def Group.replayLater (g : Group) (seq : Nat) : Group :=
  let back := fun (f : Frag) (p : Pend) => f.wait == .no && decide (seq < p.entry.seq) && p.doing == .ready && (p.regOnly || p.again) && g.owns f p
  let gone := fun (p : Pend) => g.frags.any (fun f => back f p)
  let g1 := (g.pend.filter gone).foldl (fun (h : Group) p => h.countOut p.entry.flag) g
  let mine := fun (f : Frag) => sortBy (fun (a b : Entry) => decide (a.seq ≤ b.seq)) ((g.pend.filter (back f)).map (·.entry))
  { g1 with pend := g1.pend.filter (fun p => !gone p), frags := g1.frags.map (fun f => { f with inject := f.inject ++ mine f }) }

/-- A fragment's sleep ends in a translation fault: it sleeps on the record, its instruction in its replay queue before those that its
group has issued since (R124). -/
def Ctx.refault (x : Ctx) (s : State) (lane va cause : Nat) (e : Entry) : State :=
  let r := s.faultRecord { tag := 0, vif := x.l.vif, ctx := x.l.ctx, va, kind := .read, cause, launch := x.l.id, source := x.g.core
                           die := dieOf x.g.core, block := x.c.g.b.block, time := 0 }
  let f := { x.f with wait := .fault [(r.1, e.lanes)] 0 false va, inject := e :: x.f.inject }
  r.2.setGroup ((x.g.replayLater e.seq).setFrag lane f)

/-- Where the issuing fragment stands, for a precise trap that it takes from its sleep (R120); an entry that runs again stands
nowhere. -/
def Ctx.stand (x : Ctx) : Option FragAt :=
  if x.c.inj.isSome then none else some { pc := x.f.pc, clause := x.f.clause, pfx := x.f.pfx }

/-- A trap of the completion kind of an entry (R414). -/
def Entry.late (e : Entry) (t : Trap) : Trap := { t with prec := false, entry := some e.seq, seq := e.seq }

/-- A fragment's sleep ends in a trap of its instruction, which it takes before it issues again. -/
def Group.sleepTrap (g : Group) (lane : Nat) (f : Frag) (e : Entry) (t : Trap) : Group :=
  let g1 := g.setFrag lane { f with wait := .no, traps := f.traps ++ [e.late t] }
  { g1 with pend := g1.pend ++ [{ entry := { e with flag := none }, frag := f.lanes, doing := .trapping, counted := false }] }

/-- The group issues nothing after the instruction until it has read what it needs (R179); an MLOOP.ad's directory entries are checked at its
issue (R317). -/
def holdsIssue : Instr → Bool
  | .cpyLd .. | .cpySt .. | .cpyrd .. | .mloop .. => true
  | _ => false

/-- An outstanding operation that ends in a trap (R414): before the group's next issue where the instruction holds that back. -/
def Ctx.endsIn (x : Ctx) (s : State) (i : Instr) (t : Trap) : State × Flow :=
  if holdsIssue i then (s.setGroup (x.g.sleepTrap x.c.f x.f (x.entry i) { t with arose := s.tick }), .step)
  else (s.setGroup (x.g.begin { entry := x.entry i, frag := x.f.lanes, trap := some (x.late t) }), .step)

/-- A poisoned sector's trap (R85, Table 23-1). -/
def Ctx.memerr (x : Ctx) (lanes : Lanes) (va : Nat) : Trap := x.trap .memerr lanes (va / 32 * 32)

/-- What keeps an access from its bytes, and where they lie if nothing does: a mismatch traps at once, a fault sleeps, and a
poisoned table entry ends it in MEMERR (R120, R124). What the walks have set in the tables stays. DESIGN CHOICE: where some lanes'
pages have the wrong tgt and others' pages fault, the mismatch traps and no fault record is written. -/
def Ctx.access (x : Ctx) (s : State) (i : Instr) (p : PtrBits) (write : Bool) (kind : AccKind) (els : List Elem)
    (k : List (Elem × List Loc) → State → Except Trap (State × Flow)) : Except Trap (State × Flow) :=
  let q := x.locate p write els s
  let mis := lanesWhere q.1 (fun f => f == .mismatch)
  let faults := q.1.filterMap (fun e => match e.2 with | .fault va c => some (e.1.lane, va, c) | _ => none)
  let bad := lanesWhere q.1 (fun f => match f with | .poison _ => true | _ => false)
  if mis ≠ 0 then .ok (x.fail q.2 (x.trap .access mis), .trapped)
  else if !faults.isEmpty then .ok (x.faultSleep q.2 i kind faults)
  else if bad ≠ 0 then
    let va := ((q.1.find? (fun e => e.1.lane == lowest bad)).map (fun e => e.1.byte)).getD 0
    .ok (x.endsIn q.2 i (x.memerr bad va))
  else k (q.1.filterMap (fun e => match e.2 with | .at_ ls => some (e.1, ls) | _ => none)) q.2

/-! ### Requests that leave the package (R162, R353, R355) -/

/-- How many bytes an access names. -/
def opBytes : PeerOp → Nat
  | .load n => n
  | .store bs => bs.length
  | .bits .. => 1
  | .atom _ w _ _ _ => w / 8
  | .atomf .. => 4
  | .tileAdd .. => 0
  | .poison => 1

/-- The access touches a byte. -/
def touches (a : PeerAcc) (k : Nat) : Bool := decide (a.va ≤ k) && decide (k < a.va + opBytes a.op)

/-- A write of the group to the host has not been answered that it made before its instruction `seq` and that touches one of some bytes, by
their keys: accesses to the same bytes are performed in issue order (R158, R209). -/
def State.hostWriteAhead (s : State) (g : GRef) (seq : Nat) (keys : List Nat) : Bool :=
  s.requests.any (fun r => r.host && r.answer.isNone && r.g == g && decide (r.seq < seq) && !r.isLoad &&
    r.accs.any (fun a => keys.any (touches a)))

/-- The host bridge refuses an access by ATS: its choice, where it translates for the interface (R448). -/
def State.atsRefuses (s : State) (vif : Nat) (p : PtrBits) : Bool :=
  pHost p && (s.vif vif).ats && Config.free s.tick (2 ^ 48 + pBase p) % 2 == 1

/-- The access waits for a response. -/
def Ctx.await (x : Ctx) (s : State) (i : Instr) (host : Bool) (rank : Nat) (accs : List PeerAcc) (watch : Option Nat) :
    State × Flow :=
  let id := s.serial
  let r : Request := { id, g := x.c.g, seq := x.g.seq, rank, at_ := s.time, host, key := if host then 0 else x.l.key, accs }
  let p : Pend := { entry := x.entry i, frag := x.f.lanes, doing := .response id, watch, acq := x.acquires i }
  let out := if host then [] else [Sent.peer id rank x.l.key accs]
  (({ s with serial := id + 1, requests := s.requests ++ [r], sent := s.sent ++ out }).setGroup (x.g.begin p), .step)

/-- A peer access: with no working port it traps FABRIC (R349). -/
def Ctx.sendPeer (x : Ctx) (s : State) (i : Instr) (p : PtrBits) (accs : List PeerAcc) : State × Flow :=
  let rank := pBase p / 2 ^ 45
  if 12 ≤ s.portsFailed.length then x.endsIn s i { x.trap .fabric x.act with rank }
  else x.await s i false rank accs none

/-! ### Conversions (Tables 7-4, R160, R161) -/

/-- A signed integer format. -/
def fmtSigned (fmt : Nat) : Bool := fmt == 1 || fmt == 3 || fmt == 5 || fmt == 7

/-- The floating format of a code. -/
def fmtFloat (fmt : Nat) : FloatFmt :=
  match fmt with
  | 0x08 => fp16 | 0x09 => bf16 | 0x0A => fp32 | 0x0B => fp64 | 0x0C => fpE4m3 | _ => fpE5m2

/-- What LD makes of an element (R160, R161). -/
def ldValue (fmt : Nat) (raw : Bool) (x : Nat) : Nat :=
  if raw then x
  else
    match fmt with
    | 0x01 => wrap 32 (signed 8 x)
    | 0x03 => wrap 32 (signed 16 x)
    | 0x08 | 0x09 | 0x0C | 0x0D => cvt (.flt fp32) (.flt (fmtFloat fmt)) .rne true false x
    | 0x20 => if x = 255 then fp32.nanBits else (fp32.round .rne false false false 1 ((x : Int) - 127)).bits
    | _ => x

/-- What ST makes of a register value (R160, R161). -/
def stValue (fmt : Nat) (raw nosat flush : Bool) (x : Nat) : Nat :=
  if raw then x % 2 ^ ebits fmt
  else
    match fmt with
    | 0x00 | 0x01 | 0x02 | 0x03 =>
      let s := fmtSigned fmt
      cvtInt s (ebits fmt) nosat (if s then signed 32 x else (x % 2 ^ 32 : Nat))
    | 0x08 | 0x09 | 0x0C | 0x0D => cvt (.flt (fmtFloat fmt)) (.flt fp32) .rne nosat flush x
    | _ => x % 2 ^ ebits fmt

/-- An element out of its bytes. -/
def Elem.value (e : Elem) (eb : Nat) (bs : List Byte) : Nat := leNat bs / 2 ^ (e.bit % 8) % 2 ^ eb

/-- The registers a load writes: `vals` are the elements' values in order. -/
def Ctx.ldRes (x : Ctx) (d : Reg) (w n : Nat) (els : List Elem) (vals : List Nat) : List Res :=
  let at_ := fun (l j : Nat) => ((els.zip vals).findSome? (fun y => if y.1.lane = l ∧ y.1.j = j then some y.2 else none)).getD 0
  (List.range (n * w)).map (fun k =>
    match d with
    | .v r => .v (r.val + k) x.act (mkRow (fun l => if x.act.getLsbD l then wordAt (at_ l (k / w)) (k % w) else 0))
    | .s r => .s (r.val + k) (wordAt (at_ (lowest x.act) (k / w)) (k % w)))

/-- A value operand's element in a lane. -/
def Ctx.stReg (x : Ctx) (f : Fld) (v : Src) (w j l : Nat) : Nat :=
  if w = 2 then pairVal (x.src f v (2 * j) l) (x.src f v (2 * j + 1) l) else (x.src f v j l).toNat

/-! ### Watchpoints (R441, R443) -/

/-- The lowest watched byte that an access touches. -/
def Ctx.watched (x : Ctx) (s : State) (p : PtrBits) (ld st : Bool) (els : List Elem) : Option Nat :=
  let eb := ebits (pFmt p)
  let hit := fun (a : Nat) => [0, 1].any (fun k =>
    let c := (sgetD x.g.wctl k 0).toNat
    let w := (sgetD x.g.wadr k 0).toNat
    ((ld && c.testBit 0) || (st && c.testBit 1)) && decide (w ≤ a) && decide (a < w + c / 65536 + 1))
  let bytes := els.flatMap (fun e => (List.range (e.bytes eb)).map (fun k => e.byte + k))
  let hits := bytes.filter hit
  if !(pGlobal p || pHost p) ∨ !debugOn s x.l x.f then none
  else
    match hits with
    | [] => none
    | a :: as => some (as.foldl min a)

/-! ### Reading and writing what was found -/

/-- The data of single bytes, gathered element by element. -/
def regroup : List Nat → List (Option (List Byte)) → List (Option (List Byte))
  | [], _ => []
  | n :: ns, ds =>
    let mine := ds.take n
    (if mine.all (·.isSome) then some (mine.flatMap (fun d => d.getD [])) else none) :: regroup ns (ds.drop n)

/-- Reads the elements: their bytes, none where a sector is poison. -/
def State.readElems (s : State) (w : Via) (ls : List (Elem × List Loc)) : List (Option (List Byte)) × State :=
  let r := s.readEach w (ls.flatMap (·.2))
  (regroup (ls.map (fun x => x.2.length)) (r.1.map (fun b => b.map (fun y => [y]))), r.2)

/-- Bytes written at the home of the path's end, whatever the scope, and the copies on the core's path brought up to date (R207,
R209). -/
def State.hostStore (s : State) (w : Via) (k : Nat) (bs : List Byte) : State :=
  (sectorRuns k bs.length).foldl (fun t x =>
    t.storeAt w ((corePath w.core x.1).length - 1) x.1 (x.2.map (fun o => (o, bs.getD (32 * x.1 + o - k) 0)))) s

/-- The bits of an element at its bytes: each byte's mask and value. -/
def Elem.bits (e : Elem) (eb v : Nat) (ls : List Loc) : BitsAt Loc :=
  let sh := e.bit % 8
  let mask := (2 ^ eb - 1) * 2 ^ sh
  let val := v % 2 ^ eb * 2 ^ sh
  ls.zip ((List.range ls.length).map (fun k => (mask / 2 ^ (8 * k) % 256, val / 2 ^ (8 * k) % 256)))

/-- Writes elements, each bit once: that of the highest lane that names it; the other bits of a byte stay (R148). -/
def State.writeElems (s : State) (w : Via) (eb : Nat) (ls : List (Elem × List Loc × Nat)) : State :=
  s.writeBits w (ls.flatMap (fun x => x.1.bits eb x.2.2 x.2.1))

/-- The ordering work of an access outside cached memory: a synchronising one does the cache work of its scope (R207). -/
def Ctx.acquireIf (x : Ctx) (p : PtrBits) (sync : Bool) (s : State) : State :=
  if sync then s.acquire x.g.core (pScope p) else s
def Ctx.releaseIf (x : Ctx) (p : PtrBits) (sync : Bool) (s : State) : State :=
  if sync then s.release x.g.core (pScope p) else s

end Sys2Proof.Machine
end

