-- ==== Sys2Proof/Machine/MemInstr.lean ====
section
/-! DEFINITION. The memory instructions (07 R160 to R171, 06 R133, R134, R141, R142): LD, ST, ATOM, ATOMF, WAITA, PREF, CMO
and LOCQ, and what a response brings to an access that left the package. -/

namespace Sys2Proof.Machine

open Sys2Proof

/-- The format may be loaded, and stored (R156). -/
def ldFmt (fmt : Nat) (raw : Bool) : Bool := raw || !isBfp fmt
def stFmt (fmt : Nat) (raw : Bool) : Bool := raw || !(isBfp fmt || fmt == 0x20)

/-- A register operand is uniform. -/
def Reg.uni : Reg → Bool
  | .s _ => true
  | .v _ => false
def Src.uni : Src → Bool
  | .s _ => true
  | .v .. => false

/-! ### Miss-status entries (R151) -/

/-- The miss-status entries of a core that fill, of its misses the first 512. -/
def State.missesOf (s : State) (core : Nat) : List Miss := (s.mshrs.filter (fun m => m.core == core)).take 512

/-- The sectors of located bytes that a core's L1 lacks. -/
def State.missing (s : State) (core : Nat) (ls : List Loc) : List Nat :=
  let c := s.cache (.l1 core)
  ((ls.filterMap (fun l => match l with
    | .mem k => if c.poisoned (k / 32) || c.valid (k / 32) (k % 32) then none else some (k / 32)
    | _ => none))).eraseDups

/-- The lines of sectors for which no entry is outstanding find one free. -/
def State.missRoom (s : State) (core : Nat) (secs : List Nat) : Bool :=
  let mine := s.mshrs.filter (fun m => m.core == core)
  let new := (((secs.map (· / 2)).eraseDups).filter (fun k => mine.all (fun m => m.line != k)))
  new.isEmpty || decide (mine.length + new.length ≤ 512)

/-- A request joins its line's entry, or takes one of its own, behind those that wait (R150, R151). `fills` says that the entry's fill
brings the sector: none of a .na load, nor of a load that waits for the host, does. -/
def State.takeMiss (s : State) (core vif sec : Nat) (fills : Bool := true) : State :=
  match s.mshrs.find? (fun m => m.core == core && m.vif == vif && m.line == sec / 2) with
  | some m => { s with mshrs := s.mshrs.map (fun x => if x = m then { m with secs := if !fills || m.secs.contains sec then m.secs else m.secs ++ [sec] } else x) }
  | none => { s with mshrs := s.mshrs ++ [{ core, vif, line := sec / 2, secs := if fills then [sec] else [] }] }
def State.takeMisses (s : State) (core vif : Nat) (secs : List Nat) (fills : Bool := true) : State :=
  secs.foldl (fun (t : State) sec => t.takeMiss core vif sec fills) s

/-- The sectors that an access performed at a scope's point brings to the L1: those of a core-scope access, whose point it is (R128). -/
def State.missingAt (s : State) (core : Nat) (p : PtrBits) (ls : List Loc) : List Nat :=
  if pScope p = 0 ∧ pGlobal p then s.missing core ls else []

/-! ### LD -/

/-- The elements of an LD. -/
def Ctx.ldElems (x : Ctx) (n : Cnt) (d : Reg) (p : AReg) (i : Idx) : List Elem :=
  x.elems (x.a .a p.val) i n.elems (x.accLanes (Reg.uni d))

/-- What an LD's data come to: its results, or MEMERR of the lanes whose data are poison (R85). -/
def Ctx.ldEnd (x : Ctx) (n : Cnt) (raw : Bool) (d : Reg) (p : AReg) (i : Idx) (data : List (Option (List Byte))) :
    List Res × Option Trap :=
  let ptr := x.a .a p.val
  let fmt := pFmt ptr
  let els := x.ldElems n d p i
  let bad := mkLanes (fun l => (els.zip data).any (fun y => y.1.lane == l && y.2.isNone))
  if bad ≠ 0 then
    let va := (((els.zip data).find? (fun y => y.2.isNone)).map (fun y => y.1.byte)).getD 0
    ([], some (x.memerr bad va))
  else (x.ldRes d (fmtRegs fmt) n.elems els ((els.zip data).map (fun y => ldValue fmt raw (y.1.value (ebits fmt) (y.2.getD [])))), none)

/-- LD's effect (R162): the memory is read at issue, and the registers are written at completion. -/
def ldBody (c : Ctl) (n : Cnt) (raw : Bool) (h : Hint) (d : Reg) (p : AReg) (i : Idx) : Body := fun x s =>
  let me := Instr.ld c n raw h d p i
  let ptr := x.a .a p.val
  let eb := ebits (pFmt ptr)
  (x.memChecks s ptr (dataSpace ptr && ldFmt (pFmt ptr) raw) false i n.elems).bind fun _ =>
  let els := x.ldElems n d p i
  if x.remote ptr then
    .ok (x.sendPeer s me ptr (els.map (fun e => { va := e.byte % 2 ^ 45, op := .load (e.bytes eb) })))
  else
    x.access s me ptr false .read els fun ls s1 =>
      let watch := x.watched s ptr true false els
      let need := s1.missing x.g.core (ls.flatMap (·.2))
      -- with no free miss-status entry the load waits, and is issued again (R151)
      if !s1.missRoom x.g.core need then .ok (s1, .held)
      else
        let s2 := s1.takeMisses x.g.core x.l.vif need (h != .na && !pHost ptr)
        if pHost ptr then
          let one := fun (y : Elem × List Loc) => y.2.filterMap (fun l => match l with
            | .mem k => some { va := k, op := PeerOp.load 1 }
            | _ => none)
          .ok (x.await s2 me true 0 (ls.flatMap one) watch)
        else
          let q := s2.readElems (x.via ptr (h == .na)) ls
          let s3 := x.acquireIf ptr (pClass ptr == 2 && !pGlobal ptr) q.2
          let r := x.ldEnd n raw d p i q.1
          -- a load that has begun its access counts no longer; the device may let one that has not go to the replay queue (R415)
          let waits := Config.free s.tick (2 ^ 21) % 2 == 1
          .ok (s3.setGroup (x.g.begin { entry := x.entry me, frag := x.f.lanes, res := r.1, trap := x.lateOpt r.2, watch
                                        again := waits, counted := waits || r.2.isSome || watch.isSome }), .step)

/-- LD (R160 to R162). -/
def execLd (c : Ctl) (n : Cnt) (raw : Bool) (h : Hint) (d : Reg) (p : AReg) (i : Idx) (s : State) :
    Host.Outcome State Fault Refusal := s.run (.ld c n raw h d p i) (ldBody c n raw h d p i)

/-! ### ST -/

/-- A store's elements with the value each takes. -/
def Ctx.stVals (x : Ctx) (n : Cnt) (raw nosat : Bool) (p : AReg) (i : Idx) (v : Src) : List (Elem × Nat) :=
  let ptr := x.a .a p.val
  let fmt := pFmt ptr
  (x.elems ptr i n.elems (x.accLanes (Src.uni v))).map (fun e =>
    (e, stValue fmt raw nosat x.l.flush (x.stReg i.valFld v (fmtRegs fmt) e.j e.lane)))

/-- An operation that has done all it does, but for a watchpoint that it touched (R443). -/
def Ctx.watchEnd (x : Ctx) (s : State) (i : Instr) (watch : Option Nat) : State × Flow :=
  match watch with
  | none => (s, .step)
  | some a => (s.setGroup (x.g.begin { entry := x.entry i, frag := x.f.lanes, watch := some a }), .step)

/-- The parts of an element that lie in its bytes: the byte's place, the lowest bit, the number of bits, the value. -/
def Elem.parts (e : Elem) (eb v : Nat) : List (Nat × Nat × Nat × Nat) :=
  let sh := e.bit % 8
  let n := min eb (8 - sh)
  (0, sh, n, v % 2 ^ n) :: (if n < eb then [(1, 0, eb - n, v / 2 ^ n)] else [])

/-- The stores of one element as they go out; `at_` gives the address of each of its bytes. -/
def Elem.stAccs (e : Elem) (eb v : Nat) (at_ : Nat → Nat) : List PeerAcc :=
  if eb % 8 = 0 then ((List.range (eb / 8)).zip (leBytes (eb / 8) v)).map (fun y => { va := at_ y.1, op := .store [y.2] })
  else (e.parts eb v).map (fun y => { va := at_ y.1, op := .bits y.2.1 y.2.2.1 y.2.2.2 })

/-- ST's effect (R162). -/
def stBody (c : Ctl) (n : Cnt) (raw nosat : Bool) (h : Hint) (p : AReg) (i : Idx) (v : Src) : Body := fun x s =>
  let me := Instr.st c n raw nosat h p i v
  let ptr := x.a .a p.val
  let eb := ebits (pFmt ptr)
  let sync := pClass ptr == 2
  (x.memChecks s ptr (dataSpace ptr && stFmt (pFmt ptr) raw) true i n.elems).bind fun _ =>
  let vs := x.stVals n raw nosat p i v
  let els := vs.map (·.1)
  if x.remote ptr then 
    let one := fun (y : Elem × Nat) =>
      if eb % 8 = 0 then [{ va := y.1.byte % 2 ^ 45, op := PeerOp.store (leBytes (eb / 8) y.2) }]
      else y.1.stAccs eb y.2 (fun k => (y.1.byte + k) % 2 ^ 45)
    .ok (x.sendPeer (x.releaseIf ptr sync s) me ptr (vs.flatMap one))
  else
    x.access s me ptr true .write els fun ls s1 =>
      let watch := x.watched s ptr false true els
      let s2 := x.releaseIf ptr sync s1
      let all := (ls.zip vs).map (fun y => (y.1.1, y.1.2, y.2.2))
      if pHost ptr then
        let key := fun (ls : List Loc) (k : Nat) => match ls[k]? with | some (.mem a) => a | _ => 0
        let one := fun (y : Elem × List Loc × Nat) => y.1.stAccs eb y.2.2 (key y.2.1)
        .ok (x.await s2 me true 0 (all.flatMap one) watch)
      else .ok (x.watchEnd (s2.writeElems (x.via ptr (h == .na)) eb all) me watch)

/-- ST (R160 to R162). -/
def execSt (c : Ctl) (n : Cnt) (raw nosat : Bool) (h : Hint) (p : AReg) (i : Idx) (v : Src) (s : State) :
    Host.Outcome State Fault Refusal := s.run (.st c n raw nosat h p i v) (stBody c n raw nosat h p i v)

/-! ### ATOM and ATOMF -/

/-- The new value of an ATOM of width w (Table 7-5); none where .cas does not write. -/
def atomNew (op : AtomOp) (w : Nat) (sgn : Bool) (old v n : Nat) : Option Nat :=
  match op with
  | .add => some ((old + v) % 2 ^ w)
  | .sub => some (wrap w ((old : Int) - v))
  | .min => some (aluMin w (!sgn) old v)
  | .max => some (aluMax w (!sgn) old v)
  | .and => some (old &&& v)
  | .or => some (old ||| v)
  | .xor => some (old ^^^ v)
  | .xchg => some v
  | .cas => if old = v then some n else none
  | .incw => some (if v ≤ old then 0 else old + 1)

/-- The new value of an ATOMF (R166). -/
def atomfNew (op : AtomfOp) (flush : Bool) (old v : Nat) : Nat :=
  match op with
  | .add => let r := (fp32.add .rne flush false old v).bits; if fp32.isNan r then fp32.nanBits else r
  | .min => (fp32.minMax flush false old v).bits
  | .max => (fp32.minMax flush true old v).bits

/-- Reads located bytes at the point of a scope, with no acquire (R170). -/
def State.pointRead (s : State) (w : Via) (ls : List Loc) : Option (List Byte) × State :=
  ls.foldl (fun acc l =>
    match acc.1, l with
    | none, _ => acc
    | some bs, .mem k =>
      let path := corePath w.core (k / 32)
      let n := innerCount w.scope path
      let r := State.readLevel (path.drop n) w.vif (k / 32) [k % 32] ((State.pushN n path (k / 32) acc.2).passes (path.take n) (k / 32))
      (if r.1.2 then none else some (bs ++ [r.1.1.getD (k % 32) 0]), r.2)
    | some bs, other =>
      let r := acc.2.readLocs w [other]
      (r.1.map (fun y => bs ++ y), r.2)) (some [], s)

/-- A test's condition on the word it read (R170, R188). -/
def Test.holds (t : Test) (m : Nat) : Bool :=
  if t.all then m &&& t.mask.toNat == t.mask.toNat
  else
    match t.cmp with
    | .eq => m == t.v.toNat
    | .ne => m != t.v.toNat
    | .ge => decide (cmpRead 32 (pFmt t.ptr != 5) t.v.toNat ≤ cmpRead 32 (pFmt t.ptr != 5) m)
    | .nem => (m ^^^ t.v.toNat) &&& t.mask.toNat != 0

/-- The word that a fragment of an evicted block waits for, of device memory or of a window, satisfies its test as it stands. -/
def State.testHolds (s : State) (g : Group) (f : Frag) : Bool :=
  match f.wait with
  | .test t =>
    match s.entryCtx g f t.entry with
    | none => false
    | some x =>
      t.req.isNone && !f.stopped && !x.remote t.ptr && !pHost t.ptr &&
        (match (x.find t.ptr false (elemByte t.ptr t.idx) 4 s (some t.spot)).1 with
        | .at_ ls => (match (s.pointRead (x.via t.ptr) ls).1 with | some bs => t.holds (leNat bs) | none => false)
        | _ => false)
  | _ => false

/-- A write has been performed: the command processor makes the tests of the evicted blocks' WAITAs and CWAITs at it, and a block whose test
holds is ready (R192, R404). -/
def State.wakeWritten (s : State) : State :=
  { s with blocks := s.blocks.map (fun (b : Block) =>
      if b.place == .evicted false && b.saved.any (fun g => g.frags.any (s.testHolds g)) then { b with place := .evicted true } else b) }

/-- One lane's update, where its word lies (R163): the old value, none where the word is poison. -/
def State.updateWord (s : State) (w : Via) (ls : List Loc) (new : Nat → Option Nat) : Option Nat × State :=
  let n := ls.length
  match ls with
  | .mem k :: _ =>
    let r := s.updateSector w (k / 32) (k % 32) n (fun bs => (new (leNat bs)).map (leBytes n))
    (r.1.map leNat, r.2)
  | _ =>
    let r := s.readLocs w ls
    match r.1 with
    | none => (none, r.2)
    | some bs =>
      let s1 := r.2.unown ((ls.filterMap (fun l => match l with | .home k => some (k / 4) | _ => none)).eraseDups)
      match new (leNat bs) with
      | none => (some (leNat bs), s1)
      | some y => (some (leNat bs), s1.writeLocs w (ls.zip (leBytes n y)))

/-- The lanes one after another, up to the first whose word is poison: the old values of the lanes performed, and the rest
(R164). -/
def State.updateLanes (s : State) (w : Via) (new : Nat → Nat → Option Nat) :
    List (Elem × List Loc) → List (Nat × Nat) × List Elem × State
  | [] => ([], [], s)
  | y :: ys =>
    match s.updateWord w y.2 (new y.1.lane) with
    | (none, s1) => ([], y.1 :: ys.map (·.1), s1)
    | (some o, s1) =>
      let r := State.updateLanes s1.wakeWritten w new ys
      ((y.1.lane, o) :: r.1, r.2.1, r.2.2)

/-- The old values as results: in the lanes performed; a uniform destination takes the last (R164). -/
def atomRes (d : Option Reg) (w : Nat) (olds : List (Nat × Nat)) : List Res :=
  let at_ := fun (l : Nat) => ((olds.find? (fun y => y.1 == l)).map (·.2)).getD 0
  let done := mkLanes (fun l => olds.any (fun y => y.1 == l))
  match d with
  | none => []
  | some (.v r) => (List.range w).map (fun k => .v (r.val + k) done (mkRow (fun l => wordAt (at_ l) k)))
  | some (.s r) =>
    match olds.getLast? with
    | none => []
    | some y => (List.range w).map (fun k => .s (r.val + k) (wordAt y.2 k))

/-- How an atomic ends: the trap of a poisoned word leaves its lane and the higher ones in the entry (R164). `watch` is the watched byte that
some elements touch. -/
def Ctx.atomEnd (x : Ctx) (s : State) (i : Instr) (d : Option Reg) (w : Nat) (olds : List (Nat × Nat)) (els rest : List Elem)
    (watch : List Elem → Option Nat) : State × Flow :=
  let res := atomRes d w olds
  match rest with
  | [] =>
    if d.isNone then x.watchEnd s i (watch els)
    else (s.setGroup (x.g.begin { entry := x.entry i, frag := x.f.lanes, res, watch := watch els }), .step)
  | e :: _ =>
    let left := mkLanes (fun l => rest.any (fun y => y.lane == l))
    let entry := { x.entry i with lanes := left }
    (s.setGroup (x.g.begin { entry, frag := x.f.lanes, res, trap := some (x.late (x.memerr (oneLane e.lane) e.byte))
                             watch := watch (els.filter (fun y => !left.getLsbD y.lane)), hit := x.act &&& ~~~left }), .step)

/-- The value operand of an atomic in a lane, and for .cas the new value behind it. -/
def Ctx.atomVal (x : Ctx) (i : Idx) (v : Src) (w l : Nat) : Nat × Nat :=
  (x.stReg i.valFld v w 0 l, x.stReg i.valFld v w 1 l)

/-- The common course of ATOM and ATOMF: `out` is the request of one element to a peer or the host. -/
def Ctx.atomic (x : Ctx) (s : State) (me : Instr) (ptr : PtrBits) (i : Idx) (d : Option Reg) (sync : Bool)
    (new : Nat → Nat → Option Nat) (out : Nat → PeerOp) : Except Trap (State × Flow) :=
  let els := x.elems ptr i 1 (lanesOf x.act)
  if x.remote ptr then
    .ok (x.sendPeer (x.releaseIf ptr sync s) me ptr (els.map (fun e => { va := e.byte % 2 ^ 45, op := out e.lane })))
  else
    x.access s me ptr true .atomic els fun ls s1 =>
      let watch := x.watched s ptr true true
      let need := s1.missingAt x.g.core ptr (ls.flatMap (·.2))
      if !s1.missRoom x.g.core need then .ok (s1, .held)
      else
        let s2 := x.releaseIf ptr sync (s1.takeMisses x.g.core x.l.vif need)
        if pHost ptr then
          let one := fun (y : Elem × List Loc) => match y.2 with
            | .mem k :: _ => [{ va := k, op := out y.1.lane }]
            | _ => []
          .ok (x.await s2 me true 0 (ls.flatMap one) (watch els))
        else
          let r := s2.updateLanes (x.via ptr) new ls
          .ok (x.atomEnd (x.acquireIf ptr sync r.2.2) me d (fmtRegs (pFmt ptr)) r.1 els r.2.1 watch)

/-- ATOM's effect (R163 to R165): an acquire and a release at its scope. -/
def atomBody (c : Ctl) (op : AtomOp) (d : Option Reg) (p : AReg) (i : Idx) (v : Src) : Body := fun x s =>
  let ptr := x.a .a p.val
  let fmt := pFmt ptr
  let sg := fmtSigned fmt
  let val := fun l => x.atomVal i v (fmtRegs fmt) l
  (x.memChecks s ptr (dataSpace ptr && (fmt == 4 || fmt == 5 || fmt == 6 || fmt == 7)) true i 1).bind fun _ =>
  x.atomic s (.atom c op d p i v) ptr i d true
    (fun l old => atomNew op (ebits fmt) sg old (val l).1 (val l).2)
    (fun l => .atom op (ebits fmt) (val l).1 (val l).2 sg)

/-- ATOM (R163 to R165). -/
def execAtom (c : Ctl) (op : AtomOp) (d : Option Reg) (p : AReg) (i : Idx) (v : Src) (s : State) :
    Host.Outcome State Fault Refusal := s.run (.atom c op d p i v) (atomBody c op d p i v)

/-- The bytes of the launch's log area (R168). -/
def Launch.logArea (l : Launch) : Nat := if pValid l.logPtr then pLen l.logPtr else 0

/-- The entries of a block's log on its core. -/
def Block.logHeld (b : Block) : Nat := (b.log.filter (fun e => !e.spilled)).length

/-- A buffered ATOMF writes its entries, in the lanes' order; the ones beyond 512 spill (R167, R168). -/
def Ctx.logAtomf (x : Ctx) (s : State) (op : AtomfOp) (val : Nat → Nat) (ls : List (Elem × List Loc)) : State :=
  let room := 512 - x.b.logHeld
  let one := fun (k : Nat) => match ls[k]? with
    | some (e, .mem key :: _) =>
      [{ thread := x.g.threadAt e.lane, seq := s.tick, pa := key, va := e.byte, op, v := BitVec.ofNat 32 (val e.lane)
         spilled := decide (room ≤ k) }]
    | _ => []
  match s.block? x.c.g.b, s.launch? x.c.g.b.launch with
  | some b, some l =>
    (s.setBlock { b with log := b.log ++ (List.range ls.length).flatMap one }).setLaunch
      { l with logUsed := l.logUsed + 16 * (ls.length - room) }
  | _, _ => s

/-- ATOMF's effect (R166 to R168): in ordered mode a non-returning one to global or host memory is buffered. One that finds
no room traps ATOMLOG with nothing written, and stands in the frame as an entry, which a handler may skip. -/
def atomfBody (c : Ctl) (op : AtomfOp) (d : Option Reg) (p : AReg) (i : Idx) (v : Src) : Body := fun x s =>
  let me := Instr.atomf c op d p i v
  let ptr := x.a .a p.val
  let val := fun l => (x.atomVal i v 1 l).1
  (x.memChecks s ptr (dataSpace ptr && pFmt ptr == 0x0A) true i 1).bind fun _ =>
  if x.l.ord ∧ d = none ∧ (pGlobal ptr ∨ pHost ptr) then
    x.access s me ptr true .atomic (x.elems ptr i 1 (lanesOf x.act)) fun ls s1 =>
      if s1.atsRefuses x.l.vif ptr then .ok (x.endsIn s1 me (x.trap .access x.act (pBase ptr)))
      else if x.l.logArea < x.l.logUsed + 16 * (ls.length - (512 - x.b.logHeld)) then
        let f := if x.c.inj.isSome then x.f else x.f.advance x.c.npc
        let mine := if x.c.inj.isSome then [] else [x.entry me]
        .ok ((s1.setGroup (x.g.setFrag x.c.f f)).takeTrap x.c.g x.c.f (x.trap .atomlog x.act) mine, .resumed)
      else .ok (x.logAtomf s1 op val ls, .step)
  else
    x.atomic s me ptr i d false (fun l old => some (atomfNew op x.l.flush old (val l)))
      (fun l => .atomf op (BitVec.ofNat 32 (val l)) x.l.flush)

/-- ATOMF (R166 to R168). -/
def execAtomf (c : Ctl) (op : AtomfOp) (d : Option Reg) (p : AReg) (i : Idx) (v : Src) (s : State) :
    Host.Outcome State Fault Refusal := s.run (.atomf c op d p i v) (atomfBody c op d p i v)

/-! ### What a response brings -/

/-- What the data of a performed request come to for its instruction: its results and the trap of poison (Table 16-4). -/
def Ctx.answer (x : Ctx) (i : Instr) (host : Bool) (data : List (Option (List Byte))) : List Res × Option Trap :=
  match i with
  | .ld _ n raw _ d p ix =>
    let eb := ebits (pFmt (x.a .a p.val))
    x.ldEnd n raw d p ix (if host then regroup ((x.ldElems n d p ix).map (fun e => e.bytes eb)) data else data)
  | .atom _ _ d p ix _ | .atomf _ _ d p ix _ =>
    let ptr := x.a .a p.val
    let els := (x.elems ptr ix 1 (lanesOf x.act)).zip data
    let done := els.takeWhile (fun y => y.2.isSome)
    let res := atomRes d (fmtRegs (pFmt ptr)) (done.map (fun y => (y.1.lane, leNat (y.2.getD []))))
    match els.drop done.length with
    | [] => (res, none)
    | y :: _ => (res, some (x.memerr (oneLane y.1.lane) y.1.byte))
  | _ => ([], none)

/-! ### WAITA (R169, R170, R356) -/

/-- WAITA's effect: the fragment sleeps; every test, the first too, is an event of its own. DESIGN CHOICE: a sibling that reads the
destination before the wait has ended reads the old value in every lane, of the two that R222 allows; so it is with CWAIT, DEQ and CJOIN. -/
def waitaBody (c : Ctl) (cmp : WaitCmp) (d : PReg) (p : AReg) (i : Idx) (v : SReg) (timeout : Word) : Body := fun x s =>
  let me := Instr.waita c cmp d p i v timeout
  let ptr := x.a .a p.val
  (x.memChecks s ptr (dataSpace ptr && (pFmt ptr == 4 || pFmt ptr == 5)) false i 1).bind fun _ =>
  let t : Test :=
    { ptr, idx := x.idx i (lowest x.act), cmp, all := false, spot := spotOf x.b x.g.core ptr, v := x.s i.valFld v.val 0
      mask := if cmp = .nem then x.s i.valFld v.val 1 else 0
      t0 := s.time, timeout := timeout.toNat, lastTest := s.time, d, act := x.act, entry := x.entry me, stand := x.stand }
  .ok ((s.setGroup (x.g.setFrag x.c.f { x.f with wait := .test t })).reachPoint x.c.g.b x.c.g.gang, .step)

/-- WAITA (R169, R170). -/
def execWaita (c : Ctl) (cmp : WaitCmp) (d : PReg) (p : AReg) (i : Idx) (v : SReg) (timeout : Word) (s : State) :
    Host.Outcome State Fault Refusal := s.run (.waita c cmp d p i v timeout) (waitaBody c cmp d p i v timeout)

/-- A fragment's sleep ends in a precise trap, at the word of its instruction (R120). -/
def Group.sleepStop (g : Group) (lane : Nat) (f : Frag) (e : Entry) (stand : Option FragAt) (t : Trap) : Group :=
  g.setFrag lane { f with wait := .no, traps := f.traps ++ [{ t with seq := e.seq, at_ := stand }] }

/-- A test ends its wait: the predicate is written and the fragment goes on (R170, R188). -/
def Group.testEnd (g : Group) (lane : Nat) (f : Frag) (t : Test) (ok : Bool) : Group :=
  (g.write 0 (.p t.d.val t.act (if ok then allLanes else 0))).setFrag lane { f with wait := .no }

/-- A wait that has ended and touched a watchpoint: its trap is due, its instruction an entry to be skipped (R443). -/
def Group.watchTrap (g : Group) (lane : Nat) (e : Entry) (a now : Nat) : Group :=
  match g.frag? lane with
  | none => g
  | some f => g.sleepTrap lane f { e with skip := true } { cause := .watch, lanes := e.lanes, info := BitVec.ofNat 64 a, tpc := e.tpc, arose := now }

/-- The acquire of a test of completion bits that holds (R189): of what the copies have written for the bits named, the clean bytes that
the core still holds of it within the tensor's scope go, for an engine knows no L1 (R181). -/
def State.acquireCopied (s : State) (core : Nat) (sp : Spot) (key mask : Nat) : State :=
  (s.landed.filter (fun (m : CopiedBit) => m.b == sp.b && m.key == key && mask.testBit m.bit)).foldl (fun (t : State) (m : CopiedBit) =>
    (innerLevels (max 1 m.scope) core).foldl (fun (u : State) (i : CacheId) =>
      u.setCache ((u.cache i).dropCleanIn m.secs (u.ownedAt i))) t) s

/-- What a test that has read its word does (R170): it ends the wait, or the fragment sleeps on. `watch` is a watched byte. -/
def State.tested (s : State) (g : Group) (lane : Nat) (f : Frag) (t : Test) (m : Nat) (watch : Option Nat := none) : State :=
  let ends := fun (ok : Bool) =>
    let g1 := g.testEnd lane f t ok
    match watch with
    | some a => g1.watchTrap lane t.entry a s.tick
    | none => g1
  if t.holds m then
    let s1 := if t.all then s.acquireCopied g.core t.spot (winKey t.spot.pos (pSwz t.ptr) (elemByte t.ptr t.idx)) t.mask.toNat else if pClass t.ptr = 2 then s.acquire g.core (pScope t.ptr) else s
    s1.setGroup (ends true)
  else if t.timeout ≤ s.time - t.t0 then s.setGroup (ends false)
  else s.setGroup (g.setFrag lane { f with wait := .test { t with lastTest := s.time, tests := t.tests + 1, req := none } })

/-- One test of a sleeping fragment (R170, R188). A test of host memory waits for an earlier write of its group to the word (R158), and one that
fills the L1 for a miss-status entry (R151). -/
def State.testNow (s : State) (g : Group) (lane : Nat) (f : Frag) (t : Test) : State :=
  match s.entryCtx g f t.entry with
  | none => s
  | some x =>
    let a := elemByte t.ptr t.idx
    if x.remote t.ptr then
      let id := s.serial
      let rank := pBase t.ptr / 2 ^ 45
      let accs : List PeerAcc := [{ va := a % 2 ^ 45, op := .load 4 }]
      let r : Request := { id, g := g.ref, seq := t.entry.seq, rank, at_ := s.time, host := false, key := x.l.key, accs }
      if 12 ≤ s.portsFailed.length then s.setGroup (g.sleepTrap lane f t.entry { x.trap .fabric t.act with rank })
      else
        { s with serial := id + 1, requests := s.requests ++ [r], sent := s.sent ++ [Sent.peer id rank x.l.key accs] }.setGroup
          (g.setFrag lane { f with wait := .test { t with req := some id, lastTest := s.time, tests := t.tests + 1 } })
    else
      let q := x.find t.ptr false a 4 s (some t.spot)
      match q.1 with
      | .mismatch => q.2.setGroup (g.sleepStop lane f t.entry t.stand (x.trap .access t.act))
      | .poison _ => q.2.setGroup (g.sleepTrap lane f t.entry (x.memerr t.act a))
      | .fault va c => x.refault q.2 lane va c t.entry
      | .at_ ls =>
        let need := q.2.missingAt g.core t.ptr ls
        if q.2.atsRefuses x.l.vif t.ptr then q.2.setGroup (g.sleepTrap lane f t.entry (x.trap .access t.act a))
        else if s.hostWriteAhead g.ref t.entry.seq (if pHost t.ptr then ls.filterMap (fun l => match l with | .mem k => some k | _ => none) else []) ∨
            q.2.missRoom g.core need = false then s
        else
        let r := (q.2.takeMisses g.core x.l.vif need).pointRead (x.via t.ptr) ls
        match r.1 with
        | none => r.2.setGroup (g.sleepTrap lane f t.entry (x.memerr t.act a))
        | some bs => r.2.tested g lane f t (leNat bs) (if t.all then none else x.watched s t.ptr true false [{ lane := lowest t.act, j := 0, bit := elemBit t.ptr t.idx }])

/-- A test is due: the first one, after a write, 2 µs after the last, or at the deadline (R170). A test made sooner reads a
word that nothing has changed. -/
def Test.due (t : Test) (s : State) (remote : Bool) : Bool :=
  t.req.isNone && (t.tests == 0 || !remote || decide (2000 ≤ s.time - t.lastTest) || decide (t.timeout ≤ s.time - t.t0))

/-- A test of the word that a fragment sleeps on (R170). -/
def execWaitaRetest (r : GRef) (lane : Nat) (s : State) : Host.Outcome State Fault Refusal :=
  match s.group? r with
  | none => .next s
  | some g =>
    match g.frag? lane with
    | none => .next s
    | some f =>
      match f.wait with
      | .test t =>
        match s.entryCtx g f t.entry with
        | some x => if t.due s (x.remote t.ptr) ∧ !f.stopped then .next (s.testNow g lane f t) else .next s
        | none => .next s
      | _ => .next s

/-! ### PREF, CMO and LOCQ -/

/-- The pages and sectors that a PREF names: the line of each lane's first byte, or every line of the range (R171). -/
def Ctx.prefLines (x : Ctx) (ptr : PtrBits) (rng : Bool) (i : Idx) : List Nat :=
  if rng then (List.range ((min (pLen ptr) 65536 + 63) / 64)).map (fun k => pBase ptr + 64 * k)
  else (lanesOf x.act).map (fun l => elemByte ptr (x.idx i l))

/-- Where the sectors of a line are filled from: an L1 by a miss of the core, the outer levels at once (R171). -/
def State.prefetch (s : State) (core vif : Nat) (l : PrefLevel) (sec : Nat) : State :=
  match l with
  | .l1 => s.takeMiss core vif sec
  | .cl => (State.readLevel (clPath (clusterOf core) sec) vif sec (List.range 32) s).2
  | .die => (State.readLevel (homePath (dieOf core) sec) vif sec (List.range 32) s).2

/-- PREF (R171): what any check would refuse is skipped, and nothing faults. -/
def execPref (c : Ctl) (l : PrefLevel) (rng : Bool) (p : AReg) (i : Idx) (s : State) : Host.Outcome State Fault Refusal :=
  s.run (.pref c l rng p i) (fun x s =>
    let ptr := x.a .a p.val
    let ok := (pGlobal ptr || pHost ptr) &&
      (if rng then (match x.checkPtr s ptr true false with | .ok _ => true | .error _ => false)
       else (match x.memChecks s ptr (dataSpace ptr) false i 1 with | .ok _ => true | .error _ => false))
    let line := fun (t : State) (a : Nat) =>
      let q := t.translate { vif := x.l.vif, ctx := x.l.ctx, tgt := if pHost ptr then 1 else 0, write := false, quiet := true }
        (coreTlbs x.g.core) (dieOf x.g.core) a
      match q.1 with
      | .ok key _ => [key / 64 * 2, key / 64 * 2 + 1].foldl (fun u sec => u.prefetch x.g.core x.l.vif l sec) q.2
      | _ => q.2
    .ok (if ok then (x.prefLines ptr rng i).foldl line s else s, .step))

/-- The covered levels of a CMO on a path (Table 6-3): how many. -/
def cmoLevels (l : CmoLevel) (path : List CacheId) : Nat :=
  match l with
  | .l1 => 1
  | .cl => 2
  | .rdc => path.length - 1
  | .l2 => path.length

/-- One sector of a CMO at each covered level, innermost first; `whole` says that it lies wholly inside the range. -/
def State.cmoSector (op : CmoOp) (whole : Bool) (sec : Nat) : Nat → List CacheId → State → State
  | 0, _, s => s
  | _ + 1, [], s => s
  | n + 1, u :: rest, s =>
    let s1 := match op with
      | .inv => if whole then s else s.push (u :: rest) sec
      | _ => s.push (u :: rest) sec
    let s2 := match op with
      | .cln => s1
      | _ => (s1.revoke u sec (List.range 32) none).setCache (((s1.revoke u sec (List.range 32) none).cache u).drop sec)
    State.cmoSector op whole sec n rest s2

/-- The sectors of a range of addresses that caches hold, page by page, and whether each lies wholly in the range: every sector with a byte of
the range (R133), or, for NARROW and WIDEN, every sector of a line with one (R114, R115). A page with no valid translation is skipped, and an
empty range has no sector (R116, R134). -/
def Ctx.rangeSectors (x : Ctx) (ptr : PtrBits) (lines : Bool) (s : State) : List (Nat × Bool) :=
  let a := pBase ptr
  let b := pBase ptr + pLen ptr
  let held := (s.caches.flatMap (fun c => c.secs)).eraseDups
  let one := fun (sec : Nat) =>
    -- the addresses whose translation leads to the sector, by the pages that the range has
    let pages := (List.range ((b + 4095) / 4096 - a / 4096)).map (fun k => a / 4096 + k)
    pages.findSome? (fun pg =>
      match (s.translate { vif := x.l.vif, ctx := x.l.ctx, tgt := if pHost ptr then 1 else 0, write := false, quiet := true }
          (coreTlbs x.g.core) (dieOf x.g.core) (4096 * pg)).1 with
      | .ok key _ =>
        if key / 4096 = sec / 128 then
          let va := 4096 * pg + 32 * (sec % 128)
          let lo := if lines then va / 64 * 64 else va
          if a < b ∧ a < lo + (if lines then 64 else 32) ∧ lo < b then some (sec, decide (a ≤ va) && decide (va + 32 ≤ b)) else none
        else none
      | _ => none)
  held.filterMap one

/-- The checks of CMO and LOCQ on their pointer (R133, R141). -/
def Ctx.rangeChecks (x : Ctx) (ptr : PtrBits) : Except Trap Unit :=
  if !pValid ptr then .error (x.trap .bounds x.act)
  else if !(pGlobal ptr || pHost ptr) then .error (x.trap .access x.act)
  else if !unitOk x.g.core x.b ptr then .error (x.trap .scope x.act (pUnit ptr))
  else .ok ()

/-- CMO (R133, R134): its maintenance is done when its flag clears. DESIGN CHOICE: every line of it is maintained in the issuing step, of the time
from the issue to the flag's clearing. -/
def execCmo (c : Ctl) (op : CmoOp) (l : CmoLevel) (p : AReg) (s : State) : Host.Outcome State Fault Refusal :=
  s.run (.cmo c op l p) (fun x s =>
    let me := Instr.cmo c op l p
    let ptr := x.a .a p.val
    (x.rangeChecks ptr).bind fun _ =>
    let one := fun (t : State) (y : Nat × Bool) =>
      let path := corePath x.g.core y.1
      t.cmoSector op y.2 y.1 (cmoLevels l path) path
    let s1 := (x.rangeSectors ptr false s).foldl one s
    .ok (s1.setGroup (x.g.begin { entry := x.entry me, frag := x.f.lanes }), .step))

/-- The word of Table 6-5: of the first byte's translation, and the keys of all the element's bytes that translate. -/
def State.locqWord (s : State) (core : Nat) (xl : Xl) (keys : List Nat) : Nat :=
  match xl with
  | .ok key level =>
    let sec := key / 32
    let host := secIsHost sec
    let path := corePath core sec
    let home := path.getLastD (.l1 core)
    let at_ := path.find? (fun u => (s.cache u).holds sec && (u != home || homeDie sec == dieOf core))
    -- whether the host bridge holds the sector is not stated
    let bridge := if host ∧ dieOf core = 0 ∧ Config.free s.tick (2 ^ 46) % 2 = 1 then 4 else 0
    let lv := match at_ with | some (.l1 _) => 1 | some (.cl _) => 2 | some (.rdc _) => 3 | some (.l2 _) => 4 | none => bridge
    let dirty := match at_ with | some u => !((s.cache u).dirty sec).isEmpty | none => false
    let owned := keys.any (fun k => (s.cache (.l1 core)).owned.contains (k / 4))
    let size := match level with | 1 => 0 | 4 => 1 | 2 => 2 | _ => 3
    fieldSum [(10, size), (8, b01 host), (7, b01 dirty), (4, lv), (3, b01 owned),
      (2, b01 (if host then dieOf core != 0 else homeDie sec != dieOf core)), (0, if host then 0 else homeDie sec)]
  | .fault 4 => 3 * 256
  | _ => 2 * 256

/-- LOCQ (R141, R142). -/
def execLocq (c : Ctl) (d : SReg) (p : AReg) (i : SReg) (s : State) : Host.Outcome State Fault Refusal :=
  s.run (.locq c d p i) (fun x s =>
    let me := Instr.locq c d p i
    let ptr := x.a .a p.val
    let k := signed 32 (x.s .b i.val 0).toNat
    (x.rangeChecks ptr).bind fun _ =>
    if !inBounds ptr k 1 then .error (x.trap .bounds x.act (wrap 64 k))
    else
      let at_ := fun (a : Nat) => (s.translate { vif := x.l.vif, ctx := x.l.ctx, tgt := 2, write := false, quiet := true } (coreTlbs x.g.core)
        (dieOf x.g.core) a).1
      let bytes := (elemBit ptr k % 8 + ebits (pFmt ptr) + 7) / 8
      let keys := (List.range bytes).filterMap (fun j => match at_ (elemByte ptr k + j) with | .ok key _ => some key | _ => none)
      let w := s.locqWord x.g.core (at_ (elemByte ptr k)) keys
      .ok (s.setGroup (x.g.begin { entry := x.entry me, frag := x.f.lanes, res := toS false d w, again := true }), .step))

end Sys2Proof.Machine
end

