-- ==== Sys2Proof/Machine/CopyEngine.lean ====
section
/-! DEFINITION. The copy engines (08 R172 to R192): tensor layout records, the issue steps of CPY and CPYRD, what an engine
moves for a chunk, and how a copy ends. -/

namespace Sys2Proof.Machine

open Sys2Proof

/-! ### Layout records (R174 to R176) -/

/-- The fields of a record, its tensor's valid bit computed. -/
def layoutOf (m : Nat) : Layout :=
  let n := field m 484 3 + 1
  { tensor := pFix (BitVec.ofNat 128 (field m 0 128)), ndim := n
    size := (List.range n).map (fun i => field m (128 + 32 * i) 32)
    stride := 0 :: (List.range (n - 1)).map (fun i => field m (288 + 39 * i) 39)
    box := (List.range n).map (fun i => field m (444 + 8 * i) 8 + 1)
    swz := field m 487 3, fill := field m 490 16 }

def Layout.fmt (l : Layout) : Nat := pFmt l.tensor
def Layout.eb (l : Layout) : Nat := ebits l.fmt
/-- The elements of a tile. -/
def Layout.elems (l : Layout) : Nat := l.box.foldl (· * ·) 1
/-- The bytes of a tile, and its chunks. -/
def Layout.bytes (l : Layout) : Nat := (l.elems * l.eb + 7) / 8
def Layout.chunks (l : Layout) : Nat := (l.bytes + 511) / 512
/-- The elements that lie in whole bytes together, and those bytes. -/
def Layout.per (l : Layout) : Nat := if l.eb < 8 then 32 else 1
def Layout.unit (l : Layout) : Nat := l.per * l.eb / 8

/-- Well formed, its tensor field aside (R175). -/
def layoutWf (m : Nat) (coords : List Int) : Bool :=
  let l := layoutOf m
  field m 506 6 == 0 && decide (l.ndim ≤ 5) &&
    ((List.range 5).all (fun i => decide (i < l.ndim) ||
      (field m (128 + 32 * i) 32 == 0 && field m (444 + 8 * i) 8 == 0 && (i == 0 || field m (288 + 39 * (i - 1)) 39 == 0)))) &&
    l.size.all (fun x => x != 0) && decide (l.bytes ≤ 262144) &&
    (!isBfp l.fmt || (l.size.headD 0 % 32 == 0 && l.box.headD 0 % 32 == 0 && coords.headD 0 % 32 == 0))

/-- The box coordinates of an element index. -/
def boxCoords : List Nat → Nat → List Nat
  | [], _ => []
  | b :: bs, n => n % b :: boxCoords bs (n / b)

/-- An element made of the fill pattern (R176). -/
def fillElem (fmt fill : Nat) : Nat :=
  match ebits fmt with
  | 32 => if fmt = 0x0A then fill * 2 ^ 16 else wrap 32 (signed 16 fill)
  | 64 => if fmt = 0x0B then fill * 2 ^ 48 else wrap 64 (signed 16 fill)
  | 16 => fill
  | e => fill % 2 ^ e

/-- The byte offset in the tensor of a tile byte, or the byte that fills it (R176, R180). -/
def Layout.byteAt (l : Layout) (coords : List Int) (t : Nat) : Except Byte Nat :=
  let c := (coords.zip (boxCoords l.box (t / l.unit * l.per))).map (fun (x : Int × Nat) => x.1 + (x.2 : Int))
  if (c.zip l.size).all (fun (x : Int × Nat) => decide (0 ≤ x.1) && decide (x.1 < (x.2 : Int))) then
    .ok (((c.headD 0).toNat * l.eb) / 8 + ((c.zip l.stride).map (fun (x : Int × Nat) => x.1.toNat * x.2)).sum + t % l.unit)
  else
    let unit := ((List.range l.per).map (fun j => fillElem l.fmt l.fill * 2 ^ (l.eb * j))).sum
    .error (BitVec.ofNat 8 (unit / 2 ^ (8 * (t % l.unit)) % 256))

/-- The bit after the last in-range element of a box; none where no element is in range (Table 8-3, step 8). -/
def Layout.last (l : Layout) (coords : List Int) : Option Nat :=
  let hi := (coords.zip (l.box.zip l.size)).map (fun (x : Int × Nat × Nat) => (max 0 x.1, min (x.1 + x.2.1) x.2.2 - 1))
  if hi.all (fun x => decide (x.1 ≤ x.2)) then
    let c := hi.map (fun x => x.2.toNat)
    some (c.headD 0 * l.eb + ((c.zip l.stride).map (fun (x : Nat × Nat) => x.1 * x.2 * 8)).sum + l.eb)
  else none

/-! ### Issue (Table 8-3) -/

/-- The leader of a group's instruction (R179, R361). -/
def Ctx.leader (x : Ctx) (p : PReg) : Option Nat := (lanesOf x.act).find? (fun l => x.p .d p.val l)

/-- The context in which the leader alone acts. -/
def Ctx.alone (x : Ctx) (l : Nat) : Ctx := { x with c := { x.c with act := oneLane l } }

/-- A condition of a step, or its trap. -/
def Ctx.need (x : Ctx) (ok : Bool) (c : Cause) (info : Nat := 0) : Except Trap Unit := if ok then .ok () else .error (x.trap c x.act info)

/-- A scratch space of any kind. -/
def anyScratch (p : PtrBits) : Bool := pSpace p == 1 || pSpace p == 2

/-- n bytes of a scratch pointer fit its length and its window (steps 9 and 10). -/
def Ctx.fits (x : Ctx) (p : PtrBits) (n : Nat) : Except Trap Unit :=
  (x.need (decide (n ≤ pLen p)) .bounds).bind fun _ => x.need (x.inWindow p (pBase p) n) .access

/-- A launch scratch address names a block of the launch (step 10). -/
def Ctx.namesBlock (x : Ctx) (p : PtrBits) : Bool := !pLaunchScratch p || decide (pBase p / 2 ^ 23 < x.l.nblk)

/-- CPYRD takes the tensor's format (Table 8-4). -/
def rdFmt (op : CpyrdOp) (fmt : Nat) : Bool :=
  (4 ≤ fmt && fmt ≤ 7) || (fmt == 0x0A && (match op with | .and | .or => false | _ => true))

/-- The copy writes its tensor. -/
def CopyOp.stores : CopyOp → Bool
  | .ld => false
  | _ => true

/-- The tensor's space and format are the copy's (step 5). -/
def CopyOp.takes (op : CopyOp) (p : PtrBits) : Bool :=
  match op with
  | .rd o => pGlobal p && rdFmt o (pFmt p)
  | _ => pGlobal p || pHost p || pPeer p

/-- Steps 4 to 8: the tensor. -/
def Ctx.tensorChecks (x : Ctx) (s : State) (op : CopyOp) (l : Layout) (coords : List Int) : Except Trap Unit :=
  let w := l.eb / 8
  (x.need (pValid l.tensor) .bounds).bind fun _ =>
  (x.checkPtr s l.tensor (op.takes l.tensor) op.stores).bind fun _ =>
  (x.need (decide (l.eb < 8) || (pBase l.tensor % w == 0 && l.stride.all (fun y => y % w == 0))) .align (pBase l.tensor)).bind fun _ =>
  x.need (match l.last coords with | some e => decide (e ≤ 8 * pLen l.tensor) | none => true) .bounds

/-- Steps 9 and 10: the tile, the bitmap and the notify word, each step's other conditions after the whole of R101. -/
def Ctx.tileChecks (x : Ctx) (s : State) (op : CopyOp) (l : Layout) (tile bm : PtrBits) (nt : Option PtrBits) : Except Trap Unit :=
  let words := 4 * ((l.chunks + 31) / 32)
  (x.checkPtr s tile (anyScratch tile) (!op.stores)).bind fun _ =>
  (x.need (pBase tile % 16 == 0) .align (pBase tile)).bind fun _ =>
  (x.fits tile l.bytes).bind fun _ =>
  (x.need (x.namesBlock tile) .access).bind fun _ =>
  (x.checkPtr s bm (anyScratch bm && pFmt bm == 4) true).bind fun _ =>
  match nt with
  | none => (x.fits bm words).bind fun _ => x.need (x.namesBlock bm) .access
  | some p =>
    (x.checkPtr s p (anyScratch p && (pFmt p == 4 || pFmt p == 5)) true).bind fun _ =>
    (x.fits bm words).bind fun _ =>
    (x.fits p 4).bind fun _ => x.need (x.namesBlock bm && x.namesBlock p) .access

/-- The copy is accepted (step 11): it keeps what it names. -/
def Ctx.acceptCopy (x : Ctx) (s : State) (lead : Nat) (op : CopyOp) (c : CpyArgs) (l : Layout) (coords : List Int) : State :=
  let spot := fun (p : PtrBits) => spotOf x.b x.g.core p
  let tile := x.a .d c.aT.val
  let bm := x.a .c c.aB.val
  let nt := c.notify.map (fun n =>
    let p := x.a .d n.aN.val
    { ptr := p, at_ := spot p, v := x.s .d n.sV.val 0, add := n.nadd : CopyNotify })
  { s with
    serial := s.serial + 1
    copies := s.copies ++ [{ id := s.serial, g := x.c.g, lead, seq := x.g.seq, cluster := clusterOf x.g.core, vif := x.l.vif
                             ctx := x.l.ctx, word := x.c.word, tpc := x.c.pc, op, ord := c.ord, lay := l, coords, tile
                             tileAt := spot tile, bitmap := bm, bitmapAt := spot bm, notify := nt, chunks := l.chunks }] }

/-- The effect of CPY and CPYRD at issue (R179, Table 8-3). -/
def copyBody (i : Instr) (op : CopyOp) (c : CpyArgs) : Body := fun x s =>
  match x.leader c.pL with
  | none => .ok (s, .step)
  | some lead =>
    let y := x.alone lead
    let r := x.a .a c.aR.val
    (y.checkPtr s r (pGlobal r || pHost r || pOwnScratch r) false).bind fun _ =>
    (y.need (pBase r % 64 == 0) .align (pBase r)).bind fun _ =>
    (y.need (decide (64 ≤ pLen r)) .bounds).bind fun _ =>
    (y.need (x.inWindow r (pBase r) 64) .access).bind fun _ =>
    let els := (List.range 64).map (fun k => { lane := lead, j := k, bit := 8 * (pBase r + k) : Elem })
    x.access s i (pSet r 103 6 0) false .read els fun ls s1 =>
      if s1.atsRefuses x.l.vif r then .ok (x.endsIn s1 i (y.trap .access y.act (pBase r)))
      else
      let q := s1.readLocs (x.via r) (ls.flatMap (·.2))
      match q.1 with
      | none => .ok (x.endsIn q.2 i (y.memerr y.act (pBase r)))
      | some bs =>
        let m := leNat bs
        let l := layoutOf m
        let coords := (List.range l.ndim).map (fun k => signed 32 (x.s .b c.sC.val k).toNat)
        (y.need (layoutWf m coords && decide (c.sC.val + l.ndim ≤ 128)) .illegal).bind fun _ =>
        (y.tensorChecks q.2 op l coords).bind fun _ =>
        (y.tileChecks q.2 op l (x.a .d c.aT.val) (x.a .c c.aB.val) (c.notify.map (fun n => x.a .d n.aN.val))).bind fun _ =>
        .ok (x.acceptCopy q.2 lead op c l coords, .step)

/-! ### The copy and its scratch words -/

/-- A copy under way. -/
def State.copy? (s : State) (id : Nat) : Option Copy := s.copies.find? (fun c => c.id == id)
/-- Replaces a copy. -/
def State.setCopy (s : State) (c : Copy) : State := { s with copies := s.copies.map (fun d => if d.id = c.id then c else d) }
/-- A copy leaves its request slot (R172). -/
def State.dropCopy (s : State) (id : Nat) : State :=
  { s with copies := s.copies.filter (fun c => c.id != id)
           requests := s.requests.filter (fun r => (r.chunk.map (·.1)) != some id) }

/-- The block of a window has not started yet (R190). -/
def State.unstarted (s : State) (b : BRef) : Bool :=
  (s.block? b).isNone && (match s.launch? b.launch with | some l => !l.ending && decide (l.placed ≤ b.block) | none => false)

/-- A scratch word's window keys. -/
def wordKeys (sp : Spot) (p : PtrBits) (off : Nat) : List Nat := (List.range 4).map (fun k => winKey sp.pos (pSwz p) (pBase p + off + k))

/-- An indivisible update of a scratch word by an engine (R182). -/
def State.updateSpot (s : State) (sp : Spot) (p : PtrBits) (off : Nat) (f : Nat → Nat) : State :=
  let ks := wordKeys sp p off
  let old := ks.map (fun k => s.winRead sp.b k)
  if old.any (·.isNone) then s
  else
    let new := leBytes 4 (f (leNat (old.map (fun b => b.getD 0))) % 2 ^ 32)
    s.winWrites sp.b (ks.zip (new.map some))

/-- The tile bytes of a chunk. -/
def Copy.bytesOf (c : Copy) (k : Nat) : List Nat := (List.range (min 512 (c.lay.bytes - 512 * k))).map (512 * k + ·)

/-- The window key of a tile byte, in the record's swizzle mode (R176). -/
def Copy.tileKey (c : Copy) (t : Nat) : Nat := winKey c.tileAt.pos c.lay.swz (pBase c.tile + t)

/-- The in-range bytes of a chunk: the tile byte and its address. -/
def Copy.inRange (c : Copy) (k : Nat) : List (Nat × Nat) :=
  (c.bytesOf k).filterMap (fun t => match c.lay.byteAt c.coords t with
    | .ok o => some (t, pBase c.lay.tensor + o)
    | .error _ => none)

/-- An earlier copy of the group keeps an ordered one back (R183). -/
def Copy.ordered (c : Copy) (s : State) : Bool := c.ord && s.copies.any (fun d => d.g == c.g && decide (d.id < c.id))

/-- The sectors that a chunk has written so far, and those of the whole copy. -/
def Copy.landed (c : Copy) (k : Nat) : List Nat := ((c.into.find? (fun x => x.1 == k)).map (·.2)).getD []
def Copy.wrote (c : Copy) : List Nat := (c.into.flatMap (·.2)).eraseDups

/-- The copy's tensor lies on another device. -/
def Copy.remote (c : Copy) (s : State) : Bool :=
  pPeer c.lay.tensor && (match s.launch? c.g.b.launch with | some l => pBase c.lay.tensor / 2 ^ 45 != l.rank | none => true)

/-- The chunk is held by nothing. -/
def Copy.idle (c : Copy) (k : Nat) : Bool :=
  decide (k < c.chunks) && !c.done.contains k && !c.out.contains k && !(c.held.any (fun h => h.1 == k)) && !(c.susp.any (fun x => x.1 == k))

/-! ### An engine's accesses (R173, R181) -/

/-- How many levels of an engine's path lie before the point of a scope. -/
def engSkip (scope : Nat) (path : List CacheId) : Nat :=
  match scope with
  | 0 | 1 => 0
  | 2 => 1
  | _ => path.length - 1

/-- What keeps a chunk from its addresses. -/
inductive Keep where
  | none
  | faults (fs : List (Nat × Nat))
  | mismatch
  | poison
  deriving DecidableEq, Repr

/-- Translates the bytes of a chunk for the engine of a cluster. -/
def Copy.locate (c : Copy) (s : State) (quiet : Bool) (vas : List (Nat × Nat)) : (List (Nat × Nat) × Keep) × State :=
  let r : XlReq := { vif := c.vif, ctx := c.ctx, tgt := if pHost c.lay.tensor then 1 else 0, write := c.op.stores, quiet }
  let one := fun (acc : (List (Nat × Nat) × Keep) × State) (x : Nat × Nat) =>
    let va := if pPeer c.lay.tensor then x.2 % 2 ^ 45 else x.2
    let q := acc.2.translate r [.cl c.cluster] (dieOfCluster c.cluster) va
    match acc.1.2, q.1 with
    | .none, .ok key _ => ((acc.1.1 ++ [(x.1, key)], .none), q.2)
    | .none, .fault cause => ((acc.1.1, .faults [(va, cause)]), q.2)
    | .none, .mismatch => ((acc.1.1, .mismatch), q.2)
    | .none, .poison _ => ((acc.1.1, .poison), q.2)
    | .faults fs, .fault cause => ((acc.1.1, .faults (fs ++ [(va, cause)])), q.2)
    | _, _ => (acc.1, q.2)
  vas.foldl one (([], .none), s)

/-- Reads a byte for a .ld: the nearest level from the cluster's cache on, or the point of a synchronising tensor's scope; the
home for a peer tensor of the device's own rank. -/
def Copy.read (c : Copy) (s : State) (key : Nat) : Option Byte × State :=
  let path := clPath c.cluster (key / 32)
  let n := if pPeer c.lay.tensor then path.length - 1 else if pClass c.lay.tensor = 2 then engSkip (pScope c.lay.tensor) path else 0
  let r := State.readLevel (path.drop n) c.vif (key / 32) [key % 32] (s.passes (path.take n) (key / 32))
  (if r.1.2 then none else some (r.1.1.getD (key % 32) 0), r.2)

/-- Writes bytes of a sector through to the point of the tensor's scope; a poisoned byte poisons the sector (R85). -/
def Copy.write (c : Copy) (s : State) (sec : Nat) (ws : List (Nat × Option Byte)) : State :=
  let path := clPath c.cluster sec
  let n := if pPeer c.lay.tensor then path.length - 1 else engSkip (pScope c.lay.tensor) path
  let s := s.passes (path.take n) sec
  if ws.any (fun x => x.2.isNone) then
    (path.take n).foldl (fun (t : State) u => t.setCache ((t.cache u).drop sec)) (State.poisonLevel (path.drop n) c.vif sec none s)
  else
    let bs := ws.map (fun x => (x.1, x.2.getD 0))
    (path.take n).foldl (fun (t : State) u => t.setCache ((t.cache u).update sec bs)) (State.writeLevel (path.drop n) c.vif sec bs none s)

/-- The new value of a CPYRD element (Table 8-4). -/
def rdNew (op : CpyrdOp) (fmt : Nat) (flush : Bool) (old v : Nat) : Nat :=
  let w := ebits fmt
  let sgn := fmtSigned fmt
  match op with
  | .add => if fmt = 0x0A then atomfNew .add flush old v else (old + v) % 2 ^ w
  | .min => if fmt = 0x0A then atomfNew .min flush old v else aluMin w (!sgn) old v
  | .max => if fmt = 0x0A then atomfNew .max flush old v else aluMax w (!sgn) old v
  | .and => old &&& v
  | .or => old ||| v

/-- Combines an element into memory at the home L2 of its home die (R186). -/
def Copy.reduce (c : Copy) (s : State) (op : CpyrdOp) (flush : Bool) (key : Nat) (bs : List (Option Byte)) : State :=
  let sec := key / 32
  let n := (clPath c.cluster sec).length - 1
  let home := (clPath c.cluster sec).drop n
  let offs := (List.range bs.length).map (key % 32 + ·)
  let r := State.readLevel home c.vif sec offs (s.passes ((clPath c.cluster sec).take n) sec)
  if r.1.2 ∨ bs.any (·.isNone) then State.poisonLevel home c.vif sec none r.2
  else
    let old := leNat (offs.map (fun o => r.1.1.getD o 0))
    let new := rdNew op c.lay.fmt flush old (leNat (bs.map (fun b => b.getD 0)))
    State.writeLevel home c.vif sec (offs.zip (leBytes bs.length new)) none r.2

/-! ### Ends -/

/-- Adds a trap that an engine or the fabric reports to a group, resident or saved: to the fragment that holds a lane, or
to another (R187, R414); a group that has exited ends its launch with an error. -/
def State.report (s : State) (r : GRef) (lane : Nat) (t : Trap) : State :=
  let add := fun (g : Group) =>
    match (match g.frag? lane with | some f => some f | none => g.frags.head?) with
    | some f => g.setFrag (lowest f.lanes) (f.addTrap { t with arose := s.tick })
    | none => g
  match s.group? r with
  | some g => if g.frags.isEmpty then s.endLaunch r.b.launch 2 else s.setGroup (add g)
  | none =>
    match s.block? r.b with
    | some b =>
      if b.saved.any (fun g => g.ref == r && !g.frags.isEmpty) then
        s.setBlock { b with saved := b.saved.map (fun g => if g.ref = r then add g else g) }
      else s.endLaunch r.b.launch 2
    | none => s.endLaunch r.b.launch 2

/-- Aborts a copy (R187). -/
def State.abortCopy (s : State) (c : Copy) (cause : Cause) (rank : Nat := 0) : State :=
  (s.dropCopy c.id).report c.g c.lead
    { cause, lanes := oneLane c.lead, info := BitVec.ofNat 64 c.word, rank, prec := false, eng := true, tpc := c.tpc, seq := c.seq }

/-- A copy with every bit set and no notify word is complete (R183). -/
def State.settleCopy (s : State) (id : Nat) : State :=
  match s.copy? id with
  | some c => if c.done.length = c.chunks ∧ c.notify.isNone then s.dropCopy id else s
  | none => s

/-- The payload of a chunk of a .ld reaches its window, or waits for its block to start (R190). -/
def State.landChunk (s : State) (c : Copy) (k : Nat) (ws : List (Nat × Option Byte)) : State :=
  let c1 := { c with out := c.out.filter (· != k) }
  if s.unstarted c.tileAt.b then s.setCopy { c1 with held := c1.held ++ [(k, ws)] }
  else (s.winWrites c.tileAt.b ws).setCopy { c1 with moved := k :: c1.moved }

/-- The bytes of a chunk of a .ld: fill, and what was read for the bytes in range. -/
def Copy.payload (c : Copy) (k : Nat) (got : List (Nat × Option Byte)) : List (Nat × Option Byte) :=
  (c.bytesOf k).map (fun t => (c.tileKey t,
    match c.lay.byteAt c.coords t with
    | .error b => some b
    | .ok _ => (got.find? (fun x => x.1 == t)).bind (·.2)))

/-- The tile bytes of a chunk as its window holds them. -/
def Copy.tileBytes (c : Copy) (s : State) (ts : List Nat) : List (Option Byte) := ts.map (fun t => s.winRead c.tileAt.b (c.tileKey t))

/-- The accesses of a chunk go to another device (R181). -/
def State.sendChunk (s : State) (c : Copy) (k : Nat) (accs : List PeerAcc) : State :=
  let rank := pBase c.lay.tensor / 2 ^ 45
  if 12 ≤ s.portsFailed.length then s.abortCopy c .fabric rank
  else
    let key := match s.launch? c.g.b.launch with | some l => l.key | none => 0
    let r : Request := { id := s.serial, g := c.g, seq := c.seq, rank, at_ := s.time, host := false, key, accs, chunk := some (c.id, k) }
    ({ s with serial := s.serial + 1, requests := s.requests ++ [r], sent := s.sent ++ [Sent.peer s.serial rank key accs] }).setCopy
      { c with out := k :: c.out }

/-- The refresh of a bank of a sector's channel can be postponed no more (R91). The spec gives no map of banks. -/
def State.refreshWins (s : State) (sec : Nat) : Bool :=
  !secIsHost sec && (s.chan (homeDie sec) (s.chanOf sec)).postponed.any (fun x => decide (8 ≤ x.2))

/-- The copy's writes go to main memory's own level, past every other cache; a reduction's always do (R186). -/
def Copy.reachesHome (c : Copy) (sec : Nat) : Bool :=
  let path := clPath c.cluster sec
  pPeer c.lay.tensor || decide (path.length - 1 ≤ engSkip (pScope c.lay.tensor) path) || (match c.op with | .rd _ => true | _ => false)

/-- The sectors of a burst that are written now, where some already are: a refresh that wins cuts it behind the sector in progress, and
the rest goes after the refresh (R91). -/
def State.burst (s : State) (c : Copy) (done secs : List Nat) : List Nat :=
  let rest := secs.filter (fun x => !done.contains x)
  let waits := fun (sec : Nat) => c.reachesHome sec && s.refreshWins sec
  if done.isEmpty then rest.takeWhile (fun x => !waits x) ++ (rest.dropWhile (fun x => !waits x)).take 1
  else rest.filter (fun x => !waits x)

/-- Some sectors of a chunk are written: its payload has landed once all of its are. -/
def Copy.wroteNow (c : Copy) (k : Nat) (secs now : List Nat) : Copy :=
  let done := c.landed k ++ now
  { c with into := (k, done) :: c.into.filter (fun x => x.1 != k), moved := if secs.all done.contains then k :: c.moved else c.moved }

/-- What a chunk's bit covers, as it is set (R189). -/
def State.noteLanded (s : State) (c : Copy) (k : Nat) : State :=
  let key := winKey c.bitmapAt.pos (pSwz c.bitmap) (pBase c.bitmap + 4 * (k / 32))
  let rest := s.landed.filter (fun (m : CopiedBit) => !(m.b == c.bitmapAt.b && m.key == key && m.bit == k % 32))
  { s with landed := { b := c.bitmapAt.b, key, bit := k % 32, scope := pScope c.lay.tensor, secs := c.landed k } :: rest }

/-- Moves a chunk whose addresses are found: `at_` names the key of each tile byte in range. -/
def State.moveChunk (s : State) (c : Copy) (k : Nat) (at_ : List (Nat × Nat)) : State :=
  match c.op with
  | .ld =>
    let r := at_.foldl (fun (acc : List (Nat × Option Byte) × State) (x : Nat × Nat) =>
      let q := c.read acc.2 x.2
      (acc.1 ++ [(x.1, q.1)], q.2)) ([], s)
    r.2.landChunk c k (c.payload k r.1)
  | .st =>
    let ws := at_.zip (c.tileBytes s (at_.map (·.1)))
    let secs := (at_.map (fun x => x.2 / 32)).eraseDups
    let now := s.burst c (c.landed k) secs
    let s1 := now.foldl (fun (t : State) (sec : Nat) =>
      c.write t sec ((ws.filter (fun y => y.1.2 / 32 == sec)).map (fun y => (y.1.2 % 32, y.2)))) s
    s1.setCopy (c.wroteNow k secs now)
  | .rd op =>
    let w := c.lay.eb / 8
    let flush := match s.launch? c.g.b.launch with | some l => l.flush | none => false
    let secs := (at_.map (fun x => x.2 / 32)).eraseDups
    let now := s.burst c (c.landed k) secs
    let firsts := at_.filter (fun x => x.1 % w == 0 && now.contains (x.2 / 32))
    let s1 := firsts.foldl (fun (t : State) (x : Nat × Nat) =>
      c.reduce t op flush x.2 (c.tileBytes s ((List.range w).map (x.1 + ·)))) s
    s1.setCopy (c.wroteNow k secs now)

/-- What an engine does for a chunk that nothing holds: its payload moves, or, once it has landed, its bit is set (R180 to
R183). DESIGN CHOICE: a .st or a CPYRD whose tile lies in the window of a block that has not started waits for the block too; R190 holds only
the writes to such a block. -/
def State.chunkWork (s : State) (c : Copy) (k : Nat) : State :=
  if c.moved.contains k then
    if c.ordered s ∨ s.unstarted c.bitmapAt.b then s
    else
      (((s.updateSpot c.bitmapAt c.bitmap (4 * (k / 32)) (fun w => w ||| 2 ^ (k % 32))).noteLanded c k).setCopy { c with done := k :: c.done }).settleCopy c.id
  else if c.op.stores ∧ s.unstarted c.tileAt.b then s
  else
    let vas := c.inRange k
    if c.remote s ∧ !vas.isEmpty then
      let accs := if c.op.stores then
          (vas.zip (c.tileBytes s (vas.map (·.1)))).map (fun x =>
            { va := x.1.2 % 2 ^ 45, op := match x.2 with | some b => PeerOp.store [b] | none => PeerOp.poison : PeerAcc })
        else vas.map (fun x => { va := x.2 % 2 ^ 45, op := PeerOp.load 1 })
      s.sendChunk c k accs
    else
      let q := c.locate s false vas
      match q.1.2 with
      | .none => if q.2.atsRefuses c.vif c.lay.tensor then q.2.abortCopy c .access else q.2.moveChunk c k q.1.1
      | .faults _ => s
      | .mismatch => q.2.abortCopy c .access
      | .poison => q.2.abortCopy c .memerr

/-- The engine's work on a chunk (R180 to R183). -/
def execCopyChunkDone (id k : Nat) (s : State) : Host.Outcome State Fault Refusal :=
  match s.copy? id with
  | some c => .next (if c.idle k then s.chunkWork c k else s)
  | none => .next s

/-- The notify word of a copy whose bits are all set: a release of its payload at the notify pointer's scope (R182). -/
def execCopyNotifyWrite (id : Nat) (s : State) : Host.Outcome State Fault Refusal :=
  match s.copy? id with
  | some c =>
    match c.notify with
    | some n =>
      if c.done.length = c.chunks ∧ !c.ordered s ∧ !s.unstarted n.at_.b then
        let push := fun (t : State) (sec : Nat) =>
          let path := clPath c.cluster sec
          if c.op ≠ .st then t else State.pushN (engSkip (pScope n.ptr) path) path sec t
        let s1 := c.wrote.foldl push s
        .next ((s1.updateSpot n.at_ n.ptr 0 (fun w => if n.add then w + n.v.toNat else n.v.toNat)).dropCopy id)
      else .next s
    | none => .next s
  | none => .next s

/-- A translation fault of a chunk: its records are written and the chunk waits (R187). -/
def execCopyFault (id k : Nat) (s : State) : Host.Outcome State Fault Refusal :=
  match s.copy? id with
  | some c =>
    if !c.idle k ∨ c.moved.contains k ∨ c.remote s ∨ (c.op.stores ∧ s.unstarted c.tileAt.b) then .next s
    else
      match (c.locate s true (c.inRange k)).1.2 with
      | .faults fs =>
        let one := fun (acc : List Nat × State) (f : Nat × Nat) =>
          let q := acc.2.faultRecord { tag := 0, vif := c.vif, ctx := c.ctx, va := f.1, kind := if c.op.stores then .engWrite else .engRead
                                       cause := f.2, launch := c.g.b.launch, source := 64 + c.cluster
                                       die := dieOfCluster c.cluster, block := 0, time := 0 }
          (acc.1 ++ [q.1], q.2)
        let r := fs.foldl one ([], s)
        .next (r.2.setCopy { c with susp := c.susp ++ (r.1.eraseDups).map (fun t => (k, t)) })
      | _ => .next s
  | none => .next s

/-- The held payload of the copies aimed at a block that has started (R190). -/
def execHeldCopyApply (b : BRef) (s : State) : Host.Outcome State Fault Refusal :=
  if s.unstarted b then .next s
  else
    let one := fun (t : State) (c : Copy) =>
      if c.tileAt.b = b ∧ !c.held.isEmpty then
        (c.held.foldl (fun (u : State) h => u.winWrites b h.2) t).setCopy { c with held := [], moved := c.held.map (·.1) ++ c.moved }
      else t
    .next (s.copies.foldl one s)

/-- The driver's answer to a record that holds chunks (R187). -/
def State.copyAnswer (s : State) (vif tag : Nat) (a : FaultAnswer) : State :=
  let hit := s.copies.filter (fun c => c.vif == vif && c.susp.any (fun x => x.2 == tag))
  hit.foldl (fun (t : State) (c : Copy) =>
    match a with
    | .replay => t.setCopy { c with susp := c.susp.filter (fun x => x.2 != tag) }
    | .failNoMap => t.abortCopy c .xlate
    | .failRefused => t.abortCopy c .access) s

/-- What a peer's answer does for a chunk (R181, Table 16-4). -/
def State.copyResponse (s : State) (id k : Nat) (rank : Nat) (a : PeerAnswer) : State :=
  match s.copy? id with
  | none => s
  | some c =>
    match a with
    | .performed data =>
      (match c.op with
        | .ld => s.landChunk c k (c.payload k ((c.inRange k).zip data |>.map (fun x => (x.1.1, x.2.bind (·.head?)))))
        | _ => s.setCopy { c with out := c.out.filter (· != k), moved := k :: c.moved })
    | .failXlate => s.abortCopy c .xlate
    | .failAccess => s.abortCopy c .access
    | .keyLacking | .addRefused | .addFails => s.abortCopy c .fabric rank

end Sys2Proof.Machine
end

