-- ==== Sys2Proof/Machine/TileMath.lean ====
section
/-! DEFINITION. The arithmetic of the matrix unit (13 R296, R305): block sums, sums and products rounded once, in FP32 with
its own NaN. -/

namespace Sys2Proof.Machine

open Sys2Proof

/-- The NaN that a tile receives. -/
def nan32 : Nat := 0x7FC00000

/-- RoundNE32 of a finite value. -/
def ne32 (s : Bool) (m : Nat) (e : Int) : Nat := (fp32.round .rne false false s m e).bits

/-- A product: exact, an infinity, or a NaN. -/
def FVal.prod (x y : FVal) : FVal :=
  match x, y with
  | .nan s q, _ => .nan s q
  | _, .nan s q => .nan s q
  | _, _ => (FVal.times false x y).getD (.nan false true)

/-- The value is a NaN. -/
def FVal.isNan : FVal → Bool
  | .nan .. => true
  | _ => false

/-- The exact sum of values, rounded once (R296): a zero is −0 only where every addend is. -/
def sumNe (ps : List FVal) : Nat :=
  let inf := fun (s : Bool) => ps.any (fun p => p == .inf s)
  if ps.any FVal.isNan || (inf true && inf false) then nan32
  else if inf true then fp32.pack true fp32.infBits
  else if inf false then fp32.infBits
  else
    let fin := ps.filterMap (fun p => match p with | .num s m e => some (s, m, e) | _ => none)
    let nz := fin.filter (fun p => p.2.1 != 0)
    let neg := !fin.isEmpty && fin.all (fun p => p.1 && p.2.1 == 0)
    match nz with
    | [] => ne32 neg 0 0
    | p :: _ =>
      let e := (nz.map (fun q => q.2.2)).foldl min p.2.2
      let v := (nz.map (fun q => sgnNat q.1 (q.2.1 * 2 ^ (q.2.2 - e).toNat))).sum
      if v = 0 then 0 else ne32 (decide (v < 0)) v.natAbs e

/-- The sum of two tile values. -/
def addNe (a b : Nat) : Nat := sumNe [fp32.value a, fp32.value b]

/-- The product of two FP32 values, rounded. -/
def mulNe (a b : Nat) : Nat := sumNe [FVal.prod (fp32.value a) (fp32.value b)]

/-- A scale's value as a factor. -/
def scaleFactor (k : Option (Bool × Nat × Int)) : FVal :=
  match k with
  | some (s, m, e) => .num s m e
  | none => .nan false true

/-- The scale of an operand: one for all 32 elements of a row or column, or one for each element (R296). -/
inductive BlkScale where
  | one (k : Option (Bool × Nat × Int))
  | each (ks : List (Option (Bool × Nat × Int)))
  deriving DecidableEq, Repr

/-- The scale of a slot without one. -/
def unitScale : Option (Bool × Nat × Int) := some (false, 1, 0)

/-- v of R296: the block sum of 32 products, times the scales, rounded. -/
def blockSum (xs ys : List FVal) (sa : BlkScale) (sb : Option (Bool × Nat × Int)) : Nat :=
  let ps : List FVal := match sa with
    | .one _ => (xs.zip ys).map (fun (p : FVal × FVal) => FVal.prod p.1 p.2)
    | .each ks => ((xs.zip ys).zip ks).map (fun (p : (FVal × FVal) × Option (Bool × Nat × Int)) => FVal.prod (FVal.prod p.1.1 (scaleFactor p.2)) p.1.2)
  let ka := match sa with | .one k => k | .each _ => unitScale
  let inf := fun (s : Bool) => ps.any (fun p => p == .inf s)
  match ka, sb with
  | some (s1, m1, e1), some (s2, m2, e2) =>
    if ps.any FVal.isNan || (inf true && inf false) then nan32
    else
      let sg := xor s1 s2
      if inf true then fp32.pack (!sg) fp32.infBits
      else if inf false then fp32.pack sg fp32.infBits
      else
        let fin := ps.filterMap (fun p => match p with | .num s m e => some (s, m, e) | _ => none)
        let nz := fin.filter (fun p => p.2.1 != 0)
        let sigma := ne32 sg (m1 * m2) (e1 + e2)
        let neg := !fin.isEmpty && fin.all (fun p => p.1 && p.2.1 == 0)
        let top := fun (p : Bool × Nat × Int) => (p.2.1.log2 : Int) + p.2.2
        let S : FVal := match nz with
          | [] => .num neg 0 0
          | p :: rest =>
            let w := (rest.map top).foldl max (top p) - 48
            let unit := fun (q : Bool × Nat × Int) =>
              if w ≤ q.2.2 then sgnNat q.1 (q.2.1 * 2 ^ (q.2.2 - w).toNat)
              else sgnNat q.1 q.2.1 / ((2 ^ (w - q.2.2).toNat : Nat) : Int)
            let v := (nz.map unit).sum
            .num (decide (v < 0)) v.natAbs w
        sumNe [FVal.prod S (fp32.value sigma)]
  | _, _ => nan32

/-- TADD's and TSCALE's element (R305). -/
def taddElem (alpha a beta b : Nat) : Nat :=
  sumNe [FVal.prod (fp32.value alpha) (fp32.value a), FVal.prod (fp32.value beta) (fp32.value b)]

end Sys2Proof.Machine
end

