-- ==== Sys2Proof/Machine/Tiles.lean ====
section
/-! DEFINITION. Accumulator tiles, the queues of the quads and lineages: what a tile holds, which instructions of a queue may
take their place (13 R286 to R302, 15 R329 to R341), and what each does there, but for the steps of an MLOOP. -/

namespace Sys2Proof.Machine

open Sys2Proof

/-! ### Tiles -/

/-- The key of a tile's first element (R286). -/
def tileBase (gang t : Nat) : Nat := (16 * gang + t) * 1024

/-- An element of a tile. -/
def Block.tileAt (b : Block) (gang t r j : Nat) : Nat := (sgetD b.tiles (tileBase gang t + 16 * r + j) 0).toNat

/-- Writes every element of a tile. -/
def Block.setTile (b : Block) (gang t : Nat) (f : Nat → Nat → Nat) : Block :=
  let k := tileBase gang t
  let mine := (List.range 1024).filterMap (fun i =>
    let x := BitVec.ofNat 32 (f (i / 16) (i % 16))
    if x = 0 then none else some (k + i, x))
  { b with tiles := b.tiles.filter (fun y => decide (y.1 < k)) ++ mine ++ b.tiles.filter (fun y => decide (k + 1024 ≤ y.1)) }

/-- An element of a tile of a block; +0 where the block is gone. -/
def State.tileAt (s : State) (r : TileRef) (i j : Nat) : Nat := match s.block? r.b with | some b => b.tileAt r.gang r.t i j | none => 0
/-- Writes a tile. -/
def State.setTile (s : State) (r : TileRef) (f : Nat → Nat → Nat) : State :=
  match s.block? r.b with
  | some b => s.setBlock (b.setTile r.gang r.t f)
  | none => s

/-- A tile's elements as a sparse map keyed 16·row + column. -/
def tileMap (f : Nat → Nat → Nat) : Sparse Word :=
  (List.range 1024).filterMap (fun i => let x := BitVec.ofNat 32 (f (i / 16) (i % 16)); if x = 0 then none else some (i, x))
/-- An element of such a map. -/
def mapAt (m : Sparse Word) (i j : Nat) : Nat := (sgetD m (16 * i + j) 0).toNat

/-- Adds a map to a tile, each element rounded. -/
def State.addTile (s : State) (r : TileRef) (m : Sparse Word) : State := s.setTile r (fun i j => addNe (s.tileAt r i j) (mapAt m i j))

/-- What a tile reports. -/
def State.tileInfo (s : State) (r : TileRef) : TileInfo :=
  match s.block? r.b with | some b => sgetD b.tileInfo (16 * r.gang + r.t) {} | none => {}
def State.setTileInfo (s : State) (r : TileRef) (x : TileInfo) : State :=
  match s.block? r.b with
  | some b => s.setBlock { b with tileInfo := sput {} b.tileInfo (16 * r.gang + r.t) x }
  | none => s

/-! ### Queued instructions -/

/-- The tiles an instruction writes, and those it reads. -/
def TileJob.writes : TileJob → List Nat
  | .mloop x .. => [x.d.val]
  | .mzero d => [d] | .mload d .. => [d] | .tadd d .. => [d] | .tscale d .. => [d] | .mpub d _ => [d]
  | _ => []
def TileJob.reads : TileJob → List Nat
  | .mloop x .. => (match x.a with | .tile t => (List.range (2 * (x.n1.val + 1))).map (t.val + ·) | _ => [])
  | .drainReg _ a => [a] | .drainMem _ _ _ _ a _ _ => [a] | .drainAdd a _ => [a]
  | .tadd _ a b _ _ => [a, b] | .tscale _ a _ => [a]
  | _ => []

/-- The instruction is an MLOOP. -/
def TileJob.isMloop : TileJob → Bool
  | .mloop .. => true
  | _ => false

/-- The tiles a queued instruction touches: one that has run touches none, and one that adds to a Δ not its tD (R331, R333). -/
def TileOp.touches (o : TileOp) : List Nat :=
  if o.awaits then []
  else
    match o.job with
    | .settle (some t) => [t]
    | .settle none => List.range 16
    | j => (if o.delta.isSome then [] else j.writes) ++ j.reads

/-- A run of bytes behind a pointer. -/
structure Run where
  p : PtrBits
  at_ : Nat
  n : Nat
  deriving DecidableEq, Repr

/-- A row's first element index of an MLOOP's A in a step (R290). -/
def mloopElem (x : MloopArgs) (r s : Nat) : Int := ((r * x.ra.toNat : Nat) : Int) + (s : Int) * signed 32 x.ka.toNat

/-- The smallest and the largest index of an MLOOP's A (R290). -/
def mloopSpan (x : MloopArgs) : Int × Int :=
  let last := (x.n1.val : Int) * signed 32 x.ka.toNat
  (min 0 last, ((63 * x.ra.toNat : Nat) : Int) + max 0 last + 31)

/-- The bytes of a scale tensor between two indices. -/
def scaleRun (k : SlotInfo) (lo hi : Int) : List Run :=
  if k.scale = 0 then [] else [{ p := k.sptr, at_ := pBase k.sptr + lo.toNat, n := (hi - lo).toNat + 1 }]

/-- The rows of a tile behind a pointer (R304, R307). -/
def tileRuns (p : PtrBits) (i : Int) (stride : Nat) : List Run :=
  (List.range 64).map (fun (r : Nat) => { p, at_ := elemByte p (i + ((r * stride : Nat) : Int)), n := 2 * ebits (pFmt p) })

/-- What an instruction reads of memory for its tiles, and what it writes (R290, R295, R304, R307). -/
def TileOp.memReads (o : TileOp) : List Run :=
  match o.job with
  | .mload _ p i r => tileRuns p i r
  | .mloop x p a b soa sob _ _ _ _ =>
    if o.awaits ∨ x.n1.val < o.step then []
    else (match x.a with
        | .ptr .. => (List.range (x.n1.val + 1 - o.step)).flatMap (fun (k : Nat) => (List.range 64).flatMap (fun (r : Nat) =>
            let e := mloopElem x r (o.step + k)
            { p, at_ := elemByte p e, n := 4 * ebits a.fmt : Run } :: scaleRun a ((e + soa) / 32) ((e + 31 + soa) / 32)))
        | .tile _ => []) ++ scaleRun b (sob / 32) (((16 * (x.n1.val + 1) - 1 : Nat) : Int) + sob / 32)
  | _ => []

/-- The runs of bytes that a queued instruction writes in memory, or may still write. -/
def TileOp.memWrites (o : TileOp) : List Run :=
  match o.job with
  | .drainMem _ _ _ p _ i r => tileRuns p i r
  | _ => []

/-- Where bytes lie: the kind of place, the first, and the one behind the last. -/
structure Span where
  space : Nat
  lo : Nat
  hi : Nat
  deriving DecidableEq, Repr

/-- Two spans share a byte. A swizzle moves bytes about in a window, so any two of its spans do. -/
def Span.meets (a b : Span) : Bool := a.space == b.space && (a.space == 1 || (decide (a.lo < b.hi) && decide (b.lo < a.hi)))

/-- A run of bytes cut where pages may end: the first byte of each piece, and its length. -/
def pageParts (a n : Nat) : List (Nat × Nat) :=
  (List.range ((a + n + 4095) / 4096 - a / 4096)).map (fun (k : Nat) =>
    let lo := max a (4096 * (a / 4096 + k))
    (lo, min (a + n) (4096 * (a / 4096 + k + 1)) - lo))

/-- Where a run lies, page by page: its place in memory whatever pointer or page names it, or, where that does not translate now, its
virtual address. -/
def Ctx.spansOf (x : Ctx) (s : State) (y : Run) : List Span :=
  if pSpace y.p = 1 then [{ space := 1, lo := 0, hi := 1 }]
  else if pPeer y.p && pBase y.p / 2 ^ 45 != x.l.rank then [{ space := 3, lo := y.at_, hi := y.at_ + y.n }]
  else (pageParts y.at_ y.n).map (fun c =>
    match (x.find y.p false c.1 1 s).1 with
    | .at_ (.mem k :: _) | .at_ (.home k :: _) => { space := 0, lo := k, hi := k + c.2 }
    | _ => { space := 2, lo := c.1 % 2 ^ 45, hi := c.1 % 2 ^ 45 + c.2 })

/-- The context of a queued instruction. -/
def State.opCtx (s : State) (o : TileOp) : Option Ctx :=
  match s.group? o.g with
  | some g => s.entryCtx g { lanes := o.frag, pc := 0 } o.entry
  | none => none

/-- Of two instructions one writes memory that the other reads or writes. -/
def State.memMeets (s : State) (o p : TileOp) : Bool :=
  let spans := fun (q : TileOp) (rs : List Run) => match s.opCtx q with | some x => rs.flatMap (x.spansOf s) | none => []
  let meet := fun (a b : List Span) => a.any (fun y => b.any y.meets)
  if o.memWrites.isEmpty ∧ p.memWrites.isEmpty then false
  else
    meet (spans o o.memWrites) (spans p p.memReads) || meet (spans o o.memWrites) (spans p p.memWrites) ||
      meet (spans o o.memReads) (spans p p.memWrites)

/-- Two queued instructions of one gang touch a tile, a Δ or memory, so that their order shows: the MLOOPs that add to one Δ do so one after
another (R297, R333). -/
def State.meets (s : State) (o p : TileOp) : Bool :=
  o.g.b == p.g.b && o.gang == p.gang && (o.touches.any (fun t => p.touches.contains t) || (o.delta.isSome && !o.awaits && o.delta == p.delta) || s.memMeets o p)

/-- The instruction has its place: nothing before it in the queue touches its tiles or its memory (R297, R302, R337). -/
def State.clearBefore (s : State) (o : TileOp) : List TileOp → Bool
  | [] => true
  | p :: ps => p.id == o.id || (!s.meets p o && s.clearBefore o ps)

/-- A tile of an instruction. -/
def TileOp.tile (o : TileOp) (t : Nat) : TileRef := { b := o.g.b, gang := o.gang, t }

/-- Replaces a queued instruction, and takes one out. -/
def State.setOp (s : State) (o : TileOp) : State :=
  { s with quads := s.quads.map (fun q => { q with queue := q.queue.map (fun p => if p.id = o.id then o else p) }) }
def State.dropOp (s : State) (id : Nat) : State :=
  { s.unpin [id] with quads := s.quads.map (fun q => { q with queue := q.queue.filter (fun p => p.id != id) }) }
/-- A queued instruction by its id. -/
def State.op? (s : State) (id : Nat) : Option TileOp := s.quads.findSome? (fun q => q.queue.find? (fun o => o.id == id))

/-- Every queued instruction of the package. -/
def State.allOps (s : State) : List TileOp := s.quads.flatMap (fun (q : Quad) => q.queue)

/-- A queued instruction's count may leave its flag: its outstanding operation is ready, with its results (R297, R301). -/
def State.readyOp (s : State) (o : TileOp) (res : List Res) : State :=
  match s.group? o.g with
  | none => s
  | some g =>
    s.setGroup { g with pend := g.pend.map (fun (p : Pend) =>
      if p.entry.seq = o.seq ∧ p.doing = .quad then { p with doing := .ready, res } else p) }

/-- A tile instruction is done. -/
def State.endOp (s : State) (o : TileOp) (res : List Res) : State := (s.dropOp o.id).readyOp o res

/-! ### Lineages (R329, R330, R335, R336) -/

/-- The lineage holds a tile; its roles are root, derived and remote target. -/
def Lineage.holds (l : Lineage) (r : TileRef) : Bool :=
  l.root.b == r.b && l.root.gang == r.gang && (l.root.t == r.t || l.spurs.any (fun p => p.dst == some r.t))
/-- The lineage that holds a tile: one that has settled holds none (R340). -/
def State.lineageOf (s : State) (r : TileRef) : Option Lineage := s.lineages.find? (fun l => l.holds r && !l.settled)
/-- The tile is provisional. -/
def State.prov (s : State) (r : TileRef) : Bool := (s.lineageOf r).isSome
/-- A lineage by its core and tag. -/
def State.lineage? (s : State) (core tag : Nat) : Option Lineage := s.lineages.find? (fun l => l.core == core && l.tag == tag)
/-- Replaces a lineage. -/
def State.setLineage (s : State) (l : Lineage) : State :=
  { s with lineages := upsert (fun x => x.core == l.core && x.tag == l.tag) l s.lineages }

/-- A tile's depth, and its dependents (R329, R330). -/
def Lineage.depth (l : Lineage) (t : Nat) : Nat := ((l.spurs.find? (fun p => p.dst == some t)).map (·.depth)).getD 0
def Lineage.deps (l : Lineage) (t : Nat) : Nat := (l.spurs.filter (fun p => p.srcs.contains t)).length
/-- Spur entries in use on a core. -/
def State.spurs (s : State) (core : Nat) : Nat := ((s.lineages.filter (fun l => l.core == core && !l.settled)).map (fun l => l.spurs.length)).sum

/-- The free tags of a core: a lineage that has settled has freed its own (R340). -/
def State.freeTags (s : State) (core : Nat) : List Nat :=
  (List.range 64).filter (fun t => !s.lineages.any (fun l => l.core == core && l.tag == t && !l.settled))
/-- The tag that a new lineage takes; none where all are in use. -/
def State.newTag (s : State) (core : Nat) : Option Nat :=
  match s.freeTags core with
  | [] => none
  | t :: ts => some (choose t s.tick (2 ^ 41 + core) (t :: ts))

/-- The core whose quads hold a block's gang: the core of its groups (R17). -/
def State.gangCore (s : State) (b : BRef) (gang : Nat) : Option Nat :=
  (s.groups.find? (fun g => g.ref.b == b && g.ref.gang == gang)).map (·.core)

/-- How an instruction with sources and a destination stands to lineages. -/
inductive Stand where
  /-- No source is provisional. -/
  | plain
  /-- It performs on the provisional value, as a dependent of a lineage (R336). -/
  | linear (l : Lineage)
  | held
  deriving DecidableEq, Repr

/-- R336: a linear consumer, by its sources and destination. One that has waited once performs on settled values. -/
def State.stand (s : State) (o : TileOp) (core : Nat) (srcs : List Nat) (dst : Option Nat) : Stand :=
  let ps := srcs.eraseDups.filter (fun t => s.prov (o.tile t))
  let dprov : Bool := match dst with | some d => s.prov (o.tile d) | none => false
  match ps with
  | [] => if dprov then .held else .plain
  | t :: ts =>
    match s.lineageOf (o.tile t) with
    | none => .held
    | some l =>
      if o.held ∨ dprov ∨ ts.any (fun u => s.lineageOf (o.tile u) != some l) ∨ 64 ≤ s.spurs core ∨ ps.any (fun u => decide (4 ≤ l.deps u)) ∨
          ps.any (fun u => decide (4 ≤ l.depth u) && dst.isSome) then .held
      else .linear l

/-- A consumer that may not perform on its provisional sources is marked as it first waits for them (R336). -/
def State.holdBack (s : State) (o : TileOp) (srcs : List Nat) : Option State :=
  if !o.held ∧ srcs.any (fun t => s.prov (o.tile t)) then some (s.setOp { o with held := true }) else none

/-- The MLOOPs that add to a lineage's Δ. -/
def State.deltaOps (s : State) (l : Lineage) : List TileOp :=
  (s.quads.filter (fun (q : Quad) => q.core == l.core)).flatMap (fun (q : Quad) => q.queue.filter (fun o => o.delta == some l.tag))
/-- Δ is complete (R331, R333). -/
def State.deltaDone (s : State) (l : Lineage) : Bool := !l.remote && !l.complete && l.opens == 0 && (s.deltaOps l).isEmpty

/-- Adds a dependent of a lineage (R330). -/
def State.addSpur (s : State) (l : Lineage) (o : TileOp) (srcs : List Nat) (dst : Option Nat) (op : SpurOp) : State :=
  let ps := srcs.eraseDups.filter (fun t => s.prov (o.tile t))
  let depth := ((ps.map l.depth).foldl max 0) + 1
  s.setLineage { l with spurs := l.spurs ++ [{ srcs := ps, dst, op, depth, landed := l.firsts.length }] }

/-- Gives a new lineage its tag: a settled one of that tag is gone, and what it held may end (R340, R346). -/
def State.newLineage (s : State) (l : Lineage) : State :=
  let old := s.lineages.filter (fun x => x.core == l.core && x.tag == l.tag)
  (old.foldl (fun (t : State) (x : Lineage) => t.settleBlock x.root.b)
    { s with lineages := s.lineages.filter (fun x => !(x.core == l.core && x.tag == l.tag)) }).setLineage l

/-- Publishes a tile under a new lineage; none where no tag is free (R331, R333). -/
def State.publish (s : State) (core : Nat) (root : TileRef) (opens : Nat) : Option (Nat × State) :=
  (s.newTag core).map (fun tag => (tag, s.newLineage { core, tag, root, remote := false, opens }))

/-- Closes the open MPUB lineage of a tile (R334). -/
def State.closeRoot (s : State) (r : TileRef) : State :=
  { s with lineages := s.lineages.map (fun l => if l.root = r then { l with opens := 0 } else l) }

/-! ### Reads and writes of the quads (R291, R307, R461) -/

/-- What stops a quad's access. -/
inductive Stop where
  | fault (va cause : Nat)
  | mismatch
  | poison (va : Nat)
  /-- The access goes to another device: its answer is awaited. -/
  | wait
  /-- A residue check has failed (R303, R322, R342). -/
  | struck
  /-- ATS refuses a host address (R448, R461). -/
  | refused (va : Nat)
  /-- No miss-status entry is free: the access waits for one (R151). -/
  | noRoom
  deriving DecidableEq, Repr

/-- Nothing has gone wrong: what is awaited comes by itself. -/
def Stop.passes : Stop → Bool
  | .noRoom => true
  | _ => false

/-- Reads bytes behind a pointer as the operand fetcher does: relaxed, through the core's L1, or at the point of a
synchronising pointer's scope (R291); what fills the L1 takes a miss-status entry (R151). -/
def Ctx.fetchBytes (x : Ctx) (p : PtrBits) (a n : Nat) (s : State) : Except Stop (List Byte) × State :=
  let q := x.find p false a n s
  match q.1 with
  | .mismatch => (.error .mismatch, q.2)
  | .fault va c => (.error (.fault va c), q.2)
  | .poison _ => (.error (.poison a), q.2)
  | .at_ ls =>
    if q.2.atsRefuses x.l.vif p then (.error (.refused a), q.2)
    else
      let need := if pClass p = 2 then q.2.missingAt x.g.core p ls else q.2.missing x.g.core ls
      if !q.2.missRoom x.g.core need then (.error .noRoom, q.2)
      else
      let t := q.2.takeMisses x.g.core x.l.vif need
      let r := if pClass p = 2 then t.pointRead (x.via p) ls else t.readLocs (x.via p) ls
      match r.1 with
      | some bs => (.ok bs, r.2)
      | none => (.error (.poison a), r.2)

/-- The elements of an MLOAD or MDRAIN.mem in their order, with the index of each (R304, R307). -/
def tileIdx (i : Int) (stride : Nat) : List (Nat × Nat × Int) :=
  (List.range 1024).map (fun k => (k / 16, k % 16, i + ((k / 16 * stride : Nat) : Int) + ((k % 16 : Nat) : Int)))

/-- A value that MLOAD reads as its tile element (R304). -/
def mloadValue (fmt x : Nat) : Nat :=
  let v := ldValue fmt false x
  if fp32.isNan v then nan32 else v

/-- Reads the elements of an MLOAD; the first thing that stops it. -/
def Ctx.mloadRead (x : Ctx) (p : PtrBits) (i : Int) (stride : Nat) (s : State) : Except Stop (List Nat) × State :=
  let w := ebits (pFmt p) / 8
  (tileIdx i stride).foldl (fun acc e =>
    match acc.1 with
    | .error _ => acc
    | .ok vs =>
      let r := x.fetchBytes p (elemByte p e.2.2) w acc.2
      match r.1 with
      | .ok bs => (.ok (vs ++ [mloadValue (pFmt p) (leNat bs)]), r.2)
      | .error e => (.error e, r.2)) (.ok [], s)

/-- Where the elements of an MDRAIN.mem lie; what stops it. -/
def Ctx.mdrainFind (x : Ctx) (p : PtrBits) (i : Int) (stride : Nat) (s : State) : Except Stop (List (List Loc)) × State :=
  let w := ebits (pFmt p) / 8
  (tileIdx i stride).foldl (fun acc e =>
    match acc.1 with
    | .error _ => acc
    | .ok ls =>
      let q := x.find p true (elemByte p e.2.2) w acc.2
      match q.1 with
      | .at_ l => if q.2.atsRefuses x.l.vif p then (.error (.refused (elemByte p e.2.2)), q.2) else (.ok (ls ++ [l]), q.2)
      | .fault va c => (.error (.fault va c), q.2)
      | .mismatch => (.error .mismatch, q.2)
      | .poison _ => (.error (.poison (elemByte p e.2.2)), q.2)) (.ok [], s)

/-- The bytes that an MDRAIN.mem writes for an element (R307). -/
def mdrainBytes (fmt : Nat) (rm : Rm) (nosat flush : Bool) (v : Nat) : List Byte :=
  leBytes (ebits fmt / 8) (cvt (.flt (fmtFloat fmt)) (.flt fp32) rm nosat flush v)

/-- A queued instruction's accesses go to another device (R356). -/
def State.sendOp (s : State) (x : Ctx) (o : TileOp) (p : PtrBits) (accs : List PeerAcc) : State :=
  let rank := pBase p / 2 ^ 45
  let r : Request := { id := s.serial, g := o.g, seq := o.seq, rank, at_ := s.time, host := false, key := x.l.key, accs, tileOp := some o.id }
  { s with serial := s.serial + 1, requests := s.requests ++ [r], sent := s.sent ++ [Sent.peer s.serial rank x.l.key accs] }.setOp
    { o with sent := some s.serial }

/-! ### Tile adds (R308, R309, R339) -/

/-- The tile and the rank that an MDRAIN.add's pair names (Table 13-4). -/
def addTarget (t : Nat) : (Nat × Nat × Nat) × Option Nat :=
  ((field t 0 24, field t 24 8, field t 32 4), if field t 48 1 = 1 then some (field t 36 12) else none)

/-- Sends a tile add: to a tile of this device, or to a peer under the number of its request. -/
def State.sendAdd (s : State) (m : Launch) (o : TileOp) (kind : AddKind) (source : Option (Nat × Nat)) (a t : Nat) : State × TileAdd :=
  let q := addTarget t
  let rank := match q.2 with | some r => if r = m.rank then none else some r | none => none
  let vals := tileMap (fun i j => s.tileAt (o.tile a) i j)
  let add : TileAdd := { id := s.serial, g := o.g, seq := o.seq, rank, tgt := { b := ⟨o.g.b.launch, q.1.1⟩, gang := q.1.2.1, t := q.1.2.2 }
                         vals, kind, source, word := o.entry.word, tpc := o.entry.tpc, out := rank.isSome }
  let s1 := { s with serial := s.serial + 1, tileAdds := s.tileAdds ++ [add] }
  match rank with
  | none => (s1, add)
  | some r =>
    let accs : List PeerAcc := [{ va := 0, op := .tileAdd q.1.1 q.1.2.1 q.1.2.2 vals kind }]
    ({ s1 with requests := s1.requests ++ [{ id := add.id, g := o.g, seq := o.seq, rank := r, at_ := s.time, host := false, key := m.key, accs, tileAdd := some add.id }]
               sent := s1.sent ++ [Sent.peer add.id r m.key accs] }, add)

/-- A tile add goes to another device, and no port of this one works (R349). -/
def State.noPort (s : State) (m : Launch) (t : Nat) : Bool :=
  (match (addTarget t).2 with | some r => r != m.rank | none => false) && decide (12 ≤ s.portsFailed.length)

/-- The trap that the leader of a gang takes for a tile add that has failed: it names the instruction and the target's rank (R308, R353,
Table 23-2). -/
def addTrap (cause : Cause) (word tpc rank seq : Nat) (resend : Option Nat := none) : Trap :=
  { cause, info := BitVec.ofNat 64 word, tpc, rank, prec := false, eng := true, seq, resend }

/-- Such an add is answered with FABRIC: its instruction ends, and the leader of its gang traps (R308, R349). -/
def State.addNoPort (s : State) (o : TileOp) (t : Nat) : State :=
  (s.endOp o []).report { o.g with k := o.g.k / 4 * 4 } 0 (addTrap .fabric o.entry.word o.entry.tpc (((addTarget t).2).getD 0) o.seq)

/-- The key of the first of some places. -/
def firstKey (ls : List Loc) : Nat := match ls with | .mem k :: _ => k | _ => 0

/-- A SETTLE that closes the open MPUB lineage of a gang's tile (R334). -/
def TileOp.settles (o : TileOp) (b : BRef) (gang d : Nat) : Bool :=
  o.g.b == b && o.gang == gang && (match o.job with | .settle (some t) => t == d | .settle none => true | _ => false)

/-! ### What an instruction does at its place -/

/-- A queued instruction that is not an MLOOP takes its place: none where it must wait. -/
def State.perform (s : State) (core : Nat) (o : TileOp) : Option State :=
  let held := fun (d : Nat) => s.prov (o.tile d)
  match o.job with
  | .mloop .. =>
    if o.begun ∨ o.delta.isSome then none
    else
      match s.stand o core o.job.reads o.job.writes.head? with
      | .held => s.holdBack o o.job.reads
      | _ => none
  | .mzero d => if held d then none else some ((s.setTile (o.tile d) (fun _ _ => 0)).endOp o [])
  | .tscale d a x =>
    let write := fun (t : State) => (t.setTile (o.tile d) (fun i j => mulNe x (s.tileAt (o.tile a) i j))).endOp o []
    match s.stand o core [a] (some d) with
    | .plain => some (write s)
    | .linear l => some (write (s.addSpur l o [a] (some d) (.tscale x)))
    | .held => s.holdBack o [a]
  | .tadd d a b x y =>
    let write := fun (t : State) =>
      (t.setTile (o.tile d) (fun i j => taddElem x (s.tileAt (o.tile a) i j) y (s.tileAt (o.tile b) i j))).endOp o []
    match s.stand o core [a, b] (some d) with
    | .plain => some (write s)
    | .linear l => some (write (s.addSpur l o [a, b] (some d) (.tadd x y a b)))
    | .held => s.holdBack o [a, b]
  | .mpub d m =>
    if held d then none
    else
      match s.publish core (o.tile d) m with
      | none => some (s.endOp o [])
      | some (tag, s1) =>
        -- the MLOOPs into tD that already stand behind it, before whatever closes it, are counted first
        let count := fun (acc : List TileOp × Nat × Bool) (p : TileOp) =>
          let open_ := (acc.2.2 || p.id == o.id) && !p.settles o.g.b o.gang d
          let mine := acc.2.2 && acc.2.1 != 0 && p.job.isMloop && p.g.b == o.g.b && p.gang == o.gang && p.job.writes == [d] &&
            (match o.closedAt with | some k => decide (p.id < k) | none => true)
          (acc.1 ++ [if mine then { p with delta := some tag } else p], if mine then acc.2.1 - 1 else acc.2.1, open_)
        let q := s1.quadOf core ((s1.quads.find? (fun q => q.queue.any (fun p => p.id == o.id))).map (·.quad) |>.getD 0)
        let r := q.queue.foldl count ([], m, false)
        let s2 := s1.setQuad { q with queue := r.1 }
        let s3 := match s2.lineage? core tag with
          | some l => s2.setLineage { l with opens := if o.closedAt.isSome then 0 else r.2.1 }
          | none => s2
        some (s3.endOp o [])
  | .settle t =>
    let s1 := match t with
      | some t => s.closeRoot (o.tile t)
      | none => s.closeRoots o.g.b o.gang
    let waits := match t with
      | some t => s.prov (o.tile t)
      | none => s.lineageHolds o.g.b o.gang
    if waits then (if s1 = s then none else some s1) else some (s1.endOp o [])
  | .drainReg v a =>
    if held a then none
    else some (s.endOp o ((List.range 16).map (fun j => .v (v + j) allLanes (mkRow (fun i => BitVec.ofNat 32 (s.tileAt (o.tile a) i j))))))
  | .mload d p i r =>
    if held d then none
    else
      match s.opCtx o with
      | none => none
      | some x =>
        let write := fun (t : State) (vs : List Nat) => (t.setTile (o.tile d) (fun a b => vs.getD (16 * a + b) 0)).endOp o []
        if x.remote p then
          (match o.data, o.sent with
            | some ds, _ => some (write s (ds.map (fun (b : Option (List Byte)) => mloadValue (pFmt p) (leNat (b.getD [])))))
            | none, some _ => none
            | none, none =>
              if 12 ≤ s.portsFailed.length then none
              else some (s.sendOp x o p ((tileIdx i r).map (fun e => { va := elemByte p e.2.2 % 2 ^ 45, op := PeerOp.load (ebits (pFmt p) / 8) }))))
        else
          (match x.mloadRead p i r s with
            | (.ok vs, t) => some (write t vs)
            | (.error _, _) => none)
  | .drainMem fmt rm nosat p a i r =>
    if held a then none
    else
      match s.opCtx o with
      | none => none
      | some x =>
        let bytes := fun (e : Nat × Nat × Int) => mdrainBytes fmt rm nosat x.l.flush (s.tileAt (o.tile a) e.1 e.2.1)
        if x.remote p then
          (match o.data, o.sent with
            | some _, _ => some (s.endOp o [])
            | none, some _ => none
            | none, none =>
              if 12 ≤ s.portsFailed.length then none
              else some (s.sendOp x o p ((tileIdx i r).map (fun e => { va := elemByte p e.2.2 % 2 ^ 45, op := PeerOp.store (bytes e) }))))
        else
          (match x.mdrainFind p i r s with
            | (.ok ls, t) =>
              -- what goes to the host is performed at its bridge, as a store through the pointer is
              let put := fun (u : State) (y : List Loc × Nat × Nat × Int) => u.hostStore { x.via p with sync := false } (firstKey y.1) (bytes y.2)
              let ws := (ls.zip (tileIdx i r)).flatMap (fun y => y.1.zip (bytes y.2))
              some ((if pHost p then (ls.zip (tileIdx i r)).foldl put t else t.writeLocs (x.via p) ws).endOp o [])
            | (.error _, _) => none)
  | .drainAdd a t =>
    match s.launch? o.g.b.launch, o.sent with
    | some m, none =>
      (match (if o.refused then (if held a then Stand.held else .plain) else s.stand o core [a] none) with
        | .held => if o.refused then none else s.holdBack o [a]
        | .plain =>
          if s.noPort m t.toNat then some (s.addNoPort o t.toNat)
          else
            let q := s.sendAdd m o .plain none a t.toNat
            some (q.1.setOp { o with sent := some q.2.id })
        | .linear l =>
          if s.noPort m t.toNat then some (s.addNoPort o t.toNat)
          else
          let q := s.sendAdd m o .first (some (l.core, l.tag)) a t.toNat
          some ((q.1.addSpur l o [a] none (.remote q.2)).setOp { o with sent := some q.2.id }))
    | _, _ => none

/-- The instruction's group is there, or it is an add of a block that has ended, which runs on (R309, R418). -/
def State.opLives (s : State) (o : TileOp) : Bool :=
  (s.group? o.g).isSome ||
    (match o.job, s.block? o.g.b with
    | .drainAdd .., some b => b.place == .exited
    | _, _ => false)

/-- The next queued instruction of a quad that may take its place, and the state in which it has (R297). -/
def State.placed (s : State) (core quad : Nat) : Option State :=
  let q := s.quadOf core quad
  q.queue.findSome? (fun o =>
    if o.suspended ∨ !s.opLives o ∨ !s.clearBefore o q.queue then none else s.perform core o)

/-- The queued instructions of a quad that may take their place do so, in order (R297). -/
def State.advance (core quad : Nat) : Nat → State → State
  | 0, s => s
  | n + 1, s =>
    match s.placed core quad with
    | some t => State.advance core quad n t
    | none => s

/-- Advances every quad of a core. -/
def State.advanceCore (s : State) (core : Nat) : State :=
  (List.range 8).foldl (fun (t : State) (k : Nat) => t.advance core k 64) s

/-- Puts an instruction into its quad's queue; an MLOOP that an open lineage counts adds to its Δ, unless a SETTLE that closes it stands
before it (R297, R333, R334). -/
def State.enqueue (s : State) (x : Ctx) (i : Instr) (job : TileJob) (owed rows : Lanes := 0) : State :=
  let o : TileOp := { id := s.serial, g := x.c.g, gang := x.c.g.gang, seq := x.g.seq, entry := x.entry i, frag := x.f.lanes, job
                      owed, rows, locked := job.isMloop }
  let counts := fun (l : Lineage) => job.isMloop && !l.remote && l.opens != 0 && job.writes == [l.root.t] && l.root.b == o.g.b && l.root.gang == o.gang &&
    !(s.quadOf x.g.core x.g.quad).queue.any (fun p => p.settles l.root.b l.root.gang l.root.t)
  let q := s.quadOf x.g.core x.g.quad
  let s1 := { s with serial := s.serial + 1 }
  match s1.lineages.find? counts with
  | some l => (s1.setQuad { q with queue := q.queue ++ [{ o with delta := some l.tag }] }).setLineage { l with opens := l.opens - 1 }
  | none => s1.setQuad { q with queue := q.queue ++ [o] }

/-- The issue of a tile instruction: it enters the queue, counted in its flag where it sets one (R297, R300). Its quad has accepted it, so it
counts no more among its group's 16 (R415). -/
def Ctx.queue (x : Ctx) (s : State) (i : Instr) (job : TileJob) (owed rows : Lanes := 0) : State × Flow :=
  let s1 := s.enqueue x i job owed rows
  let s2 := if i.setsFlag then s1.setGroup (x.g.begin { entry := x.entry i, frag := x.f.lanes, doing := .quad, counted := false }) else s1
  (s2.advance x.g.core x.g.quad 64, .step)

end Sys2Proof.Machine
end

