-- ==== Sys2Proof/Machine/MloopData.lean ====
section
/-! DEFINITION. What an MLOOP reads and computes: the rows of A, the columns of B and their scales for a step (13 R290 to R296),
adapter directory entries, the adapter cache and the adapter term of a row (14 R312 to R320). -/

namespace Sys2Proof.Machine

open Sys2Proof

/-! ### Operands of a step -/

/-- The fields of an MLOOP's job. -/
structure MJob where
  x : MloopArgs
  aptr : PtrBits
  aslot : SlotInfo
  bslot : SlotInfo
  soa : Int
  sob : Int
  ids : List Nat
  ads : List AdEnt
  adk : Nat
  adn : Nat
  deriving DecidableEq, Repr

/-- The MLOOP of a queued instruction. -/
def TileOp.mjob (o : TileOp) : Option MJob :=
  match o.job with
  | .mloop x aptr aslot bslot soa sob ids ads adk adn => some { x, aptr, aslot, bslot, soa, sob, ids, ads, adk, adn }
  | _ => none

/-- The number of steps. -/
def MJob.n (j : MJob) : Nat := j.x.n1.val + 1

/-- The element index of a row's first element in a step (R290). -/
def MJob.elem (j : MJob) (r s : Nat) : Int := mloopElem j.x r s

/-- The elements of a bit string of a format. -/
def bitElems (fmt n : Nat) (x : Nat) : List FVal := (List.range n).map (fun k => slotElem fmt (x / 2 ^ (ebits fmt * k) % 2 ^ ebits fmt))

/-- A byte of a scale tensor (R244). -/
def Ctx.scaleAt (x : Ctx) (k : SlotInfo) (i : Int) (s : State) : Except Stop (Option (Bool × Nat × Int)) × State :=
  let r := x.fetchBytes k.sptr (pBase k.sptr + i.toNat) 1 s
  (r.1.map (fun bs => scaleVal k.scale (leNat bs)), r.2)

/-- The scales of a row's 32 elements: one, or one for each where they lie in two blocks (R295, R296). -/
def Ctx.rowScale (x : Ctx) (k : SlotInfo) (e so : Int) (s : State) : Except Stop BlkScale × State :=
  if k.scale = 0 then (.ok (.one unitScale), s)
  else
    let lo := (e + so) / 32
    let hi := (e + 31 + so) / 32
    let a := x.scaleAt k lo s
    if lo = hi then (a.1.map BlkScale.one, a.2)
    else
      let b := x.scaleAt k hi a.2
      match a.1, b.1 with
      | .ok p, .ok q => (.ok (.each ((List.range 32).map (fun (i : Nat) => if (e + (i : Int) + so) / 32 = lo then p else q))), b.2)
      | .error z, _ => (.error z, b.2)
      | _, .error z => (.error z, b.2)

/-- The addresses of a step's rows, as requests to a peer. -/
def MJob.peerAccs (j : MJob) (step : Nat) : List PeerAcc :=
  (List.range 64).map (fun r => { va := elemByte j.aptr (j.elem r step) % 2 ^ 45, op := .load (4 * ebits j.aslot.fmt) })

/-- Row r of A in a step, with its scales. -/
def State.aRow (s : State) (x : Ctx) (o : TileOp) (j : MJob) (step r : Nat) : Except Stop (List FVal × BlkScale) × State :=
  match j.x.a with
  | .tile t =>
    (.ok ((List.range 32).map (fun k => fp32.value (s.tileAt (o.tile (t.val + 2 * step + k / 16)) r (k % 16))), .one unitScale), s)
  | .ptr .. =>
    let e := j.elem r step
    let n := 4 * ebits j.aslot.fmt
    let got : Except Stop (List Byte) × State :=
      if x.remote j.aptr then
        match o.data with
        | none => (.error .wait, s)
        | some ds => ((match ds.getD r none with | some bs => .ok bs | none => .error (.poison (elemByte j.aptr e))), s)
      else x.fetchBytes j.aptr (elemByte j.aptr e) n s
    match got.1 with
    | .error z => (.error z, got.2)
    | .ok bs =>
      let sc := x.rowScale j.aslot e j.soa got.2
      (sc.1.map (fun k => (bitElems j.aslot.fmt 32 (leNat bs), k)), sc.2)

/-- Element (k, c) of B in a step, out of a member's run (R293); an absent member's quarter is zero (R288). The fixed-latency writes that the
member issued before have completed, and none can have been issued since; what an outstanding one covered by a flag will write may be
read already (R294). -/
def State.bElem (s : State) (o : TileOp) (j : MJob) (step k c : Nat) : FVal :=
  match s.group? ⟨o.g.b, 4 * o.gang + k / 8⟩ with
  | none => .num false 0 0
  | some g0 =>
    let g := { g0 with young := [] }
    let eb := ebits j.bslot.fmt
    let off := eb * (128 * step + 16 * (k % 8) + c)
    let word := fun (w : Nat) => (g.readV s.tick (20 + k / 8) (j.x.vb.val + w / 64) (w % 64)).toNat
    slotElem j.bslot.fmt ((word (off / 32) + 2 ^ 32 * word (off / 32 + 1)) / 2 ^ (off % 32) % 2 ^ eb)

/-- Column c of B in a step with its scale. -/
def State.bCol (s : State) (x : Ctx) (o : TileOp) (j : MJob) (step c : Nat) : Except Stop (List FVal × Option (Bool × Nat × Int)) × State :=
  let col := (List.range 32).map (fun k => s.bElem o j step k c)
  if j.bslot.scale = 0 then (.ok (col, unitScale), s)
  else
    let r := x.scaleAt j.bslot ((16 * step + c : Nat) + j.sob / 32) s
    (r.1.map (fun k => (col, k)), r.2)

/-- Collects the answers of a list of reads, or the first stop. -/
def collect {α : Type} (f : Nat → State → Except Stop α × State) (ks : List Nat) (s : State) : Except Stop (List α) × State :=
  ks.foldl (fun acc k =>
    match acc.1 with
    | .error _ => acc
    | .ok xs =>
      let r := f k acc.2
      (r.1.map (fun y => xs ++ [y]), r.2)) (.ok [], s)

/-! ### Adapters -/

/-- A directory entry, and whether it is valid with its reserved bits zero (Table 14-1). -/
def adEntry (id m : Nat) : AdEnt × Bool :=
  ({ id, gen := field m 318 16, rank := 16 * (field m 315 2 + 1), alpha := field m 256 32, slot := field m 312 3, ldn := field m 288 24
     aptr := pFix (BitVec.ofNat 128 (field m 0 128)), bptr := pFix (BitVec.ofNat 128 (field m 128 128)) },
   field m 317 1 == 1 && field m 334 178 == 0)

/-- The format slot of an entry is one that an adapter may use (R317, check 3). -/
def Ctx.adSlot (x : Ctx) (e : AdEnt) : Bool :=
  let k := x.l.slots.getD e.slot default
  x.l.hdr.fmtmask.testBit e.slot && (k.fmt == 8 || k.fmt == 9 || k.fmt == 0x0C || k.fmt == 0x0D) && k.scale == 0
/-- Its format. -/
def Ctx.adFmt (x : Ctx) (e : AdEnt) : Nat := (x.l.slots.getD e.slot default).fmt

/-- Checks 4 and 5 of R317 for one pointer, its range aside. -/
def Ctx.adForm (x : Ctx) (p : PtrBits) (fmt : Nat) : Bool :=
  pValid p && (pGlobal p || pHost p) && pFmt p == fmt && unitOk x.g.core x.b p && pBase p % (ebits fmt / 8) == 0
/-- Checks 4 and 5 of R317 for one pointer: `top` is the largest index. -/
def Ctx.adPtr (x : Ctx) (p : PtrBits) (fmt top : Nat) : Bool := x.adForm p fmt && inBounds p 0 (top + 1)

/-- The largest indices that the term uses of A_id and of B_id (R313). -/
def AdEnt.topA (e : AdEnt) (k0 n : Nat) : Nat := (k0 + 32 * n) * e.rank - 1
def AdEnt.topB (e : AdEnt) (n0 : Nat) : Nat := (e.rank - 1) * e.ldn + n0 + 15

/-- The entry passes checks 3 to 5 of R317. -/
def Ctx.adOk (x : Ctx) (e : AdEnt × Bool) (k0 n n0 : Nat) : Bool :=
  e.2 && x.adSlot e.1 && decide (16 ≤ e.1.ldn) && x.adPtr e.1.aptr (x.adFmt e.1) (e.1.topA k0 n) && x.adPtr e.1.bptr (x.adFmt e.1) (e.1.topB n0)

/-- The place of a directory entry. -/
def Ctx.adPlace (x : Ctx) (id : Nat) : Nat := pBase x.l.adirPtr + 64 * id

/-- Bytes read at the package point of their home, with no cache of a core filled (R317, R319); none where they are poison. -/
def State.peekLocs (s : State) (vif : Nat) (ls : List Loc) : Option (List Byte) × State :=
  ls.foldl (fun acc l =>
    match acc.1, l with
    | some bs, .mem k | some bs, .home k =>
      let r := acc.2.homeRead vif k 1
      (r.1.map (fun y => bs ++ y), r.2)
    | _, _ => (none, acc.2)) (some [], s)

/-- R317 for each id in turn: what the entries hold. -/
def Ctx.adChecks (x : Ctx) (i : Instr) (rows : Nat → Lanes) (n k0 n0 : Nat) (k : List AdEnt → State → Except Trap (State × Flow)) :
    List Nat → List AdEnt → State → Except Trap (State × Flow)
  | [], acc, s => k acc s
  | id :: ids, acc, s =>
    let bad : Except Trap (State × Flow) := .error (x.trap .adir (rows id) id)
    if x.l.hdr.adids < id then bad
    else
      -- the entry's bytes, and its place again for each row, so that what stops the read names every row that carries the id
      let at_ := fun (l b : Nat) => { lane := l, j := b, bit := 8 * (x.adPlace id + b) : Elem }
      let els := (List.range 64).map (at_ (lowest (rows id))) ++ (lanesOf (rows id)).map (fun l => at_ l 0)
      x.access s i (pSet x.l.adirPtr 103 6 0) false .read els fun ls s1 =>
        let q := s1.peekLocs x.l.vif ((ls.take 64).flatMap (·.2))
        match q.1 with
        | none => .ok (x.endsIn q.2 i (x.memerr (rows id) (x.adPlace id)))
        | some bs =>
          let e := adEntry id (leNat bs)
          if x.adOk e k0 n n0 then Ctx.adChecks x i rows n k0 n0 k ids (acc ++ [e.1]) q.2 else bad

/-- The tag of a chunk (R318). -/
structure CTag where
  core : Nat
  vif : Nat
  ctx : Nat
  dir : Nat
  id : Nat
  gen : Nat
  isB : Bool
  c : Nat
  deriving DecidableEq, Repr

/-- The chunk has a tag. -/
def AChunk.is (k : AChunk) (t : CTag) : Bool :=
  k.core == t.core && k.vif == t.vif && k.ctx == t.ctx && k.dir == t.dir && k.id == t.id && k.gen == t.gen && k.isB == t.isB && k.c == t.c

/-- The tag of a chunk of an entry, on the core. -/
def Ctx.tag (x : Ctx) (e : AdEnt) (isB : Bool) (c : Nat) : CTag :=
  { core := x.g.core, vif := x.l.vif, ctx := x.l.ctx, dir := pBase x.l.adirPtr, id := e.id, gen := e.gen, isB, c }

/-- The chunks of bytes [lo, hi). -/
def chunkSpan (lo hi : Nat) : List Nat := (List.range ((hi + 4095) / 4096 - lo / 4096)).map (lo / 4096 + ·)

/-- The chunks that rows K0 on of A_id, and columns N0 on of B_id, need (R320, R327). -/
def Ctx.chunksA (x : Ctx) (e : AdEnt) (k0 n : Nat) : List CTag :=
  let w := ebits (x.adFmt e) / 8
  (chunkSpan (k0 * e.rank * w) ((e.topA k0 n + 1) * w)).map (x.tag e false)
def Ctx.chunksB (x : Ctx) (e : AdEnt) (n0 : Nat) : List CTag :=
  let w := ebits (x.adFmt e) / 8
  (((List.range e.rank).flatMap (fun q => chunkSpan ((q * e.ldn + n0) * w) ((q * e.ldn + n0 + 16) * w))).eraseDups).map (x.tag e true)

/-- Every chunk that an id needs. -/
def Ctx.chunksOf (x : Ctx) (e : AdEnt) (k0 n n0 : Nat) : List CTag := x.chunksA e k0 n ++ x.chunksB e n0

/-- A chunk is held. -/
def State.chunk? (s : State) (t : CTag) : Option AChunk := s.chunks.find? (fun k => k.is t)

/-- An MLOOP that runs pins a chunk (R318); one of an evicted block does not (R323). -/
def AChunk.pinned (k : AChunk) : Bool := !k.pins.isEmpty

/-- Pins the chunks of an instruction. -/
def State.pin (s : State) (id : Nat) (ts : List CTag) : State :=
  { s with chunks := s.chunks.map (fun k => if ts.any k.is ∧ !k.pins.contains id then { k with pins := id :: k.pins } else k) }

/-- Stores a chunk: where the core's cache is full it takes the place of an unpinned one; with none, it is not kept (R318). -/
def State.putChunk (s : State) (k : AChunk) : State :=
  let mine := s.chunks.filter (fun y => y.core == k.core)
  if mine.length < 256 then { s with chunks := s.chunks ++ [k] }
  else
    match mine.filter (fun y => !y.pinned) with
    | [] => s
    | y :: ys =>
      let out := choose y s.tick (2 ^ 42 + k.c) (y :: ys)
      { s with chunks := s.chunks.filter (fun z => z != out) ++ [k] }

/-- The bytes of a chunk as memory holds them at their homes: the part that lies inside its pointer. -/
def Ctx.readChunk (x : Ctx) (p : PtrBits) (c : Nat) (s : State) : Except Stop (List (Option Byte)) × State :=
  let n := min 4096 (pLen p - 4096 * c)
  let a := pBase p + 4096 * c
  let q := x.find p false a n s
  match q.1 with
  | .fault va k => (.error (.fault va k), q.2)
  | .mismatch => (.error .mismatch, q.2)
  | .poison _ => (.error (.poison a), q.2)
  | .at_ ls =>
    if q.2.atsRefuses x.l.vif p then (.error (.refused a), q.2)
    else
    let r := q.2.peekLocs x.l.vif ls
    match r.1 with
    | none => (.error (.poison a), r.2)
    | some bs => (.ok (bs.map some ++ List.replicate (4096 - n) none), r.2)

/-- Fills the chunks that are absent, and pins all of them (R318, R320). -/
def State.fillChunks (s : State) (x : Ctx) (pins : List Nat) (e : AdEnt) (ts : List CTag) : Except Stop Unit × State :=
  ts.foldl (fun acc t =>
    match acc.1 with
    | .error _ => acc
    | .ok _ =>
      if (acc.2.chunk? t).isSome then (.ok (), pins.foldl (fun (u : State) (id : Nat) => u.pin id [t]) acc.2)
      else
        let r := x.readChunk (if t.isB then e.bptr else e.aptr) t.c acc.2
        match r.1 with
        | .error z => (.error z, r.2)
        | .ok bytes =>
          (.ok (), r.2.putChunk { core := t.core, vif := t.vif, ctx := t.ctx, dir := t.dir, id := t.id, gen := t.gen, isB := t.isB, c := t.c, bytes, pins })) (.ok (), s)

/-- An element of A_id or B_id: out of its chunk, or as memory holds it. -/
def State.adElem (s : State) (x : Ctx) (e : AdEnt) (isB : Bool) (i : Nat) : Except Stop FVal × State :=
  let fmt := x.adFmt e
  let w := ebits fmt / 8
  let off := i * w
  let p := if isB then e.bptr else e.aptr
  let held := (s.chunk? (x.tag e isB (off / 4096))).map (fun k => (k.bytes.drop (off % 4096)).take w)
  match held.bind (fun bs => if bs.all (·.isSome) then some (bs.map (fun b => b.getD 0)) else none) with
  | some bs => (.ok (slotElem fmt (leNat bs)), s)
  | none =>
    let q := x.find p false (pBase p + off) w s
    match q.1 with
    | .at_ ls =>
      if q.2.atsRefuses x.l.vif p then (.error (.refused (pBase p + off)), q.2)
      else
        let r := q.2.peekLocs x.l.vif ls
        ((match r.1 with | some bs => .ok (slotElem fmt (leNat bs)) | none => .error (.poison (pBase p + off))), r.2)
    | .fault va c => (.error (.fault va c), q.2)
    | .mismatch => (.error .mismatch, q.2)
    | .poison _ => (.error (.poison (pBase p + off)), q.2)

/-- What one step adds to u[q] of a row whose A elements are known (R313). -/
def State.downStep (s : State) (x : Ctx) (e : AdEnt) (k0 step q u : Nat) (a : List FVal × BlkScale) : Except Stop Nat × State :=
  let col := collect (fun i t => t.adElem x e false ((k0 + 32 * step + i) * e.rank + q)) (List.range 32) s
  (col.1.map (fun ys => addNe u (blockSum a.1 ys a.2 unitScale)), col.2)

/-- u of R313: one element of the down-projection of a row. -/
def State.downProj (s : State) (x : Ctx) (e : AdEnt) (k0 : Nat) (xs : List (List FVal × BlkScale)) (q : Nat) : Except Stop Nat × State :=
  (List.range xs.length).foldl (fun (acc : Except Stop Nat × State) (k : Nat) =>
    match acc.1, xs[k]? with
    | .ok u, some a => acc.2.downStep x e k0 k q u a
    | _, _ => acc) (.ok 0, s)

/-- The rows that hit, with their entries: each has its term formed out of the stream of A (R320). -/
def TileOp.hits (o : TileOp) (j : MJob) : List (Nat × AdEnt) :=
  (lanesOf (o.owed &&& ~~~o.rows)).filterMap (fun r => (j.ads.find? (fun e => e.id == j.ids.getD r 0)).map (fun e => (r, e)))

/-- u of the rows that hit after a step whose rows of A are known, and the rows that are pending: one whose chunks an eviction has taken
becomes so, and its chunks are filled again and its row read again (R320, R323). -/
def State.streamU (s : State) (x : Ctx) (o : TileOp) (j : MJob) (step : Nat) (rows : List (List FVal × BlkScale)) :
    Except Stop (Sparse Word × Lanes) × State :=
  (o.hits j).foldl (fun (acc : Except Stop (Sparse Word × Lanes) × State) (h : Nat × AdEnt) =>
    match acc.1, rows[h.1]? with
    | .ok m, some a =>
      if (x.chunksOf h.2 j.adk j.n j.adn).any (fun t => (acc.2.chunk? t).isNone) then (.ok (m.1, m.2 ||| oneLane h.1), acc.2)
      else
        let us := collect (fun q t => t.downStep x h.2 j.adk step q (sgetD m.1 (64 * h.1 + q) 0).toNat a) (List.range h.2.rank) acc.2
        (us.1.map (fun vs => ((List.range h.2.rank).foldl (fun n q => sput 0 n (64 * h.1 + q) (BitVec.ofNat 32 (vs.getD q 0))) m.1, m.2)), us.2)
    | _, _ => acc) (.ok (o.u, o.rows), s)

/-- The block sums of a step, row by row (R296), and what it makes of u and of the pending rows. -/
def State.stepSums (s : State) (x : Ctx) (o : TileOp) (j : MJob) (step : Nat) : Except Stop (List Nat × Sparse Word × Lanes) × State :=
  let bs := collect (fun c t => t.bCol x o j step c) (List.range 16) s
  let as_ := collect (fun r t => t.aRow x o j step r) (List.range 64) bs.2
  match as_.1, bs.1 with
  | .ok rows, .ok cols =>
    let u := as_.2.streamU x o j step rows
    (u.1.map (fun m => (rows.flatMap (fun a => cols.map (fun b => blockSum a.1 b.1 a.2 b.2)), m)), u.2)
  | .error z, _ => (.error z, as_.2)
  | _, .error z => (.error z, as_.2)

/-- u of a row: what the stream has given where its id hit, else out of A read again (R320). A peer's data stand here step by step. -/
def State.rowU (s : State) (x : Ctx) (o : TileOp) (j : MJob) (e : AdEnt) (r : Nat) : Except Stop (List Nat) × State :=
  if !o.rows.getLsbD r then (.ok ((List.range e.rank).map (fun q => (sgetD o.u (64 * r + q) 0).toNat)), s)
  else
    let at_ := fun (k : Nat) => { o with data := o.data.map (fun ds => List.replicate 64 (ds.getD k none)) }
    let rows := collect (fun k t => t.aRow x (at_ k) j k r) (List.range j.n) s
    match rows.1 with
    | .error z => (.error z, rows.2)
    | .ok xs => collect (fun q t => t.downProj x e j.adk xs q) (List.range e.rank) rows.2

/-- The adapter term of a row, column by column, without the last addition (R313). -/
def State.adTerm (s : State) (x : Ctx) (o : TileOp) (j : MJob) (e : AdEnt) (r : Nat) : Except Stop (List Nat) × State :=
  let us := s.rowU x o j e r
  match us.1 with
  | .error z => (.error z, us.2)
  | .ok uv =>
    collect (fun c t =>
      let bs := collect (fun q u => u.adElem x e true (q * e.ldn + j.adn + c)) (List.range e.rank) t
      (bs.1.map (fun ys =>
        let w := sumNe ((uv.zip ys).map (fun (p : Nat × FVal) => FVal.prod (fp32.value p.1) p.2))
        mulNe e.alpha w), bs.2)) (List.range 16) us.2

end Sys2Proof.Machine
end

