-- ==== Sys2Proof/Machine/Matrix.lean ====
section
/-! DEFINITION. The matrix instructions (13 R290 to R310) and the steps of an MLOOP at its quad (13 R296, R301, 15 R331, R333). -/

namespace Sys2Proof.Machine

open Sys2Proof

/-! ### Checks at issue -/

/-- The formats of A through a pointer and of B (R290, R293). -/
def mFmt (fmt : Nat) : Bool := fmt == 8 || fmt == 9 || fmt == 0x0C || fmt == 0x0D || isBfp fmt

/-- The spaces that a tile instruction reads and writes through (Table 5-4, step 2). -/
def mSpace (p : PtrBits) : Bool := pGlobal p || pHost p || pPeer p || pOwnScratch p

/-- The checks of a tile instruction's pointer over the indices from `lo` to `hi` (R300, step 3). -/
def Ctx.spanChecks (x : Ctx) (s : State) (p : PtrBits) (fmtOk writes : Bool) (lo hi : Int) : Except Trap Unit :=
  let eb := ebits (pFmt p)
  let byte := (elemBit p hi + eb + 7) / 8 - pBase p
  (x.checkPtr s p (mSpace p) writes lo).bind fun _ =>
  (x.need fmtOk .access).bind fun _ =>
  (x.need (inBounds p lo 1) .bounds (wrap 64 lo)).bind fun _ =>
  (x.need (inBounds p hi 1) .bounds (wrap 64 hi)).bind fun _ =>
  (x.need (decide (eb < 8) || elemByte p lo % (eb / 8) == 0) .align (elemByte p lo)).bind fun _ =>
  x.need (x.inWindow p (pBase p) byte) .access

/-- A scale index from `lo` to `hi` is in bounds (R244, R300, step 4). -/
def Ctx.scaleChecks (x : Ctx) (k : SlotInfo) (lo hi : Int) : Except Trap Unit :=
  if k.scale = 0 then .ok ()
  else
    (x.need (inBounds k.sptr lo 1) .bounds (wrap 64 lo)).bind fun _ =>
    x.need (inBounds k.sptr hi 1) .bounds (wrap 64 hi)

/-- The smallest and the largest index of A (R290). -/
def MJob.span (j : MJob) : Int × Int := mloopSpan j.x

/-- Step 2 of R300: the slots, strides, offsets and the run of B. -/
def Ctx.mloopShape (x : Ctx) (j : MJob) : Bool :=
  let a := j.aslot
  let b := j.bslot
  x.c.g.k % 4 == 0 && mFmt b.fmt && x.runOk j.x.vb.val ((j.n * ebits b.fmt + 15) / 16) &&
    (if b.scale = 0 then j.x.sob.val == 0 else j.sob % 32 == 0) &&
    (match j.x.a with
      | .tile _ => j.x.soa.val == 0
      | .ptr .. => mFmt a.fmt && (!isBfp a.fmt || (j.x.ra.toNat % 32 == 0 && j.x.ka.toNat % 32 == 0)) &&
          (if a.scale = 0 then j.x.soa.val == 0 else !isBfp a.fmt || j.soa % 32 == 0))

/-- Steps 3 and 4 of R300. -/
def Ctx.mloopReads (x : Ctx) (s : State) (j : MJob) : Except Trap Unit :=
  let a : Except Trap Unit := match j.x.a with
    | .tile _ => .ok ()
    | .ptr .. =>
      (x.spanChecks s j.aptr (pFmt j.aptr == j.aslot.fmt) false j.span.1 j.span.2).bind fun _ =>
      x.scaleChecks j.aslot ((j.span.1 + j.soa) / 32) ((j.span.2 + j.soa) / 32)
  a.bind fun _ => x.scaleChecks j.bslot (j.sob / 32) (((16 * j.n - 1 : Nat) : Int) + j.sob / 32)

/-- Adds one to the misses of an id on a core for a launch (Table 14-4). -/
def State.miss (s : State) (core launch id : Nat) : State :=
  let n := ((s.misses.find? (fun m => m.1 == core && m.2.1 == launch && m.2.2.1 == id)).map (fun m => m.2.2.2)).getD 0
  { s with misses := upsert (fun m => m.1 == core && m.2.1 == launch && m.2.2.1 == id) (core, launch, id, n + 1) s.misses }

/-- The adapter ids of the rows (R312). -/
def Ctx.adIds (x : Ctx) (v : Src) : List Nat :=
  (List.range 64).map (fun l =>
    match v with
    | .v r _ => if x.g.present.getLsbD l then (x.v .c r.val 0 l).toNat % 65536 else 0
    | .s r => (x.s .c r.val 0).toNat % 65536)

/-- The rows that carry an id. -/
def idRows (ids : List Nat) (id : Nat) : Lanes := mkLanes (fun l => ids.getD l 0 == id)

/-- MLOOP's fields as its issue reads them. -/
def Ctx.mjob (x : Ctx) (m : MloopArgs) : MJob :=
  let off := fun (k : SlotInfo) (r : SReg) => if k.scale = 0 then 0 else signed 32 (x.s .d r.val 0).toNat
  let a : PtrBits × SlotInfo × List Nat := match m.a with
    | .ptr p k ad => (x.a .a p.val, x.slot k, match ad with | some v => x.adIds v | none => [])
    | .tile _ => (0, default, [])
  { x := m, aptr := a.1, aslot := a.2.1, bslot := x.slot m.bslot, soa := off a.2.1 m.soa, sob := off (x.slot m.bslot) m.sob
    ids := a.2.2, ads := [], adk := x.g.adk.toNat, adn := x.g.adn.toNat }

/-- The queue entry of an MLOOP. -/
def MJob.job (j : MJob) : TileJob := .mloop j.x j.aptr j.aslot j.bslot j.soa j.sob j.ids j.ads j.adk j.adn

/-- MLOOP's effect at issue (R298 to R301, R312, R317, R320). -/
def mloopBody (c : Ctl) (m : MloopArgs) : Body := fun x s =>
  let me := Instr.mloop c m
  let j := x.mjob m
  (x.need (x.mloopShape j) .illegal).bind fun _ =>
  (x.mloopReads s j).bind fun _ =>
  let ids := sortBy (fun a b => decide (a ≤ b)) ((j.ids.filter (fun i => i != 0)).eraseDups)
  if ids.isEmpty then .ok (x.queue s me j.job)
  else
    x.adChecks me (idRows j.ids) j.n j.adk j.adn (fun ads s1 =>
      let chunks := fun (e : AdEnt) => x.chunksOf e j.adk j.n j.adn
      let gone := ads.filter (fun e => (chunks e).any (fun t => (s1.chunk? t).isNone))
      let owed := mkLanes (fun l => j.ids.getD l 0 != 0)
      let rows := mkLanes (fun l => gone.any (fun e => e.id == j.ids.getD l 0))
      let s2 := gone.foldl (fun (t : State) (e : AdEnt) => t.miss x.g.core x.l.id e.id) s1
      let s3 := s2.pin s2.serial (ads.flatMap chunks)
      .ok (x.queue s3 me { j with ads }.job owed rows)) ids [] s

/-- MLOOP (R298 to R303). The residue check of .rc never finds a fault in what the model computes. -/
def execMloop (c : Ctl) (m : MloopArgs) (s : State) : Host.Outcome State Fault Refusal := s.run (.mloop c m) (mloopBody c m)

/-! ### The other instructions of the queue -/

/-- MZERO (R304). -/
def execMzero (c : Ctl) (d : TReg) (s : State) : Host.Outcome State Fault Refusal :=
  s.run (.mzero c d) (fun x s => .ok (x.queue s (.mzero c d) (.mzero d.val)))

/-- The index and the stride of MLOAD and MDRAIN.mem, and their checks (R304, R307). -/
def Ctx.tileSpan (x : Ctx) (s : State) (p : PtrBits) (fmtOk writes : Bool) (i r : SReg) : Except Trap (Int × Nat) :=
  let lo := signed 32 (x.s .b i.val 0).toNat
  let stride := (x.s .c r.val 0).toNat
  (x.spanChecks s p fmtOk writes lo (lo + ((63 * stride + 15 : Nat) : Int))).map (fun _ => (lo, stride))

/-- MLOAD's effect at issue. -/
def mloadBody (c : Ctl) (d : TReg) (p : AReg) (i r : SReg) : Body := fun x s =>
  let ptr := x.a .a p.val
  let f := pFmt ptr
  (x.tileSpan s ptr (f == 0x0A || f == 8 || f == 9) false i r).map fun y => x.queue s (.mload c d p i r) (.mload d.val ptr y.1 y.2)

/-- MLOAD (R304). -/
def execMload (c : Ctl) (d : TReg) (p : AReg) (i r : SReg) (s : State) : Host.Outcome State Fault Refusal :=
  s.run (.mload c d p i r) (mloadBody c d p i r)

/-- MDRAIN.reg (R306). -/
def execMdrainReg (c : Ctl) (d : VReg) (a : TReg) (s : State) : Host.Outcome State Fault Refusal :=
  s.run (.mdrainReg c d a) (fun x s => .ok (x.queue s (.mdrainReg c d a) (.drainReg d.val a.val)))

/-- MDRAIN.mem's effect at issue (R307). -/
def mdrainMemBody (c : Ctl) (slot : Slot) (rm : Rm) (nosat : Bool) (p : AReg) (a : TReg) (i r : SReg) : Body := fun x s =>
  let k := x.slot slot
  let ptr := x.a .d p.val
  let fmtOk := k.fmt == 0x0A || k.fmt == 8 || k.fmt == 9 || k.fmt == 0x0C || k.fmt == 0x0D
  (x.need (fmtOk && k.scale == 0) .illegal).bind fun _ =>
  (x.tileSpan s ptr (pFmt ptr == k.fmt) true i r).map fun y =>
    x.queue s (.mdrainMem c slot rm nosat p a i r) (.drainMem k.fmt rm nosat ptr a.val y.1 y.2)

/-- MDRAIN.mem (R307). -/
def execMdrainMem (c : Ctl) (slot : Slot) (rm : Rm) (nosat : Bool) (p : AReg) (a : TReg) (i r : SReg) (s : State) :
    Host.Outcome State Fault Refusal := s.run (.mdrainMem c slot rm nosat p a i r) (mdrainMemBody c slot rm nosat p a i r)

/-- The gangs of a block of a launch (R20). -/
def Launch.gangs (l : Launch) : Nat := (l.thr + 255) / 256

/-- The target pair names a tile of the launch, or a rank of the team; a tile at the device's own rank is one of this device (R308,
R354). -/
def Ctx.addOk (x : Ctx) (s : State) (t : Nat) : Bool :=
  let q := addTarget t
  let exists_ := decide (q.1.1 < x.l.nblk) && decide (q.1.2.1 < x.l.gangs) && decide (q.1.2.2 < x.l.hdr.tiles)
  field t 49 15 == 0 &&
    (match q.2 with
      | none => field t 36 12 == 0 && exists_
      | some r => s.feature x.l.vif 6 && decide (r < x.l.team) && (r != x.l.rank || exists_))

/-- MDRAIN.add's effect at issue (R308). -/
def mdrainAddBody (c : Ctl) (a : TReg) (t : SReg) : Body := fun x s =>
  let w := x.s2 .b t
  (x.need (x.addOk s w) .access).map fun _ => x.queue s (.mdrainAdd c a t) (.drainAdd a.val (BitVec.ofNat 64 w))

/-- MDRAIN.add (R308, R309, R339). -/
def execMdrainAdd (c : Ctl) (a : TReg) (t : SReg) (s : State) : Host.Outcome State Fault Refusal :=
  s.run (.mdrainAdd c a t) (mdrainAddBody c a t)

/-- TADD (R305). -/
def execTadd (c : Ctl) (d a b : TReg) (y : SReg) (s : State) : Host.Outcome State Fault Refusal :=
  s.run (.tadd c d a b y) (fun x s =>
    .ok (x.queue s (.tadd c d a b y) (.tadd d.val a.val b.val (x.s .c y.val 0).toNat (x.s .c y.val 1).toNat)))

/-- TSCALE (R305). -/
def execTscale (c : Ctl) (d a : TReg) (y : SReg) (s : State) : Host.Outcome State Fault Refusal :=
  s.run (.tscale c d a y) (fun x s => .ok (x.queue s (.tscale c d a y) (.tscale d.val a.val (x.s .c y.val 0).toNat)))

/-- The word of Table 13-5. -/
def State.mstatWord (s : State) (r : TileRef) : Nat :=
  let i := s.tileInfo r
  let mine := s.allOps.filter (fun o => o.job.isMloop && o.g.b == r.b && o.gang == r.gang && o.job.writes == [r.t])
  let any := fun (p : Nat → Bool) => (List.range 1024).any (fun k => p (s.tileAt r (k / 16) (k % 16)))
  fieldSum [(16, i.radd % 65536), (7, i.done), (6, b01 (mine.any (·.suspended))), (5, b01 (any fp32.isNan)),
    (4, b01 (any (fun v => v % 2 ^ 31 == fp32.infBits))), (3, b01 (s.prov r)), (2, b01 (mine.any (fun o => o.rows != 0)))]

/-- MSTAT (R310). -/
def execMstat (c : Ctl) (d : SReg) (a : TReg) (s : State) : Host.Outcome State Fault Refusal :=
  s.run (.mstat c d a) (fun x s =>
    let w := s.mstatWord { b := x.c.g.b, gang := x.c.g.gang, t := a.val }
    .ok (s.setGroup (x.g.begin { entry := x.entry (.mstat c d a), frag := x.f.lanes, res := toS false d w }), .step))

/-! ### Steps of an MLOOP -/

/-- An MLOOP's first step may be made: the state in which it has begun (R335 to R337). -/
def State.mloopBegin (s : State) (core : Nat) (o : TileOp) (d : Nat) : Option State :=
  if o.begun then some s
  else
    let begin_ := fun (t : State) => (t.setOp { o with begun := true }).setTileInfo (o.tile d) { t.tileInfo (o.tile d) with done := 0 }
    match o.delta with
    | some _ => if o.job.reads.any (fun t => s.prov (o.tile t)) then none else some (begin_ s)
    | none =>
      match s.stand o core o.job.reads (some d) with
      | .plain => some (begin_ s)
      | .linear l => some (begin_ (s.addSpur l o o.job.reads (some d) (.mloop o.id)))
      | .held => none

/-- Puts a tile instruction aside: it is suspended, its count leaves its flag, and an outstanding operation of its group, at its place in the
order of issue, stands for it in the replay queue (R302, R461). `o.entry` keeps the flag in which it counts again: none where its flag has
cleared, or clears, before it is done (R331). -/
def State.suspend (s : State) (o : TileOp) (tags : List Nat) : State :=
  match s.group? o.g with
  | none => s.setOp { o with suspended := true, data := none, sent := none }
  | some g =>
    let mine := fun (p : Pend) => p.entry.seq == o.seq && (p.doing == .quad || p.doing == .ready)
    let flag := if o.suspended then o.entry.flag else (g.pend.find? mine).bind (fun p => if p.doing = .quad then p.entry.flag else none)
    let g1 := (g.pend.filter mine).foldl (fun (h : Group) p => h.countOut p.entry.flag) g
    let mk : Pend := { entry := { o.entry with flag := none }, frag := o.frag, doing := .quad, tags }
    let pend := g1.pend.filter (fun p => !mine p && decide (p.entry.seq < o.seq)) ++ mk :: g1.pend.filter (fun p => !mine p && decide (o.seq ≤ p.entry.seq))
    (s.setOp { o with suspended := true, data := none, sent := none, entry := { o.entry with flag } }).setGroup { g1 with pend }

/-- A suspended instruction's group traps before its next issue. -/
def State.opTrap (s : State) (o : TileOp) (t : Trap) : State :=
  s.report o.g (lowest o.entry.lanes) { o.entry.late t with tpc := o.entry.tpc, lanes := o.entry.lanes }

/-- A tile instruction is stopped (R302, R461): its group sleeps on the fault record, which is a blocking point, or traps. -/
def State.stopOp (s : State) (x : Ctx) (o : TileOp) (kind : AccKind) (rank : Nat) : Stop → State
  | .fault va c =>
    let q := s.faultRecord { tag := 0, vif := x.l.vif, ctx := x.l.ctx, va, kind, cause := c, launch := x.l.id
                             source := x.g.core, die := dieOf x.g.core, block := o.g.b.block, time := 0 }
    (q.2.suspend o [q.1]).reachPoint o.g.b o.gang
  | .mismatch => (s.suspend o []).opTrap o { cause := .access }
  | .poison va => (s.suspend o []).opTrap o { cause := .memerr, info := BitVec.ofNat 64 (va / 32 * 32) }
  | .wait => (s.suspend o []).opTrap o { cause := .fabric, rank }
  | .struck => (s.suspend o []).opTrap o { cause := .softerr }
  | .refused va => (s.suspend o []).opTrap o { cause := .access, info := BitVec.ofNat 64 va }
  | .noRoom => s

/-- The MLOOP whose step the quad runs next: one it has begun, or the first in the queue that may begin (R297). -/
def State.nextMloop (s : State) (core quad : Nat) : Option (TileOp × MJob × State) :=
  let q := (s.quadOf core quad).queue
  let one := fun (begun : Bool) (o : TileOp) =>
    match o.mjob with
    | none => none
    | some j =>
      if o.begun ≠ begun ∨ o.suspended ∨ o.awaits ∨ j.n ≤ o.step ∨ (s.group? o.g).isNone ∨ !s.clearBefore o q then none
      else (s.mloopBegin core o j.x.d.val).bind (fun t => (t.op? o.id).map (fun p => (p, j, t)))
  (q.findSome? (one true)).or (q.findSome? (one false))

/-- Adds values to an MLOOP's destination: its tile, or the Δ that it adds to. An element with no value stays. -/
def State.contribute (s : State) (core : Nat) (o : TileOp) (d : Nat) (v : Nat → Nat → Option Nat) : State :=
  let add := fun (old : Nat) (x : Option Nat) => match x with | some y => addNe old y | none => old
  match o.delta.bind (s.lineage? core) with
  | some l => s.setLineage { l with delta := tileMap (fun i j => add (mapAt l.delta i j) (v i j)) }
  | none => s.setTile (o.tile d) (fun i j => add (s.tileAt (o.tile d) i j) (v i j))

/-- The publish step has been reached: the tile is published, or the publication is declined (R331). -/
def State.mloopPublish (s : State) (core : Nat) (o : TileOp) (j : MJob) : State :=
  if j.x.p.val = 0 ∨ o.step ≠ j.x.p.val ∨ o.delta.isSome ∨ o.declined then s
  else
    let r := o.tile j.x.d.val
    match (if s.prov r then none else s.publish core r 0) with
    | some (tag, t) => (t.setOp { o with delta := some tag, published := true }).readyOp o []
    | none => s.setOp { o with declined := true }

/-- The op is a dependent whose correction is still owed (R338). -/
def State.isSpur (s : State) (id : Nat) : Bool := s.lineages.any (fun l => l.spurs.any (fun p => p.op == .mloop id && p.corr.isNone))

/-- What follows an MLOOP's last step, or its last adapter term: it is done; a dependent waits for its correction, with its
run locked, and one that has published keeps its run until its Δ is complete (R331, R338). -/
def State.mloopEnd (s : State) (id : Nat) : State :=
  match s.op? id with
  | none => s
  | some o =>
    match o.mjob with
    | none => s
    | some j =>
      if o.step < j.n then s
      else
        let spur := s.isSpur id
        let o1 := { o with locked := spur || (o.published && o.owed != 0) }
        if o.owed ≠ 0 then s.setOp o1
        else if spur then (s.setOp { o1 with awaits := true }).readyOp o []
        else s.endOp o []

/-- One step's sums enter the destination (R296). -/
def State.mloopAdd (s : State) (core : Nat) (o : TileOp) (j : MJob) (vs : List Nat) (u : Sparse Word × Lanes) : State :=
  let d := j.x.d.val
  let o1 := { o with step := o.step + 1, data := none, sent := none, u := u.1, rows := u.2 }
  let s1 := (s.contribute core o d (fun i k => vs[16 * i + k]?)).setOp o1
  let s2 := s1.setTileInfo (o.tile d) { s1.tileInfo (o.tile d) with done := o1.step }
  ((s2.mloopPublish core o1 j).mloopEnd o.id).advanceCore core

/-- The next piece of an MLOOP's work: a step of it, or the reads of its A at a peer. -/
def State.mloopWork (s : State) (core quad : Nat) : Option State :=
  match s.nextMloop core quad with
  | none => none
  | some (o, j, s1) =>
    match s1.opCtx o with
    | none => none
    | some x =>
      match s1.stepSums x o j o.step with
      | (.ok vs, s2) =>
        let q := x.blockCheck j.x.rc s2
        some (if q.1 then q.2.mloopAdd core o j vs.1 vs.2 else (q.2.stopOp x o .read 0 .struck).advanceCore core)
      | (.error .wait, s2) =>
        if o.sent.isSome ∨ 12 ≤ s2.portsFailed.length then none else some (s2.sendOp x o j.aptr (j.peerAccs o.step))
      | (.error _, _) => none

/-- A step of the MLOOP that a quad runs (R296, R297, R301). -/
def execMloopStep (core quad : Nat) (s : State) : Host.Outcome State Fault Refusal := .next ((s.mloopWork core quad).getD s)

/-! ### What stops a quad (R302, R461) -/

/-- What stops the instruction that stands at its place, if anything does: an MLOAD or an MDRAIN.mem. -/
def State.quadStop (s : State) (core quad : Nat) : Option (TileOp × AccKind × Nat × Stop × State × Ctx) :=
  let q := (s.quadOf core quad).queue
  q.findSome? (fun o =>
    if o.suspended ∨ !s.clearBefore o q then none
    else
      match s.opCtx o with
      | none => none
      | some x =>
        let out := fun (p : PtrBits) (k : AccKind) =>
          if o.data.isNone ∧ o.sent.isNone ∧ 12 ≤ s.portsFailed.length then some (o, k, pBase p / 2 ^ 45, Stop.wait, s, x) else none
        match o.job with
        | .mload d p i r =>
          if s.prov (o.tile d) then none
          else if x.remote p then out p .read
          else (match x.mloadRead p i r s with
            | (.error e, t) => if e.passes then none else some (o, AccKind.read, 0, e, t, x)
            | _ => none)
        | .drainMem _ _ _ p a i r =>
          if s.prov (o.tile a) then none
          else if x.remote p then out p .write
          else (match x.mdrainFind p i r s with
            | (.error e, t) => some (o, AccKind.write, 0, e, t, x)
            | _ => none)
        | _ => none)

/-- The accesses of an MLOAD or an MDRAIN.mem at its place: they stop it, or, as after its return from a trap or a sleep, it performs them
(R461). -/
def execQuadAccessFault (core quad : Nat) (s : State) : Host.Outcome State Fault Refusal :=
  match s.quadStop core quad with
  | some (o, kind, rank, e, t, x) => .next ((t.stopOp x o kind rank e).advanceCore core)
  | none => .next (s.advanceCore core)

/-! ### Tile adds at their target (R308, R309, R339) -/

/-- How an add that reaches its target ends. -/
inductive Landed where
  /-- It waits: for the target block to start, or for an MLOOP that uses the tile. -/
  | waits
  | done (s : State)
  | refused
  /-- It names no tile. -/
  | fails

/-- The source of an add as its target's lineage knows it: the rank and the number of the first add. -/
def TileAdd.key (a : TileAdd) : Nat × Nat := a.src.getD (4096, a.id)

/-- An MLOOP that adds to the tile itself, or reads it, has begun and has steps left. -/
def State.tileBusy (s : State) (r : TileRef) : Bool :=
  s.allOps.any (fun o => o.begun && o.job.isMloop && o.g.b == r.b && o.gang == r.gang && o.touches.contains r.t)

/-- An add reaches its target (R308, R309, R337, R339). -/
def State.landAdd (s : State) (a : TileAdd) : Landed :=
  let r := a.tgt
  let exists_ : Bool := match s.launch? r.b.launch with
    | some l => decide (r.b.block < l.nblk) && decide (r.gang < l.gangs) && decide (r.t < l.hdr.tiles)
    | none => false
  let add := fun (t : State) =>
    let t1 := t.addTile r a.vals
    t1.setTileInfo r { t1.tileInfo r with radd := (t1.tileInfo r).radd + 1 }
  if s.unstarted r.b then (if exists_ then .waits else .fails)
  else
    match s.block? r.b with
    | none => if a.src.isSome then .fails else .done s
    | some b =>
      if !exists_ then .fails
      else if b.place = .exited then .done s
      -- a Δ that is complete goes into its root before an add that lands later (R341)
      else if s.tileBusy r || (match s.lineageOf r with | some l => l.root == r && s.deltaDone l | none => false) then .waits
      else
        match a.kind with
        | .plain => .done (add s)
        | .second first =>
          let k : Nat × Nat := (((a.src.map (·.1))).getD 4096, first)
          let t := add s
          .done { t with lineages := t.lineages.map (fun l => if l.root = r ∧ l.remote ∧ !l.settled then { l with corrections := l.corrections ++ [(k, a.vals)] } else l) }
        | .first =>
          match s.lineageOf r with
          | some l => if l.remote ∧ l.root = r then .done ((add s).setLineage { l with firsts := l.firsts ++ [a.key] }) else .refused
          | none =>
            match s.gangCore r.b r.gang with
            | none => .refused
            | some core =>
              match s.newTag core with
              | none => .refused
              | some tag => .done ((add s).newLineage { core, tag, root := r, remote := true, opens := 0, firsts := [a.key] })

/-- The spur entry of an add's source that stands for it. -/
def Spur.ofAdd (p : Spur) (id : Nat) : Bool := match p.op with | .remote a => a.id == id | _ => false

/-- Removes an add from those under way. -/
def State.dropAdd (s : State) (id : Nat) : State := { s with tileAdds := s.tileAdds.filter (fun a => a.id != id) }

/-- The core of a group. -/
def State.coreOf (s : State) (r : GRef) : Nat := match s.group? r with | some g => g.core | none => 0

/-- The MDRAIN.add that an add came from. -/
def State.addOp (s : State) (id : Nat) : Option TileOp := s.allOps.find? (fun o => o.sent == some id)

/-- An ordinary or a first add has been performed: its instruction's flag clears (R308, R339). -/
def State.addDone (s : State) (a : TileAdd) : State :=
  let s1 := { s.dropAdd a.id with
    lineages := s.lineages.map (fun (l : Lineage) => { l with spurs := l.spurs.map (fun (p : Spur) => if p.ofAdd a.id then { p with gone := true } else p) }) }
  match s1.addOp a.id with
  | some o => (s1.endOp o []).advanceCore (s1.coreOf o.g)
  | none => s1

/-- The target has refused a first add: the instruction waits for its source to settle (R339). -/
def State.addRefused (s : State) (a : TileAdd) : State :=
  let s1 := { s.dropAdd a.id with
    lineages := s.lineages.map (fun (l : Lineage) => { l with spurs := l.spurs.filter (fun (p : Spur) => !p.ofAdd a.id) }) }
  match s1.addOp a.id with
  | some o => (s1.setOp { o with refused := true, sent := none }).advanceCore (s1.coreOf o.g)
  | none => s1

/-- Answers a peer: the response carries its request's key (R352, Table 16-4). -/
def State.answerPeer (s : State) (src : Nat × Nat) (key : Nat) (a : PeerAnswer) : State :=
  { s with sent := s.sent ++ [Sent.answer src.1 key src.2 a] }

/-- The quads of the core that holds a tile go on. -/
def State.wakeTile (s : State) (r : TileRef) : State := match s.gangCore r.b r.gang with | some c => s.advanceCore c | none => s

/-- An ordinary or a first add that reaches a tile of this device (R308, R309, R339). -/
def execRemoteTileAdd (id : Nat) (s : State) : Host.Outcome State Fault Refusal :=
  let second := fun (a : TileAdd) => match a.kind with | .second _ => true | _ => false
  match s.tileAdds.find? (fun a => a.id == id && !a.out && !second a) with
  | none => .next s
  | some a =>
    match s.landAdd a, a.src with
    | .waits, _ => .next s
    | .done t, some src => .next (((t.dropAdd id).answerPeer src a.jobKey (.performed [])).wakeTile a.tgt)
    | .refused, some src => .next ((s.dropAdd id).answerPeer src a.jobKey .addRefused)
    | .fails, some src => .next ((s.dropAdd id).answerPeer src a.jobKey .addFails)
    | .done t, none => .next ((t.addDone a).wakeTile a.tgt)
    | .refused, none => .next (s.addRefused a)
    | .fails, none => .next (s.addDone a)

end Sys2Proof.Machine
end

