-- ==== Sys2Proof/Machine/Adapter.lean ====
section
/-! DEFINITION. The adapter-cache instructions (14 R325 to R328), and the fills and row replays of an MLOOP.ad (14 R320 to
R323). -/

namespace Sys2Proof.Machine

open Sys2Proof

/-- A chunk belongs to the launch's directory on the group's core. -/
def Ctx.ownChunk (x : Ctx) (k : AChunk) : Bool :=
  k.core == x.g.core && k.vif == x.l.vif && k.ctx == x.l.ctx && k.dir == pBase x.l.adirPtr

/-- An AFLUSH names the chunk. -/
def Ctx.flushes (x : Ctx) (id : Option Nat) (k : AChunk) : Bool :=
  x.ownChunk k && (match id with | some i => k.id == i | none => true)

/-- Drops the chunks that an AFLUSH names: at once where no MLOOP pins them, else as they are unpinned (R326). -/
def State.flushChunks (s : State) (x : Ctx) (id : Option Nat) : State :=
  let kept := s.chunks.filter (fun k => !x.flushes id k || k.pinned)
  { s with chunks := kept.map (fun (k : AChunk) => if x.flushes id k then { k with doomed := true } else k) }

/-- AFLUSH (R326): its flag clears once every chunk it names is gone. -/
def execAflush (c : Ctl) (f : AflushForm) (s : State) : Host.Outcome State Fault Refusal :=
  s.run (.aflush c f) (fun x s =>
    let id : Option Nat := match f with
      | .id r => some ((x.s .a r.val 0).toNat % 65536)
      | .all => none
    .ok ((s.flushChunks x id).setGroup (x.g.begin { entry := x.entry (.aflush c f), frag := x.f.lanes, doing := .aflush id }), .step))

/-- Reads a directory entry as step 2 of R317 does, without a fault; none for an id that has none. -/
def Ctx.peekEntry (x : Ctx) (id : Nat) (s : State) : Option (AdEnt × Bool) × State :=
  if id = 0 ∨ x.l.hdr.adids < id then (none, s)
  else
    let q := x.find x.l.adirPtr false (x.adPlace id) 64 s
    match q.1 with
    | .at_ ls =>
      let r := q.2.peekLocs x.l.vif ls
      (r.1.map (fun bs => adEntry id (leNat bs)), r.2)
    | _ => (none, q.2)

/-- Check 3 of R317. -/
def Ctx.entryOk (x : Ctx) (e : AdEnt × Bool) : Bool := e.2 && x.adSlot e.1 && decide (16 ≤ e.1.ldn)

/-- APREF (R327): what a check would refuse does nothing; the range is that of the pointer that it fetches through. -/
def execApref (c : Ctl) (f : AprefForm) (s : State) : Host.Outcome State Fault Refusal :=
  s.run (.apref c f) (fun x s =>
    let id := match f with
      | .a i _ _ => (x.s .a i.val 0).toNat
      | .b i _ => (x.s .a i.val 0).toNat
    let q := x.peekEntry id s
    match q.1 with
    | none => .ok (q.2, .step)
    | some e =>
      let want : Bool × List CTag := match f with
        | .a _ k n1 =>
          let k0 := (x.s .b k.val 0).toNat
          (x.adPtr e.1.aptr (x.adFmt e.1) (e.1.topA k0 (n1.val + 1)), x.chunksA e.1 k0 (n1.val + 1))
        | .b _ n =>
          let n0 := (x.s .b n.val 0).toNat
          (x.adPtr e.1.bptr (x.adFmt e.1) (e.1.topB n0), x.chunksB e.1 n0)
      let forms := x.adForm e.1.aptr (x.adFmt e.1) && x.adForm e.1.bptr (x.adFmt e.1)
      .ok (if x.entryOk e && forms && want.1 then (q.2.fillChunks x [] e.1 want.2).2 else q.2, .step))

/-- The word of Table 14-4, and of Table 14-5. -/
def State.astatId (s : State) (x : Ctx) (id : Nat) (e : Option (AdEnt × Bool)) : Nat :=
  let mine := s.chunks.filter (fun k => x.flushes (some id) k)
  let held := match e with
    | some e => if x.entryOk e then (mine.filter (fun k => k.gen == e.1.gen)).length else 0
    | none => 0
  let miss := ((s.misses.find? (fun m => m.1 == x.g.core && m.2.1 == x.l.id && m.2.2.1 == id)).map (fun m => m.2.2.2)).getD 0
  fieldSum [(17, miss % 32768), (8, held), (7, b01 (mine.any AChunk.pinned))]
def State.astatCache (s : State) (x : Ctx) : Nat :=
  fieldSum [(9, (s.chunks.filter (fun k => k.core == x.g.core && k.pinned)).length), (0, (s.chunks.filter x.ownChunk).length)]

/-- ASTAT (R328). -/
def execAstat (c : Ctl) (f : AstatForm) (s : State) : Host.Outcome State Fault Refusal :=
  s.run (.astat c f) (fun x s =>
    let end_ := fun (t : State) (d : SReg) (w : Nat) =>
      (t.setGroup (x.g.begin { entry := x.entry (.astat c f), frag := x.f.lanes, res := toS false d w }), Flow.step)
    match f with
    | .id d i =>
      let id := (x.s .a i.val 0).toNat % 65536
      let q := x.peekEntry id s
      .ok (end_ q.2 d (q.2.astatId x id q.1))
    | .cache d => .ok (end_ s d (s.astatCache x)))

/-! ### Fills and replays -/

/-- The entries whose rows wait for chunks. -/
def TileOp.missed (o : TileOp) (j : MJob) : List AdEnt :=
  j.ads.filter (fun e => o.rows &&& idRows j.ids e.id != 0)

/-- The ids whose rows wait for a fill. -/
def TileOp.unfilled (o : TileOp) (j : MJob) : List AdEnt := (o.missed j).filter (fun e => !o.filled.contains e.id)

/-- Fills every chunk that an id needs (R320). -/
def State.fillId (s : State) (x : Ctx) (o : TileOp) (j : MJob) (e : AdEnt) : Except Stop Unit × State :=
  s.fillChunks x [o.id] e (x.chunksOf e j.adk j.n j.adn)

/-- The first id whose fill nothing stops, and the state after it: no id waits for another's (R320). -/
def State.fillNext (s : State) (x : Ctx) (o : TileOp) (j : MJob) : Option (Nat × State) :=
  if o.suspended then none
  else (o.unfilled j).findSome? (fun e => match s.fillId x o j e with | (.ok _, t) => some (e.id, t) | _ => none)

/-- What stops the first id that has no chunks yet. -/
def State.fillStop (s : State) (x : Ctx) (o : TileOp) (j : MJob) : Option (Stop × State) :=
  if (s.fillNext x o j).isSome then none
  else (o.unfilled j).findSome? (fun e => match s.fillId x o j e with | (.error z, t) => some (z, t) | _ => none)

/-- The fills of an id's missing chunks are complete (R320). -/
def execAdapterChunkFill (_g : GangRef) (op : Nat) (s : State) : Host.Outcome State Fault Refusal :=
  match s.op? op with
  | none => .next s
  | some o =>
    match o.mjob, s.opCtx o with
    | some j, some x =>
      (match s.fillNext x o j with
        | some (id, t) => .next (t.setOp { o with filled := id :: o.filled })
        | none => .next s)
    | _, _ => .next s

/-- The row whose adapter term is formed next: those of the hits, then pending ones whose chunks are there. -/
def TileOp.nextRow (o : TileOp) (j : MJob) : Option Nat :=
  if o.suspended ∨ o.step < j.n ∨ o.owed = 0 then none
  else if o.owed &&& ~~~o.rows ≠ 0 then some (lowest (o.owed &&& ~~~o.rows))
  else (lanesOf o.rows).find? (fun r => o.filled.contains (j.ids.getD r 0))

/-- The MLOOP has made its steps, its other rows have their terms, and rows are left that no fill has reached: what stops their fills
suspends it (R322). -/
def TileOp.fillStuck (o : TileOp) (j : MJob) : Bool :=
  !o.suspended && decide (j.n ≤ o.step) && o.rows != 0 && (o.nextRow j).isNone

/-- Forms and adds the adapter term of one row (R313, R320, R321). -/
def State.replayRow (s : State) (x : Ctx) (o : TileOp) (j : MJob) (r : Nat) : Except Stop State :=
  match j.ads.find? (fun e => e.id == j.ids.getD r 0) with
  | none => .ok s
  | some e =>
    match s.adTerm x o j e r with
    | (.error .wait, t) =>
      if o.sent.isSome then .ok s
      else if 12 ≤ s.portsFailed.length then .error .wait
      else
        let accs := (List.range j.n).map (fun k => { va := elemByte j.aptr (j.elem r k) % 2 ^ 45, op := PeerOp.load (4 * ebits j.aslot.fmt) : PeerAcc })
        .ok (t.sendOp x o j.aptr accs)
    | (.error e, _) => .error e
    | (.ok vs, t0) =>
      let q := x.blockCheck j.x.rc t0
      let t := q.2
      if !q.1 then .ok ((t.stopOp x { o with rows := o.rows ||| oneLane r } .read 0 .struck).advanceCore x.g.core)
      else
      let left := ~~~(oneLane r)
      let o1 := { o with owed := o.owed &&& left, rows := o.rows &&& left, data := none, sent := none }
      let t1 := (t.contribute x.g.core o j.x.d.val (fun i k => if i = r then vs[k]? else none)).setOp o1
      .ok ((t1.mloopEnd o.id).advanceCore x.g.core)

/-- A row of an MLOOP.ad receives its term (R313, R320). -/
def execAdapterRowReplay (_g : GangRef) (op : Nat) (s : State) : Host.Outcome State Fault Refusal :=
  match s.op? op with
  | none => .next s
  | some o =>
    match o.mjob, s.opCtx o with
    | some j, some x =>
      (match o.nextRow j with
        | none => .next s
        | some r => (match s.replayRow x o j r with | .ok t => .next t | .error _ => .next s))
    | _, _ => .next s

end Sys2Proof.Machine
end

