-- ==== Sys2Proof/Machine/Lineage.lean ====
section
/-! DEFINITION. Provisional tiles (15 R329 to R346): MPUB, SETTLE and LINQ, the corrections of a lineage and how it settles,
and what suspends an MLOOP (13 R302). -/

namespace Sys2Proof.Machine

open Sys2Proof

/-- MPUB (R332, R333). -/
def execMpub (c : Ctl) (d : TReg) (m1 : Fin 16) (s : State) : Host.Outcome State Fault Refusal :=
  s.run (.mpub c d m1) (fun x s => .ok (x.queue s (.mpub c d m1) (.mpub d.val (m1.val + 1))))

/-- SETTLE (R343). -/
def execSettle (c : Ctl) (f : SettleForm) (s : State) : Host.Outcome State Fault Refusal :=
  s.run (.settle c f) (fun x s =>
    .ok (x.queue s (.settle c f) (.settle (match f with | .tile t => some t.val | .all => none))))

/-- A second add owed to a remote target by a tile of the lineage has not been performed. -/
def Lineage.owes (l : Lineage) (t : Nat) : Bool :=
  l.spurs.any (fun p => p.dst.isNone && p.corr.isNone && p.srcs.contains t)

/-- The word of Table 15-3. The steps left of a root exceed the field's range only where several MLOOPs are counted; the
spec states no value there. -/
def State.linqWord (s : State) (core : Nat) (r : TileRef) : Nat :=
  let live := (s.lineages.filter (fun (l : Lineage) => l.core == core && !l.settled)).length
  match s.lineageOf r with
  | none => live
  | some l =>
    let root := l.root == r
    let ops := s.deltaOps l
    let left := (ops.map (fun o => match o.mjob with | some j => j.n - o.step | none => 0)).sum
    let role := if root then (if l.remote then 3 else 1) else 2
    let rpend := l.owes r.t ||
      (if root then (if l.remote then decide (l.corrections.length < l.firsts.length) else !l.complete)
       else l.spurs.any (fun p => p.dst == some r.t && p.corr.isNone))
    fieldSum [(26, l.tag), (24, role), (21, l.depth r.t), (18, l.deps r.t),
      (9, if role = 1 then (if left ≤ 256 then left else Config.free s.tick (2 ^ 43) % 257) else 0),
      (8, b01 (root && ops.any (fun o => o.rows != 0))), (7, b01 rpend), (0, live)]

/-- LINQ (R344). -/
def execLinq (c : Ctl) (d : SReg) (a : TReg) (s : State) : Host.Outcome State Fault Refusal :=
  s.run (.linq c d a) (fun x s =>
    let w := s.linqWord x.g.core { b := x.c.g.b, gang := x.c.g.gang, t := a.val }
    .ok (s.setGroup (x.g.begin { entry := x.entry (.linq c d a), frag := x.f.lanes, res := toS false d w }), .step))

/-! ### Corrections (R335, R338, R339, R341) -/

/-- C of a source tile for a dependent, where it is known. -/
def Lineage.corr (l : Lineage) (p : Spur) (t : Nat) : Option (Sparse Word) :=
  if l.root.t = t then
    if l.remote then
      let mine := (l.firsts.take p.landed).map (fun k => (l.corrections.find? (fun c => c.1 == k)).map (·.2))
      if mine.all (·.isSome) then
        some (tileMap (fun i j => sumNe (mine.map (fun m => fp32.value (mapAt (m.getD []) i j)))))
      else none
    else if l.complete then some l.delta else none
  else (l.spurs.find? (fun q => q.dst == some t)).bind (·.corr)

/-- C of a tile of a consumer; 0 for one that is not provisional. -/
def Lineage.corrAt (l : Lineage) (p : Spur) (t i j : Nat) : Nat :=
  if p.srcs.contains t then mapAt ((l.corr p t).getD []) i j else 0

/-- Every source's C is known. -/
def Lineage.known (l : Lineage) (p : Spur) : Bool := p.srcs.all (fun t => (l.corr p t).isSome)

/-- An MLOOP.at that has begun still reads the tile. -/
def State.tileRead (s : State) (r : TileRef) : Bool :=
  s.allOps.any (fun o => o.begun && !o.awaits && o.job.isMloop && o.g.b == r.b && o.gang == r.gang && o.job.reads.contains r.t)

/-- The correction of an MLOOP.at: its steps over the corrections of its sources (R335). -/
def State.loopCorr (s : State) (x : Ctx) (o : TileOp) (j : MJob) (l : Lineage) (p : Spur) : Except Stop (Sparse Word) × State :=
  let src := match j.x.a with | .tile t => t.val | .ptr .. => 0
  let step := fun (acc : Except Stop (List Nat) × State) (k : Nat) =>
    match acc.1 with
    | .error _ => acc
    | .ok old =>
      let q := collect (fun c t => t.bCol x o j k c) (List.range 16) acc.2
      match q.1 with
      | .error e => (.error e, q.2)
      | .ok cols =>
        let row := fun (r : Nat) => (List.range 32).map (fun i => fp32.value (l.corrAt p (src + 2 * k + i / 16) r (i % 16)))
        let vs := (List.range 64).flatMap (fun r => cols.map (fun b => blockSum (row r) b.1 (.one unitScale) b.2))
        (.ok ((old.zip vs).map (fun y => addNe y.1 y.2)), q.2)
  let r := (List.range j.n).foldl step (.ok (List.replicate 1024 0), s)
  (r.1.map (fun vs => tileMap (fun i c => vs.getD (16 * i + c) 0)), r.2)

/-- The correction of a derived tile; none where it is not to be formed yet. -/
def State.formCorr (s : State) (l : Lineage) (p : Spur) : Option (Except Stop (Sparse Word) × State) :=
  if p.corr.isSome ∨ !l.known p then none
  else
    match p.op with
    | .tscale x => some (.ok (tileMap (fun i j => mulNe x (l.corrAt p (p.srcs.headD 0) i j))), s)
    | .tadd x y a b => some (.ok (tileMap (fun i j => taddElem x (l.corrAt p a i j) y (l.corrAt p b i j))), s)
    | .remote _ => none
    | .mloop id =>
      match s.op? id with
      | none => some (.ok [], s)
      | some o =>
        if !o.awaits ∨ o.suspended then none
        else
          match o.mjob, s.opCtx o with
          | some j, some x => some (s.loopCorr x o j l p)
          | _, _ => none

/-- A derived tile receives its correction. -/
def State.correct (s : State) (l : Lineage) (p : Spur) (c : Sparse Word) : State :=
  let l1 := { l with spurs := l.spurs.map (fun q => if q.dst = p.dst ∧ q.dst.isSome then { q with corr := some c } else q) }
  let s1 := match p.dst with
    | some d => (s.setLineage l1).addTile { l.root with t := d } c
    | none => s
  match p.op with
  | .mloop id => s1.dropOp id
  | _ => s1

/-- The residue checks of a correction, which the unit forms again up to three times (R342): whether one passes, and the state after
them. -/
def Ctx.corrCheck (x : Ctx) (rc : Bool) : Nat → State → Bool × State
  | 0, s => (false, s)
  | n + 1, s =>
    let q := x.blockCheck rc s
    if q.1 then q else x.corrCheck rc n q.2

/-- A derived tile receives the correction that has been formed for it, where its check passes; else its MLOOP's leader traps, and
the handler's return forms it again (R342). -/
def State.correctChecked (s : State) (l : Lineage) (p : Spur) (c : Sparse Word) : State :=
  match p.op with
  | .mloop id =>
    match s.op? id with
    | none => s.correct l p c
    | some o =>
      match o.mjob, s.opCtx o with
      | some j, some x =>
        let q := x.corrCheck j.x.rc 4 s
        if q.1 then q.2.correct l p c else q.2.stopOp x o .read 0 .struck
      | _, _ => s.correct l p c
  | _ => s.correct l p c

/-- One correction of a lineage: its root's Δ, or that of a derived tile whose sources' are known (R335, R341). -/
def execLineageCorrection (core tag : Nat) (s : State) : Host.Outcome State Fault Refusal :=
  match s.lineage? core tag with
  | none => .next s
  | some l =>
    if s.deltaDone l ∧ !s.tileRead l.root then
      .next (((s.addTile l.root l.delta).setLineage { l with complete := true }).advanceCore core)
    else
      let ready := l.spurs.findSome? (fun p =>
        match p.dst with
        | none => none
        | some d =>
          if s.tileRead { l.root with t := d } then none
          else match s.formCorr l p with
            | some (.ok c, t) => some (t.correctChecked l p c)
            | _ => none)
      match ready with
      | some t => .next (t.advanceCore core)
      | none => .next s

/-- Marks a second add as performed. -/
def State.secondDone (s : State) (first : Nat) (c : Sparse Word) : State :=
  { s with lineages := s.lineages.map (fun (l : Lineage) => { l with spurs := l.spurs.map (fun (p : Spur) => if p.ofAdd first then { p with corr := some c } else p) }) }

/-- A second add `a` is dropped, or no answer comes for it: its lineage counts it as dropped, and it is kept, to go again once the leader of
the gang has returned from the trap that reports it (R339, R340). -/
def State.secondDropped (s : State) (a : TileAdd) (first rank : Nat) (c : Cause) : State :=
  let s1 := s.secondDone first a.vals
  { s1 with tileAdds := s1.tileAdds.filter (fun (x : TileAdd) => x.id != a.id) ++ [{ a with dropped := true, out := true, rank := some rank }] }.report
    { a.g with k := a.g.k / 4 * 4 } 0 (addTrap c a.word a.tpc rank a.seq (some a.id))

/-- A dependent on another tile whose second add is due: the lineage, its entry, the first add and C. -/
def State.secondDue (s : State) (first : Nat) : Option (Lineage × TileAdd × Sparse Word) :=
  s.lineages.findSome? (fun (l : Lineage) => l.spurs.findSome? (fun (p : Spur) =>
    match p.op with
    | .remote a =>
      if a.id = first ∧ p.gone ∧ !p.out ∧ p.corr.isNone then (l.corr p (p.srcs.headD 0)).map (fun c => (l, a, c)) else none
    | _ => none))

/-- Sends the second add of a dependent on another device (R339): of the first add `first`, as `a`. -/
def State.sendSecond (s : State) (a : TileAdd) (first rank : Nat) (c : Sparse Word) : State :=
  let id := s.serial
  let kind := AddKind.second first
  let a1 := { a with id, vals := c, kind, out := true, dropped := false }
  if 12 ≤ s.portsFailed.length then { s with serial := id + 1 }.secondDropped a1 first rank .fabric
  else
    let key := match s.launch? a.g.b.launch with | some l => l.key | none => 0
    let accs : List PeerAcc := [{ va := 0, op := .tileAdd a.tgt.b.block a.tgt.gang a.tgt.t c kind }]
    { s with
      serial := id + 1
      tileAdds := s.tileAdds ++ [a1]
      requests := s.requests ++ [{ id, g := a.g, seq := a.seq, rank, at_ := s.time, host := false, key, accs, tileAdd := some id }]
      sent := s.sent ++ [Sent.peer id rank key accs]
      lineages := s.lineages.map (fun (l : Lineage) => { l with spurs := l.spurs.map (fun (p : Spur) => if p.ofAdd first then { p with out := true } else p) }) }

/-- A second add: one that this device owes, named by its first, or one that has come in from a peer (R339). -/
def execCorrectionAdd (id : Nat) (s : State) : Host.Outcome State Fault Refusal :=
  let second := fun (a : TileAdd) => match a.kind with | .second _ => true | _ => false
  match s.tileAdds.find? (fun a => a.id == id && !a.out && second a) with
  | some a =>
    -- one that was dropped goes again (R339)
    (match a.rank, a.kind with
    | some r, .second first => .next ((s.dropAdd id).sendSecond a first r a.vals)
    | _, _ =>
    match s.landAdd a, a.src with
      | .done t, some src => .next (((t.dropAdd id).answerPeer src a.jobKey (.performed [])).wakeTile a.tgt)
      | .fails, some src => .next ((s.dropAdd id).answerPeer src a.jobKey .addFails)
      | _, _ => .next s)
  | none =>
    match s.secondDue id with
    | none => .next s
    | some (_, a, c) =>
      match a.rank with
      | some r => .next (s.sendSecond a a.id r c)
      | none =>
        match s.landAdd { a with kind := .second a.id, vals := c } with
        | .waits => .next s
        | .done t => .next ((t.secondDone a.id c).wakeTile a.tgt)
        | _ => .next (s.secondDone a.id c)

/-! ### Settling (R340) -/

/-- A lineage that has settled gives up its tag and its entries, and what it held goes on (R340, R346). Its tiles have been provisional
no more since it settled. -/
def execLineageSettle (core tag : Nat) (s : State) : Host.Outcome State Fault Refusal :=
  match s.lineage? core tag with
  | none => .next s
  | some l =>
    if l.settled then
      .next ((({ s with lineages := s.lineages.filter (fun (y : Lineage) => !(y.core == core && y.tag == tag)) }).advanceCore core).settleBlock l.root.b)
    else .next s

/-! ### What suspends an MLOOP (R302, R322) -/

/-- What stops the next piece of work of an MLOOP of a quad: a step, a fill or a replay, or a correction. -/
def State.loopStop (s : State) (core quad : Nat) : Option (TileOp × Nat × Stop × State × Ctx) :=
  let rank := fun (j : MJob) => pBase j.aptr / 2 ^ 45
  let step := match s.nextMloop core quad with
    | none => none
    | some (o, j, s1) =>
      match s1.opCtx o with
      | none => none
      | some x =>
        match s1.stepSums x o j o.step with
        | (.ok _, _) => none
        | (.error .wait, t) => if o.sent.isNone ∧ 12 ≤ t.portsFailed.length then some (o, rank j, Stop.wait, t, x) else none
        | (.error e, t) => if e.passes then none else some (o, 0, e, t, x)
  let other := fun (o : TileOp) =>
    match o.mjob, s.opCtx o with
    | some j, some x =>
      let fill := if o.fillStuck j then (s.fillStop x o j).map (fun e => (o, 0, e.1, e.2, x)) else none
      let row := match o.nextRow j with
        | some r => (match s.replayRow x o j r with
          | .error e => if e.passes then none else some ({ o with rows := o.rows ||| oneLane r }, rank j, e, s, x)
          | .ok _ => none)
        | none => none
      let corr := s.lineages.findSome? (fun (l : Lineage) => l.spurs.findSome? (fun (p : Spur) =>
        if p.op = .mloop o.id then (match s.formCorr l p with | some (.error e, t) => if e.passes then none else some (o, 0, e, t, x) | _ => none) else none))
      (fill.or row).or corr
    | _, _ => none
  step.or ((s.quadOf core quad).queue.findSome? other)

/-- An MLOOP is suspended (R302, R322). -/
def execMloopSuspend (core quad : Nat) (s : State) : Host.Outcome State Fault Refusal :=
  match s.loopStop core quad with
  | some (o, rank, e, t, x) => .next ((t.stopOp x o .read rank e).advanceCore core)
  | none => .next s

end Sys2Proof.Machine
end

