-- ==== Sys2Proof/Machine/Fabric.lean ====
section
/-! DEFINITION. RANK, NBR and COLL (16 R357 to R364), with what the switches send back for a collective. -/

namespace Sys2Proof.Machine

open Sys2Proof

/-! ### RANK and NBR -/

/-- The extent of a dimension and the product of those below it (R358). -/
def Launch.ext (l : Launch) (i : Nat) : Nat := max 1 (l.extents.getD i 1)
def Launch.below (l : Launch) (i : Nat) : Nat := ((List.range i).map l.ext).foldl (· * ·) 1
/-- The device's coordinate in a dimension. -/
def Launch.coord (l : Launch) (i : Nat) : Nat := l.rank / l.below i % l.ext i

/-- RANK (R358). -/
def execRank (c : Ctl) (k : RankSel) (d : SReg) (s : State) : Host.Outcome State Fault Refusal :=
  s.fixed (.rank c k d) 4 (fun x =>
    toS false d (match k with
      | .rank => x.l.rank
      | .size => x.l.team
      | .coord i => x.l.coord i.val))

/-- The rank that NBR names (R359). -/
def Launch.nbr (l : Launch) (i : Nat) (nw : Bool) (o : Int) : Nat :=
  let c : Int := (l.coord i : Int) + o
  if nw ∧ (c < 0 ∨ (l.ext i : Int) ≤ c) then 0xFFFFFFFF
  else wrap 32 ((l.rank : Int) + (c % (l.ext i : Int) - (l.coord i : Int)) * (l.below i : Int))

/-- NBR (R359). -/
def execNbr (c : Ctl) (dim : Fin 4) (nw : Bool) (d : SReg) (o : SOrImm) (s : State) : Host.Outcome State Fault Refusal :=
  s.fixed (.nbr c dim nw d o) 6 (fun x =>
    let off := match o with
      | .reg r => signed 32 (x.s .a r.val 0).toNat
      | .imm k => signed 32 k.toNat
    toS false d (x.l.nbr dim.val nw off))

/-! ### COLL -/

/-- Two byte ranges of one space are neither identical nor disjoint (Table 16-7, step 6). -/
def rangesClash (p q : PtrBits) (n : Nat) : Bool :=
  pSpace p == pSpace q && pBase p != pBase q && decide (pBase p < pBase q + n) && decide (pBase q < pBase p + n)

/-- The leader's view of the elements of a buffer. -/
def collElems (lead : Nat) (p : PtrBits) (n : Nat) : List Elem :=
  (List.range n).map (fun k => { lane := lead, j := k, bit := 8 * (pBase p + 4 * k) : Elem })

/-- The checks of Table 16-7 from step 2 on. -/
def Ctx.collChecks (y : Ctx) (s : State) (aD aS : PtrBits) (n : Nat) : Except Trap Unit :=
  let space := fun (p : PtrBits) => pGlobal p || pOwnScratch p
  (y.checkPtr s aS (space aS) false).bind fun _ =>
  (y.checkPtr s aD (space aD) true).bind fun _ =>
  (y.need (pFmt aS == pFmt aD && (pFmt aS == 0x0A || pFmt aS == 5)) .access).bind fun _ =>
  (y.need (decide (1 ≤ n) && decide (n ≤ 4096)) .bounds n).bind fun _ =>
  (y.need (inBounds aS 0 n && inBounds aD 0 n) .bounds).bind fun _ =>
  (y.need (pBase aS % 4 == 0) .align (pBase aS)).bind fun _ =>
  (y.need (pBase aD % 4 == 0) .align (pBase aD)).bind fun _ =>
  (y.need (!rangesClash aS aD (4 * n)) .access).bind fun _ =>
  y.need (y.inWindow aS (pBase aS) (4 * n) && y.inWindow aD (pBase aD) (4 * n)) .access

/-- COLL's effect at issue (R361 to R363): the release work of pod scope, then the source elements. -/
def collBody (c : Ctl) (op : CollOp) (ch : Fin 16) (pL : PReg) (aD aS : AReg) (n : SReg) : Body := fun x s =>
  let me := Instr.coll c op ch pL aD aS n
  match x.leader pL with
  | none => .ok (s, .step)
  | some lead =>
    let y := x.alone lead
    let src := x.a .a aS.val
    let dst := x.a .d aD.val
    let k := (x.s .b n.val 0).toNat
    (y.collChecks s dst src k).bind fun _ =>
    if 12 ≤ s.portsFailed.length ∧ x.l.team ≠ 1 then .ok (x.endsIn s me (y.trap .fabric y.act))
    else
      x.access s me dst true .write (collElems lead dst k) fun _ s1 =>
        x.access s1 me src false .read (collElems lead src k) fun ls s2 =>
          let q := (s2.release x.g.core 4).readElems (x.via src) ls
          let vals := q.1.map (fun d => d.map (fun bs => BitVec.ofNat 32 (leNat bs)))
          let inst := sgetD x.l.collCount ch.val 0
          let r : CollReq := { ch := ch.val, inst, g := x.c.g, lead, seq := x.g.seq, core := x.g.core, op, fp := pFmt src == 0x0A
                               n := k, dst, vals, at_ := s.time }
          let s3 := q.2.setLaunch { x.l with collCount := sset x.l.collCount ch.val (inst + 1) }
          let out := if x.l.team = 1 then [] else [Sent.coll ch.val inst x.l.key { op, fp := r.fp, vals }]
          .ok (({ s3 with colls := s3.colls ++ [r], sent := s3.sent ++ out }).setGroup
            (x.g.begin { entry := x.entry me, frag := x.f.lanes, doing := .coll ch.val, counted := false }), .step)

/-- COLL (R360 to R363). -/
def execColl (c : Ctl) (op : CollOp) (ch : Fin 16) (pL : PReg) (aD aS : AReg) (n : SReg) (s : State) :
    Host.Outcome State Fault Refusal := s.run (.coll c op ch pL aD aS n) (collBody c op ch pL aD aS n)

/-! ### What the switches answer -/

/-- A NaN of a result is the one NaN of R363. -/
def collNan (x : Nat) : Nat := if fp32.isNan x then nan32 else x

/-- Two values combined (R363). -/
def collPair (op : CollOp) (fp : Bool) (a b : Nat) : Nat :=
  match op, fp with
  | .sum, true => addNe a b
  | .sum, false => (a + b) % 2 ^ 32
  | .min, true => (fp32.minMax false false a b).bits
  | .max, true => (fp32.minMax false true a b).bits
  | .min, false => aluMin 32 false a b
  | .max, false => aluMax 32 false a b

/-- A tree over the values, chosen by the device: it joins two of them at a time (R363). -/
def collTree (op : CollOp) (fp : Bool) (t i : Nat) : Nat → List Nat → Nat
  | 0, xs => xs.headD 0
  | n + 1, xs =>
    match xs with
    | [] => 0
    | [x] => x
    | _ =>
      let a := Config.free t (2 * (4096 * i + n)) % xs.length
      let rest := xs.eraseIdx a
      let b := Config.free t (2 * (4096 * i + n) + 1) % rest.length
      collTree op fp t i n (collPair op fp (xs.getD a 0) (rest.getD b 0) :: rest.eraseIdx b)

/-- An element of the result; none where a member's part of it is poison. -/
def CollReq.result (r : CollReq) (t : Nat) (others : List CollPart) (k : Nat) : Option Word :=
  let parts := (r.vals.getD k none) :: others.map (fun o => o.vals.getD k none)
  if parts.all (·.isSome) then
    let v := collTree r.op r.fp t k parts.length (parts.map (fun p => (p.getD 0).toNat))
    some (BitVec.ofNat 32 (if r.fp then collNan v else v))
  else none

/-- The membership entry of a key (R352). -/
def State.member? (s : State) (key : Nat) : Option Member := s.members.find? (fun m => m.valid && m.key == key)

/-- The context of a COLL's group, resident or saved. -/
def State.collCtx (s : State) (r : CollReq) : Option Ctx :=
  match (s.groupsOf r.g.b).find? (fun g => g.ref == r.g) with
  | none => none
  | some g =>
    match g.pend.find? (fun p => p.doing == .coll r.ch) with
    | some p => s.entryCtx g { lanes := p.frag, pc := 0 } p.entry
    | none => none

/-- Changes a group, resident or saved. -/
def State.onGroup (s : State) (r : GRef) (f : Group → Group) : State :=
  let one := fun (g : Group) => if g.ref = r then f g else g
  { s with groups := s.groups.map one, blocks := s.blocks.map (fun (b : Block) => if b.ref = r.b then { b with saved := b.saved.map one } else b) }

/-- Writes some elements of a COLL's destination, none standing for poison, at the package point of each sector's home, where the other devices
read them (R210); none where they cannot be reached now. -/
def State.collWrite (s : State) (x : Ctx) (r : CollReq) (vals : List (Nat × Option Word)) : Option State :=
  let y := { x with g := { x.g with core := r.core } }
  let q := y.locate r.dst true (vals.map (fun v => { lane := r.lead, j := v.1, bit := 8 * (pBase r.dst + 4 * v.1) : Elem })) s
  let ls := q.1.filterMap (fun e => match e.2 with | .at_ l => some l | _ => none)
  if ls.length ≠ vals.length then none
  else
    let all := ls.zip vals
    let good := all.flatMap (fun e => match e.2.2 with | some w => e.1.zip (leBytes 4 w.toNat) | none => [])
    let bad := all.flatMap (fun e => if e.2.2.isNone then e.1 else [])
    let s1 := q.2.writeLocs { y.via r.dst with sync := false } good
    let s2 := bad.foldl (fun (t : State) (l : Loc) => match l with
      | .win b k => t.winWrites b [(k, none)]
      | _ => t) s1
    let secs := fun (ls : List Loc) => (ls.filterMap (fun l => match l with | .mem k => some (k / 32) | _ => none)).eraseDups
    let s3 := (secs bad).foldl (fun (t : State) (sec : Nat) => State.poisonLevel (corePath r.core sec) x.l.vif sec (some r.core) t) s2
    some ((secs (all.flatMap (·.1))).foldl (fun (t : State) (sec : Nat) =>
      let path := corePath r.core sec
      State.pushN (innerCount 3 path) path sec t) s3)

/-- A COLL's flag may clear: it is no longer outstanding. -/
def State.collEnd (s : State) (r : CollReq) : State :=
  { s with colls := s.colls.filter (fun c => c.ch != r.ch) }.onGroup r.g
    (fun g => { g with pend := g.pend.map (fun (p : Pend) => if p.doing = Doing.coll r.ch then { p with doing := .ready } else p) })

/-- The parts of an aborted instance's other members: as they have come, and a free value for each element that has not. -/
def abortParts (r : CollReq) (t team : Nat) (others : List CollPart) : List CollPart :=
  (List.range (team - 1)).map (fun (i : Nat) =>
    let got := match others[i]? with | some o => o.vals | none => []
    { op := r.op, fp := r.fp, vals := (List.range r.n).map (fun (k : Nat) => match got[k]? with
      | some v => v
      | none => some (BitVec.ofNat 32 (Config.free t (2 ^ 20 * (i + 1) + k)))) })

/-- An instance is aborted (R364): each element of the destination keeps its value or takes the result; the leader traps before its next
issue. -/
def State.collAborted (s : State) (r : CollReq) (cause : Cause) (others : List CollPart := []) : State :=
  let took := (List.range r.n).filter (fun k => Config.free s.tick k % 2 = 1)
  let s1 := match s.collCtx r with
    | some x => (s.collWrite x r (took.map (fun k => (k, r.result s.tick (abortParts r s.tick x.l.team others) k)))).getD s
    | none => s
  let word := match s.collCtx r with | some x => (x.c.word, x.c.pc) | none => (0, 0)
  (s1.collEnd r).report r.g r.lead
    { cause, lanes := oneLane r.lead, info := BitVec.ofNat 64 word.1, prec := false, eng := true, tpc := word.2, seq := r.seq }

/-- The switches answer an instance with the other members' parts (R363); where they disagree it is aborted. Their packets pass this device's
port only while its table holds the launch's key (R352). -/
def execCollReduce (ch : Nat) (others : List CollPart) (s : State) : Host.Outcome State Fault Refusal :=
  match s.colls.find? (fun c => c.ch == ch) with
  | none => .next s
  | some r =>
    match s.launch? r.g.b.launch, s.collCtx r with
    | some l, some x =>
      if others.length + 1 ≠ l.team ∨ (l.team ≠ 1 ∧ (s.member? l.key).isNone) then .next s
      else if others.any (fun o => o.op != r.op || o.fp != r.fp || o.vals.length != r.n) then .next (s.collAborted r .fabric others)
      else
        match s.collWrite x r ((List.range r.n).map (fun k => (k, r.result s.tick others k))) with
        | none => .next s
        | some t => .next ((t.acquire r.core 4).collEnd r)
    | _, _ => .next s

/-- An instance is aborted: a member disagrees, a key has dropped a packet, or 100 ms have passed (R364). -/
def execCollAbort (ch : Nat) (why : CollAbortWhy) (s : State) : Host.Outcome State Fault Refusal :=
  match s.colls.find? (fun c => c.ch == ch) with
  | none => .next s
  | some r =>
    match why with
    | .time => .next (if 100000000 ≤ s.time - r.at_ then s.collAborted r .timeout else s)
    | _ => .next (s.collAborted r .fabric)

end Sys2Proof.Machine
end

