-- ==== Sys2Proof/Machine/Launch.lean ====
section
/-! DEFINITION. Launch records, kernel headers and the command processor's checks of them (02 R42, 11 R241 to R243, 20 R386 to
R391), and how a launch starts. -/

namespace Sys2Proof.Machine

open Sys2Proof

/-! ### What the command processor reads and writes -/

/-- Bytes that the command processor reads at their package point; none where one does not translate or is poison (R389). -/
def State.cpRead (s : State) (vif ctx va n : Nat) : Option (List Byte) × State :=
  (sectorRuns va n).foldl (fun acc x =>
    let a := 32 * x.1 + x.2.headD 0
    let q := acc.2.translate { vif, ctx, tgt := 0, write := false } [] 0 a
    match acc.1, q.1 with
    | some bs, .ok key _ =>
      let r := q.2.homeRead vif key x.2.length
      (r.1.map (fun y => bs ++ y), r.2)
    | _, _ => (none, q.2)) (some [], s)

/-! ### The kernel header (Table 2-5) -/

/-- A format slot's field holds a format and a scale that it may hold (R241). -/
def slotFieldOk (x : Nat) : Bool :=
  let f := x / 4
  let k := x % 4
  if f = 0x0A ∨ f = 8 ∨ f = 9 then k == 0
  else if f = 0x0C ∨ f = 0x0D then decide (k < 3)
  else isBfp f && (k == 1 || k == 2)

/-- The fields of a header. -/
def headerOf (h : Nat) : KHeader :=
  { version := field h 492 4, vgran := field h 486 6, tiles := field h 481 5, scratch := field h 470 11, fmtmask := field h 462 8
    adir := field h 461 1 == 1, tdims := field h 458 3, codelen := field h 416 32, entry := field h 384 32
    trapent := field h 352 32, dataoff := field h 320 32, datalen := field h 288 32, adids := field h 272 16
    extents := (List.range 4).map (fun i => field h (260 - 12 * i) 12 + 1), slots := field h 160 64 }

/-- The command processor takes the header (R42). DESIGN CHOICE: the byte of an undeclared slot may hold any format code, and only the
reserved scale 3 is refused there; and entry, trapent (where the record gives its own) and dataoff may hold any value that the length
checks of R388 and R389 let stand, for Table 2-5 gives no range for these. -/
def headerOk (h : Nat) : Bool :=
  let k := headerOf h
  field h 496 16 == 0x4B34 && field h 448 10 == 0 && field h 0 160 == 0 &&
    decide (1 ≤ k.version) && decide (k.version ≤ 3) && decide (1 ≤ k.vgran) && decide (k.vgran ≤ 48) && decide (k.tiles ≤ 16) &&
    decide (k.scratch ≤ 1536) && decide (k.tdims ≤ 4) && k.codelen % 8 == 0 && (k.adir || k.adids == 0) &&
    ((List.range 4).all (fun i => decide (i < k.tdims) || k.extents.getD i 1 == 1)) &&
    ((List.range 8).all (fun i =>
      let x := field k.slots (8 * i) 8
      x % 4 != 3 && (!k.fmtmask.testBit i || slotFieldOk x)))

/-! ### The record (Tables 20-1, 20-2, 16-2, 11-4) -/

/-- The fields of a record, with the kernel header found behind its image. -/
def recordLaunch (m : Nat) (hdr : KHeader) (at_ : Option Nat := none) : Launch :=
  let ptr := fun (byte : Nat) => pFix (BitVec.ofNat 128 (field m (8 * byte) 128))
  let t := field m 1024 256
  let trap := field m 128 32
  { id := 0, vif := 0, ctx := field m 48 16, prio := field m 17 2, hdr, image := ptr 64, ox := field m 0 3, oy := field m 3 3
    w := 2 ^ field m 6 2, h := 2 ^ field m 8 2, shape := field m 10 2, pit := field m 12 1 == 1, pxl := field m 13 2
    pyl := field m 15 2, flush := field m 19 1 == 1, ord := field m 20 1 == 1, resid := field m 21 1 == 1
    fpen := BitVec.ofNat 5 (field m 22 5), recAt := at_, ageLimit := if field m 32 16 = 0 then 256 else field m 32 16
    nblk := field m 80 24 + 1, thr := field m 64 16 + 1, trapOff := if trap = 0 then hdr.trapent else trap
    adirPtr := ptr 80, logPtr := ptr 96, stat := ptr 112, key := field t 0 16, rank := field t 28 12, team := field t 16 12 + 1
    extents := (List.range 4).map (fun i => field t (178 + 12 * i) 12 + 1)
    argsA := (List.range 8).map (fun i => ptr (192 + 16 * i))
    argsS := (List.range 16).map (fun i => BitVec.ofNat 32 (field m (2560 + 32 * i) 32))
    slots := (List.range 8).map (fun i =>
      let d := field m (3072 + 256 * i) 256
      { fmt := field d 130 6, scale := field d 128 2, sptr := pFix (BitVec.ofNat 128 (field d 0 128)) }) }

/-- The width and the height of a block in cores. -/
def Launch.bw (l : Launch) : Nat := if l.shape = 1 ∨ l.shape = 3 then 2 else 1
def Launch.bh (l : Launch) : Nat := if l.shape = 2 ∨ l.shape = 3 then 2 else 1
/-- The cores of a block, its gangs, and the gangs of one quad (R20, R215, R287). -/
def Launch.cores (l : Launch) : Nat := l.bw * l.bh
def Launch.perQuad (l : Launch) : Nat := min (min 8 (384 / (8 * l.hdr.vgran))) (if l.hdr.tiles = 0 then 8 else 16 / l.hdr.tiles)

/-- A field that names no pointer. -/
def noPtr (m byte : Nat) : Bool := field m (8 * byte) 128 % 2 ^ 63 == 0 && field m (8 * byte + 64) 64 == 0

/-- The stat pointer is none or passes R388. -/
def statOk (m : Nat) (l : Launch) : Bool :=
  noPtr m 112 || (pValid l.stat && (pGlobal l.stat || pHost l.stat) && pScope l.stat == 3 && pFmt l.stat == 4 &&
    pClass l.stat != 1 && pBase l.stat % 4 == 0 && decide (4 ≤ pLen l.stat))

/-- A global pointer of package scope, of a class and a format. -/
def pkgPtr (p : PtrBits) (cls fmt : Nat) : Bool := pValid p && pGlobal p && pScope p == 3 && pClass p == cls && pFmt p == fmt

/-- A slot's descriptor is what its kernel's header declares (R243). A declared slot's reserved bits are not among the rules: they are ignored
(R6). -/
def descOk (m : Nat) (l : Launch) (i : Nat) : Bool :=
  let d := field m (3072 + 256 * i) 256
  let k := l.slots.getD i default
  if l.hdr.fmtmask.testBit i then
    field d 136 4 == 5 && field d 128 8 == field l.hdr.slots (8 * i) 8 &&
      (k.scale == 0 || pkgPtr k.sptr 1 (if k.scale = 1 then 0x20 else 0x0C))
  else d == 0

/-- The team fields, their map aside (R350). -/
def teamOk (m : Nat) (l : Launch) : Bool :=
  let t := field m 1024 256
  let dims := List.range l.hdr.tdims
  field t 226 30 == 0 && field t 176 2 == 0 && field t 40 8 == 0 && decide (l.rank < l.team) && (l.key != 0 || l.team == 1) &&
    (l.hdr.tdims == 0 || (dims.all (fun i => l.hdr.extents.getD i 1 == l.extents.getD i 1) &&
      (dims.map (fun i => l.extents.getD i 1)).foldl (· * ·) 1 == l.team))

/-- The rank map, read where the record gives one: none where it breaks a rule (R350). -/
def State.rankMap (s : State) (vif : Nat) (m : Nat) (l : Launch) : Option (List Nat) × State :=
  let p := pFix (BitVec.ofNat 128 (field (field m 1024 256) 48 128))
  if noPtr m 134 then (if l.team = 1 then (some [Config.endpoint], s) else (none, s))
  else if !pkgPtr p 1 2 ∨ pLen p < 2 * l.team then (none, s)
  else
    let r := s.cpRead vif l.ctx (pBase p) (2 * l.team)
    (r.1.bind (fun bs =>
      let es := (List.range l.team).map (fun i => leNat ((bs.drop (2 * i)).take 2) % 4096)
      if es.getD l.rank 0 = Config.endpoint then some es else none), r.2)

/-- The first code of a list whose condition fails; 0 for none. -/
def firstCode : List (Nat × Bool) → Nat
  | [] => 0
  | (c, ok) :: r => if ok then firstCode r else c

/-- What a SPAWN adds to the checks: the children of its block that have not completed, and its launch. -/
structure Spawner where
  children : Nat
  parent : Launch
  b : BRef
  deriving DecidableEq, Repr

/-- The command processor reads the record at an address: the code, 0 where it accepts it, and the launch (R389, Table 20-3,
R451). -/
def State.readLaunch (s : State) (vif rctx va : Nat) (sp : Option Spawner) : Nat × Launch × State :=
  let none_ := recordLaunch 0 {}
  if va % 64 ≠ 0 then (0x10, none_, s)
  else
    let r := s.cpRead vif rctx va 640
    match r.1 with
    | none => (0x10, none_, r.2)
    | some bs =>
      let m := leNat bs
      let l0 := recordLaunch m {}
      let v := r.2.vif vif
      let imgOk := pValid l0.image && pGlobal l0.image && pScope l0.image == 3 && pBase l0.image % 64 == 0 && decide (64 ≤ pLen l0.image)
      let h : Option (List Byte) × State := if imgOk then r.2.cpRead vif l0.ctx (pBase l0.image) 64 else (none, r.2)
      let hn := leNat (h.1.getD [])
      let hdr := if h.1.isSome ∧ headerOk hn then headerOf hn else {}
      let l : Launch := { recordLaunch m hdr (some va) with vif, readCtx := rctx, mx := v.mx, my := v.my }
      let tw : Option (List Byte) × State := if l.inCode l.trapOff then h.2.cpRead vif l.ctx (pBase l.image + l.trapOff) 8 else (none, h.2)
      let mp := tw.2.rankMap vif m l
      let px := 2 ^ l.pxl
      let py := 2 ^ l.pyl
      let gangs := (l.gangs + l.cores - 1) / l.cores
      let feat := fun (k : Nat) => s.feature vif k
      let code := firstCode [
        (0x11, field m 160 352 == 0 && field m 104 24 == 0 && field m 27 5 == 0 && (sget v.roots l.ctx).isSome &&
          (!l.pit || (decide (l.bw ≤ px) && decide (l.bh ≤ py) && decide (px ≤ l.w) && decide (py ≤ l.h)))),
        (0x12, l.ox % l.w == 0 && l.oy % l.h == 0 && decide (l.ox + l.w ≤ v.mw) && decide (l.oy + l.h ≤ v.mh) &&
          decide (l.bw ≤ l.w) && decide (l.bh ≤ l.h)),
        (0x13, imgOk && h.1.isSome && headerOk hn && decide (64 + hdr.codelen ≤ pLen l.image) &&
          decide (hdr.dataoff + hdr.datalen ≤ pLen l.image) &&
          (l.trapOff == 0 || (match tw.1 with | some w => wordKind (leNat w) == 3 | none => false))),
        (0x14, decide (gangs ≤ 8 * l.perQuad)),
        (0x15, (List.range 8).all (descOk m l)),
        (0x16, !hdr.adir || (pkgPtr l.adirPtr 1 0 && pBase l.adirPtr % 64 == 0 && decide (64 * (hdr.adids + 1) ≤ pLen l.adirPtr))),
        (0x17, teamOk m l && mp.1.isSome),
        (0x18, statOk m l && (!l.ord || noPtr m 96 || (pkgPtr l.logPtr 0 0 && pBase l.logPtr % 16 == 0 && pLen l.logPtr % 16 == 0))),
        (0x19, match sp with | some p => decide (p.children < 64) && decide (p.parent.depth < 7) | none => true),
        (0x1A, match sp with | some p => l.ctx == p.parent.ctx | none => true),
        (0x1B, (hdr.version == 3 || feat (hdr.version - 1)) && (!l.ord || feat 2) && (!l.resid || feat 3) && (!hdr.adir || feat 4) &&
          (l.key == 0 || feat 6) && (sp.isNone || feat 12))]
      let stat := if noPtr m 112 ∨ !statOk m l then 0 else l.stat
      let log := if l.ord ∧ !noPtr m 96 then l.logPtr else 0
      (code, { l with stat, logPtr := log, map := mp.1.getD [] }, mp.2)

/-- The cores of a launch's rectangle, placed on its interface's virtual mesh as it lay at the launch's start (R18, R449). -/
def Launch.rect (l : Launch) : List Nat :=
  (List.range l.h).flatMap (fun y => (List.range l.w).map (fun x => coreAt (l.mx + l.ox + x) (l.my + l.oy + y)))

/-- Invalidates the instruction-cache lines of a launch's image on its rectangle (R74). -/
def State.dropImage (s : State) (l : Launch) : State :=
  let cores := l.rect
  let lo := pBase l.image / 128
  let hi := (pBase l.image + pLen l.image + 127) / 128
  { s with ilines := s.ilines.filter (fun x => !(x.vif == l.vif && x.ctx == l.ctx && cores.contains x.core && decide (lo ≤ x.line) && decide (x.line < hi))) }

/-- The id of a launch that starts: one that no launch has (R390). -/
def State.newLaunchId (s : State) : Nat := freshFrom 65536 1 (s.launches.map (·.id))

/-- A launch starts: it takes its id, and the membership entries of its key bind it (R351, R391). One that is refused places
no block and completes with its code (R389). -/
def State.startLaunch (s : State) (code : Nat) (l : Launch) (queue seq : Nat) (sp : Option Spawner) : Nat × State :=
  let id := s.newLaunchId
  let l1 : Launch := { l with
    id, queue, seq, startedAt := s.serial
    parent := if code = 0 then sp.map (·.b) else none
    depth := match sp with | some p => p.parent.depth + 1 | none => 0
    prio := match sp with | some p => p.parent.prio | none => l.prio }
  let l2 := if code = 0 then l1 else { l1 with ending := true, status := code, placed := l1.nblk, exitedBlocks := l1.nblk, logsApplied := true }
  let bind_ := fun (m : Member) => if m.valid ∧ l.key ≠ 0 ∧ m.key = l.key ∧ code = 0 then { m with launch := id, lbound := true } else m
  (id, { s.dropImage l2 with
    serial := s.serial + 1, launches := s.launches ++ [l2], members := s.members.map bind_
    misses := s.misses.filter (fun m => m.2.1 != id) })

/-- SPAWN's effect (R409, R410). -/
def spawnBody (c : Ctl) (d : SReg) (pL : PReg) (r : AReg) : Body := fun x s =>
  let me := Instr.spawn c d pL r
  match x.leader pL with
  | none => .ok (s, .step)
  | some lead =>
    let y := x.alone lead
    let p := x.a .a r.val
    (y.checkPtr s p (pGlobal p) false).bind fun _ =>
    (y.need (pBase p % 64 == 0) .align (pBase p)).bind fun _ =>
    (y.need (decide (640 ≤ pLen p)) .bounds).bind fun _ =>
    let sp : Spawner := { children := x.b.children.length, parent := x.l, b := x.c.g.b }
    let q := (s.release x.g.core 3).readLaunch x.l.vif x.l.ctx (pBase p) (some sp)
    let z := q.2.2.startLaunch q.1 q.2.1 15 0 (some sp)
    let s1 := if q.1 = 0 then z.2.setBlock { x.b with children := x.b.children ++ [z.1] } else z.2
    let w := if q.1 = 0 then z.1 else 0x80000000 + q.1 * 65536
    .ok (s1.setGroup (x.g.begin { entry := x.entry me, frag := x.f.lanes, res := toS false d w }), .step)

/-- SPAWN (R409). -/
def execSpawn (c : Ctl) (d : SReg) (pL : PReg) (r : AReg) (s : State) : Host.Outcome State Fault Refusal :=
  s.run (.spawn c d pL r) (spawnBody c d pL r)

/-- The next entry of a launch ring starts, where the previous one's launch has completed (R389, R391). -/
def execLaunchStart (vif queue : Nat) (s : State) : Host.Outcome State Fault Refusal :=
  let v := s.vif vif
  match v.queues.find? (fun q => q.q == queue) with
  | none => .next s
  | some q =>
    match q.running, q.entries with
    | none, va :: rest =>
      let r := s.readLaunch vif q.ctx (va % 2 ^ 57) none
      let z := r.2.2.startLaunch r.1 { r.2.1 with vif, readCtx := q.ctx } queue q.next none
      let v1 := z.2.vif vif
      let q1 := { q with running := some z.1, entries := rest, next := (q.next + 1) % 2 ^ 32 }
      .next (z.2.setVif vif { v1 with queues := v1.queues.map (fun x => if x.q = queue then q1 else x) })
    | _, _ => .next s

end Sys2Proof.Machine
end

