-- ==== Sys2Proof/Machine/Cairn.lean ====
section
/-! DEFINITION. The cairn engine (27 R452 to R454) and the patrol's rewrites (04 R89): the checkpoint set, the cut, the granules'
copies and CKPT. -/

namespace Sys2Proof.Machine

open Sys2Proof

/-- The patrol rewrites a sector under the current key version of its interface; a poisoned one stays (R89). -/
def State.rekey (s : State) (sec : Nat) : State :=
  match sget s.band sec with
  | some b =>
    if s.answers sec ∧ !b.poison ∧ !b.dead ∧ b.code ≠ 2 ∧ b.tagOk sec ∧ s.versionOk b.vif b.kver then
      { s with band := sset s.band sec { b with kver := (s.vif b.vif).kver, tag := (sec, (s.vif b.vif).kver, b.vif) } }
    else s
  | none => s

/-- The cut of a checkpoint and its sequence number; none where no set is registered or a checkpoint runs (R453, R454). The
sectors that the last one passed to the patrol have been rewritten before it begins (R89). -/
def State.takeCut (s : State) (vif : Nat) : Option (Nat × State) :=
  match (s.vif vif).ckpt with
  | none => none
  | some c =>
    if c.cut.isSome then none
    else
      let s1 := c.passed.foldl State.rekey s
      let seq := if (c.lastSeq + 1) % 2 ^ 32 = 0 then 1 else (c.lastSeq + 1) % 2 ^ 32
      let cut : Cut := { seq, todo := List.range ((c.pages.length + 15) / 16), changed := c.dirty }
      some (seq, s1.setVif vif { s1.vif vif with ckpt := some { c with cut := some cut, dirty := [], lastSeq := seq, passed := [] } })

/-- CKPT (R454). -/
def execCkpt (c : Ctl) (d : SReg) (s : State) : Host.Outcome State Fault Refusal :=
  s.run (.ckpt c d) (fun x s =>
    let s1 := s.release x.g.core 3
    let r := match s1.takeCut x.l.vif with
      | some q => q
      | none => (0, s1)
    .ok (r.2.setGroup (x.g.begin { entry := x.entry (.ckpt c d), frag := x.f.lanes, res := toS false d r.1 }), .step))

/-- The host requests a checkpoint (R454); one that runs refuses it (R453). -/
def execCheckpointRequest (vif : Nat) (s : State) : Host.Outcome State Fault Refusal :=
  match s.takeCut vif with
  | some q => .next q.2
  | none => .next s

/-! ### Registering a set (R452) -/

/-- The physical pages of a region, each mapped to device memory in context 0; none where one is not. -/
def State.regionPages (s : State) (vif base len : Nat) : Option (List Nat) :=
  (List.range (len / 4096)).foldl (fun acc k =>
    match acc, (s.translate { vif, ctx := 0, tgt := 0, write := false, quiet := true } [] 0 (base + 4096 * k)).1 with
    | some ps, .ok key _ => some (ps ++ [key])
    | _, _ => none) (some [])

/-- The job keys of an interface (R449). -/
def State.jobKeys (s : State) (vif : Nat) : List Nat := (s.members.filter (fun m => m.valid && m.vif == vif)).map (·.key)

/-- The set that a descriptor describes; none where it breaks a rule (R452, Table 27-5). -/
def State.readSetAt (s : State) (vif desc : Nat) : Option CkptSet × State :=
  let r := s.cpRead vif 0 desc 64
  let h := leNat (r.1.getD [])
  let n := field h 256 8
  let dest := pFix (BitVec.ofNat 128 (field h 0 128))
  let e := r.2.cpRead vif 0 (desc + 64) (16 * n)
  let bs := e.1.getD []
  let regions := (List.range n).map (fun i =>
    let m := leNat ((bs.drop (16 * i)).take 16)
    (field m 0 57, field m 64 64))
  let plain := (List.range n).all (fun i => field (leNat ((bs.drop (16 * i)).take 16)) 57 7 == 0)
  let ok := desc % 64 == 0 && r.1.isSome && decide (1 ≤ n) && decide (n ≤ 64) && field h 128 128 == 0 && field h 264 248 == 0 &&
    e.1.isSome && plain && regions.all (fun x => x.1 % 65536 == 0 && x.2 % 65536 == 0 && decide (x.1 + x.2 ≤ 2 ^ 57)) &&
    pValid dest && (pHost dest || (pPeer dest && !(s.jobKeys vif).isEmpty)) && pFmt dest == 0 &&
    decide ((regions.map (·.2)).sum ≤ pLen dest)
  if !ok then (none, e.2)
  else
    let pages := regions.foldl (fun (acc : Option (List Nat)) (x : Nat × Nat) =>
      match acc, s.regionPages vif x.1 x.2 with
      | some ps, some qs => some (ps ++ qs)
      | _, _ => none) (some [])
    (pages.map (fun ps => { regions, pages := ps, dest, dirty := List.range (ps.length / 16) }), e.2)
def State.readSet (s : State) (vif desc : Nat) : Option CkptSet := (s.readSetAt vif desc).1

/-- The driver registers a checkpoint set, which replaces the previous one (R452). -/
def execCheckpointSetRegister (vif desc : Nat) (s : State) : Host.Outcome State Fault Refusal :=
  let v := s.vif vif
  if !s.feature vif 8 then .next s
  else
    let t := (s.readSetAt vif desc).2
    match s.readSet vif desc with
    | some c =>
      -- what the previous set's reads passed to the patrol engine stays passed (R89)
      .next (t.setVif vif { t.vif vif with ckpt := some { c with lastSeq := ((v.ckpt.map (·.lastSeq)).getD 0), passed := ((v.ckpt.map (·.passed)).getD []) } })
    | none => .next t

/-! ### The copies (R453) -/

/-- Writes a granule to the mirror: in host memory through context 0, or by stores to a peer; none where it has to wait. DESIGN CHOICE: a write
that the host's translation service refuses waits, and is made again. -/
def State.mirror (s : State) (vif g : Nat) (c : CkptSet) (bs : List Byte) : Option State :=
  let at_ := pBase c.dest + 65536 * g
  if pPeer c.dest then
    if 12 ≤ s.portsFailed.length then none
    else
      let rank := c.dest.toNat / 2 ^ 45 % 4096
      let accs := (List.range 2048).map (fun k => { va := (at_ + 32 * k) % 2 ^ 45, op := .store ((bs.drop (32 * k)).take 32) : PeerAcc })
      let key := (s.jobKeys vif).headD 0
      let r : Request := { id := s.serial, g := ⟨⟨0, 0⟩, 0⟩, seq := 0, rank, at_ := s.time, host := false, key, accs, ckpt := some (vif, g) }
      some { s with serial := s.serial + 1, requests := s.requests ++ [r], sent := s.sent ++ [Sent.peer s.serial rank key accs] }
  else
    -- a destination need not be page-aligned, so each piece lies in one page
    let cut := (at_ + 4095) / 4096 * 4096 - at_
    let pieces := (if cut = 0 then [] else [(0, cut)]) ++
      (List.range ((65536 - cut + 4095) / 4096)).map (fun k => (cut + 4096 * k, min 4096 (65536 - cut - 4096 * k)))
    pieces.foldl (fun (acc : Option State) (x : Nat × Nat) =>
      match acc with
      | none => none
      | some t =>
        let q := t.translate { vif, ctx := 0, tgt := 1, write := true } [] 0 (at_ + x.1)
        match q.1 with
        | .ok key _ => if q.2.atsRefuses vif c.dest then none else some (q.2.homeWrite vif key ((bs.drop x.1).take x.2))
        | _ => none) (some s)

/-- A granule as the snapshot holds it, sector by sector. -/
def State.snapshot (s : State) (vif g : Nat) (c : CkptSet) (k : Cut) : List (Option (List Byte)) :=
  match k.held.find? (fun h => h.1 == g) with
  | some h => h.2
  | none => (c.sectors g).map (s.atHome vif)

/-- The sectors of a granule that a read finds at an older version of the key of the interface that owns each. -/
def State.olderKeys (s : State) (secs : List Nat) : List Nat :=
  secs.filter (fun x => match sget s.band x with
    | some b => b.kver != (s.vif b.vif).kver && !b.poison && !b.dead
    | none => false)

/-- The engine reads and checks a granule, and writes it to the mirror where it was written since the previous cut (R453,
R89). -/
def State.copyGranule (s : State) (vif g : Nat) : State :=
  match (s.vif vif).ckpt with
  | none => s
  | some c =>
    match c.cut with
    | none => s
    | some k =>
      if !k.todo.contains g then s
      else
        let snap := s.snapshot vif g c k
        let s1 := (c.sectors g).foldl State.checkSector s
        let bs := snap.flatMap (fun x => x.getD (List.replicate 32 0))
        let out := if k.changed.contains g then s1.mirror vif g c bs else some s1
        match out with
        | none => s
        | some s2 =>
          let sent := k.changed.contains g && pPeer c.dest
          let cut : Cut := { k with todo := k.todo.filter (· != g), out := if sent then g :: k.out else k.out
                                    poisoned := if snap.any (·.isNone) then k.poisoned ++ [g] else k.poisoned
                                    held := k.held.filter (fun h => h.1 != g) }
          s2.setVif vif { s2.vif vif with ckpt := some { c with cut := some cut, passed := (s1.olderKeys (c.sectors g) ++ c.passed).eraseDups } }

/-- A granule of a running checkpoint is copied (R453). -/
def execCheckpointGranuleCopy (vif granule : Nat) (s : State) : Host.Outcome State Fault Refusal := .next (s.copyGranule vif granule)

/-- A peer has answered for a granule: it is in the mirror, or it goes out again. -/
def State.granuleAnswer (s : State) (r : Request) (vif g : Nat) (done : Bool) : State :=
  if done then
    let v := s.vif vif
    match v.ckpt with
    | some c => s.setVif vif { v with ckpt := some { c with cut := c.cut.map (fun (k : Cut) => { k with out := k.out.filter (· != g) }) } }
    | none => s
  else
    { s with serial := s.serial + 1, requests := s.requests ++ [{ r with id := s.serial, at_ := s.time }]
             sent := s.sent ++ [Sent.peer s.serial r.rank r.key r.accs] }

/-- Every granule is done: the completion entry and the kind-9 record (R453, Table 27-6). The entry's queue and index have no
stated value. -/
def execCheckpointComplete (vif : Nat) (s : State) : Host.Outcome State Fault Refusal :=
  let v := s.vif vif
  match v.ckpt with
  | none => .next s
  | some c =>
    match c.cut with
    | none => .next s
    | some k =>
      if k.todo.isEmpty ∧ k.out.isEmpty then
        let e : Completion := { time := s.now, launch := 0, status := 1, queue := Config.free s.tick 0 % 16, seq := Config.free s.tick 1 % 2 ^ 32, named := k.poisoned }
        let s1 := s.setVif vif { v with events := v.events ++ [e], ckpt := some { c with cut := none } }
        .next (s1.errorRec { time := s.now, source := 80, kind := 9, launch := 0, arg := k.seq + 2 ^ 32 * k.poisoned.length })
      else .next s

/-- The patrol engine rewrites a sector that a checkpoint's read passed to it (R89). -/
def execPatrolRekeyPassedSector (sector : Nat) (s : State) : Host.Outcome State Fault Refusal :=
  if s.vifs.any (fun x => match x.2.ckpt with | some c => c.passed.contains sector | none => false) then
    let s1 := s.rekey sector
    .next { s1 with vifs := s1.vifs.map (fun x => (x.1, { x.2 with
      ckpt := x.2.ckpt.map (fun (c : CkptSet) => { c with passed := c.passed.filter (· != sector) }) })) }
  else .next s

end Sys2Proof.Machine
end

