-- ==== Sys2Proof/Machine/Ram.lean ====
section
/-! DEFINITION. What the memory controllers, the patrol engines and the command processor do to main memory (04 R81 to R95): reads
and writes of the array, refresh, repair and retirement of channels, and key rotation. -/

namespace Sys2Proof.Machine

open Sys2Proof

/-! ### The array -/

/-- A sector's 64 check bits (Table 4-3). -/
def Band.bits (b : Band) (data : List Byte) : BitVec 64 :=
  let low := fieldSum [(16, Config.integrityTag b.tag.1 b.tag.2.1 b.tag.2.2 data % 65536), (8, b.kver), (1, b.vif), (0, b01 b.poison)]
  BitVec.ofNat 64 (2 ^ 32 * (Config.symbolCode data low % 2 ^ 32) + low)

/-- The side band of a sector as firmware reads it through the controller's diagnostic path (Table 4-3). DESIGN CHOICE: of a sector that nothing has
written since the device's reset, for which the table gives no value, it is a free value. -/
def State.sideBand (s : State) (sec : Nat) : BitVec 64 :=
  match sget s.band sec with
  | none => BitVec.ofNat 64 (Config.free s.tick (2 ^ 45 + sec))
  | some b => b.bits (Memory.reads s.hbm (32 * sec) 32)

/-- The side band of a sector of a reserved region, by its number in `reserved`. -/
def State.reservedSideBand (s : State) (sec : Nat) : BitVec 64 :=
  match sget s.reservedBand sec with
  | none => BitVec.ofNat 64 (Config.free s.tick (2 ^ 45 + 2 ^ 34 + sec))
  | some b => b.bits (Memory.reads s.reserved (32 * sec) 32)

/-- The device writes whole sectors of a reserved region, under its own key, which is interface 127's (R78, R86). DESIGN CHOICE: their tags are
formed over a number of their own, for they have no device physical address. -/
def State.reservedWrite (s : State) (sec : Nat) (bs : List Byte) : State :=
  let n := (bs.length + 31) / 32
  { s with
    reserved := Memory.writes s.reserved (32 * sec) bs
    reservedBand := (List.range n).foldl (fun (m : Sparse Band) (k : Nat) =>
      sset m (sec + k) { kver := s.devKver, vif := 127, poison := false, tag := (2 ^ 34 + sec + k, s.devKver, 127) }) s.reservedBand }

/-- Fills some bytes of a sector of a home L2 from memory, or its poison (R81, R84). -/
def State.fillHome (s : State) (vif sec : Nat) (offs : List Nat) : State :=
  let u : CacheId := .l2 (homeDie sec)
  let r := s.memRead vif sec
  let c := r.2.cache u
  if r.1.2 then r.2.setCache (c.fill sec [] true)
  else r.2.setCache (offs.foldl (fun (d : Cache) o => if d.valid sec o then d else
    d.put (32 * sec + o) { val := r.1.1.getD o 0, dirty := false, vif := 0 }) c)

/-- The controller serves a read grain to the home L2: the sectors it covers, and nothing beyond (R81, Table 4-2). -/
def execMemoryRead (vif dpa grain : Nat) (s : State) : Host.Outcome State Fault Refusal :=
  if (grain = 16 ∨ grain = 32 ∨ grain = 64 ∨ grain = 128) ∧ dpa % grain = 0 ∧ dpa < 2 ^ 39 then
    .next ((sectorRuns dpa grain).foldl (fun (t : State) x => t.fillHome vif x.1 x.2) s)
  else .next s

/-- The controller writes the dirty bytes that a home L2 holds of a sector for an interface (R82, R87). -/
def execMemoryWrite (vif sector : Nat) (s : State) : Host.Outcome State Fault Refusal :=
  let u : CacheId := .l2 (homeDie sector)
  let c := s.cache u
  let mine := (c.dirty sector).filter (fun x => x.2.2 == vif)
  if secIsHost sector ∨ mine.isEmpty then .next s
  else
    let clean := mine.foldl (fun (d : Cache) x => d.put (32 * sector + x.1) { val := x.2.1, dirty := false, vif := 0 }) c
    .next ((s.setCache clean).memWrite vif sector (mine.map (fun x => (x.1, x.2.1))))

/-- A sector lies in a registered checkpoint set. -/
def State.inSet (s : State) (sec : Nat) : Bool :=
  s.vifs.any (fun x => match x.2.ckpt with | some c => c.pages.contains (sec / 128 * 4096) | none => false)

/-- The source number of a channel's controller (Table 26-2). -/
def chanSource (die chan : Nat) : Nat := 96 + 8 * die + chan / 8

/-- A patrol read: an indivisible check, correction and rewrite under the current key version (R89, R90); one that cannot be
corrected is reported (Table 27-6, kind 8). -/
def execPatrolRead (sector : Nat) (s : State) : Host.Outcome State Fault Refusal :=
  if secIsHost sector ∨ s.inSet sector ∨ !s.answers sector then .next s
  else
    let bad := match sget s.band sector with | some b => b.code == 2 | none => false
    let s1 := (s.checkSector sector).rekey sector
    .next (if bad then s1.errorRec { time := s.now, source := chanSource (homeDie sector) (s.chanOf sector), kind := 8, launch := 0, arg := 32 * sector } else s1)

/-- Sets the patrol period (R89). -/
def execPatrolPeriodSet (hours : Nat) (s : State) : Host.Outcome State Fault Refusal :=
  .next (if 1 ≤ hours ∧ hours ≤ 168 ∧ !s.recovery then { s with patrolHours := hours } else s)

/-! ### Refresh, repair and retirement -/

/-- Replaces a channel's health. -/
def State.setChan (s : State) (die c : Nat) (x : Chan) : State := { s with chans := sset s.chans (64 * die + c) x }

/-- Something befalls the part (R84, R93, R136). -/
def State.harmed (s : State) (h : Harm) : State :=
  match h with
  | .sector sec code =>
    match sget s.band sec with
    | some b => if s.answers sec ∧ (code = 1 ∨ code = 2) then { s with band := sset s.band sec { b with code } } else s
    | none => s
  | .tables die c copy =>
    let x := s.chan die c
    if 4 ≤ die ∨ 64 ≤ c then s
    else s.setChan die c (match copy with
      | 0 => { x with copyA := none }
      | 1 => { x with copyB := none }
      | _ => { x with master := none })
  | .rebuilt =>
    let held := (List.range 4).flatMap (fun d => (s.cache (.rdc d)).secs.flatMap (fun sec => (s.route (homeOf sec) d).map (fun p => (p, sec / 32))))
    { s with filters := held.eraseDups, filtersBuilt := true }

/-- A refresh interval of a bank ends: the refresh runs, or it is postponed, at most 8 times in a row (R91). -/
def execRefresh (die chan bank : Nat) (s : State) : Host.Outcome State Fault Refusal :=
  let c := s.chan die chan
  let n := sgetD c.postponed bank 0
  if 4 ≤ die ∨ 64 ≤ chan then .next s
  else if n < 8 ∧ Config.free s.tick 0 % 2 = 1 then .next (s.setChan die chan { c with postponed := sset c.postponed bank (n + 1) })
  else .next (s.setChan die chan { c with postponed := sdel c.postponed bank })

/-- An uncorrectable error in one SRAM copy of a channel's tables is repaired from its twin (R93). -/
def execRemapSramRepair (die chan : Nat) (second : Bool) (s : State) : Host.Outcome State Fault Refusal :=
  let c := s.chan die chan
  if 4 ≤ die ∨ 64 ≤ chan then .next s
  else if second then .next (if c.copyA.isSome then s.setChan die chan { c with copyB := c.copyA } else s)
  else .next (if c.copyB.isSome then s.setChan die chan { c with copyA := c.copyB } else s)

/-! The masters of the repair tables lie in the reserved regions of other channels (R78, R92). -/

/-- The channel of a die whose reserved region holds the master of a channel's tables: the first live channel at or after c + 32, or
where a retirement has moved it. -/
def State.masterAt (s : State) (die c : Nat) : Nat := ((s.chan die c).masterAt).getD ((c + 32) % 64)

/-- The first channel at or after c + 32, counted cyclically, that is live and answers, but for one that leaves (R92). -/
def State.nextHolder (s : State) (die c but : Nat) : Nat :=
  (((List.range 64).map (fun i => (c + 32 + i) % 64)).find? (fun k =>
    (s.liveOf die).contains k && k != but && !(s.chan die k).retired)).getD ((c + 32) % 64)

/-- Before a channel's retirement completes, the masters that it holds are written to the next channel that qualifies, from what can still
be read of the tables (R92). -/
def State.moveMasters (s : State) (die but : Nat) : State :=
  (List.range 64).foldl (fun (t : State) (c : Nat) =>
    let x := t.chan die c
    if t.masterAt die c = but then
      let holder := s.nextHolder die c but
      let m := x.master <|> x.copyA <|> x.copyB
      let t1 := t.setChan die c { x with masterAt := some holder, master := m }
      match m with
      | some tables => t1.reservedWrite (2 ^ 20 * (64 * die + holder) + Config.masterSector c % 2 ^ 20) (Config.masterImage tables)
      | none => t1
    else t) s

/-- An emergency retirement (R94): the channel answers with poison from now on, N stays, and the device is degraded. -/
def State.emergency (s : State) (die chan : Nat) : State :=
  let s1 := s.moveMasters die chan
  { s1.setChan die chan { s1.chan die chan with retired := true } with degraded := true }.errorRec
    { time := s.now, source := 80 + die, kind := 1, launch := 0, arg := chan + 256 * die }

/-- A channel is retired in an emergency (R93, R94). -/
def execEmergencyRetirement (die chan : Nat) (s : State) : Host.Outcome State Fault Refusal :=
  .next (if die < 4 ∧ (s.liveOf die).contains chan ∧ !(s.chan die chan).retired then s.emergency die chan else s)

/-- Where both SRAM copies of a channel's tables have failed they are reloaded from the master; one that cannot be read retires the channel
(R93). While a copy is good, the other comes from it. The master lies at no device physical address, so the record's argument has no
stated value. -/
def execRemapTableReload (die chan : Nat) (s : State) : Host.Outcome State Fault Refusal :=
  let c := s.chan die chan
  if 4 ≤ die ∨ !(s.liveOf die).contains chan ∨ c.retired then .next s
  else if c.copyA.isSome ∨ c.copyB.isSome then
    .next (s.setChan die chan { c with copyA := c.copyA <|> c.copyB, copyB := c.copyB <|> c.copyA })
  else if c.master.isSome then .next (s.setChan die chan { c with copyA := c.master, copyB := c.master })
  else
    .next ((s.errorRec { time := s.now, source := chanSource die chan, kind := 8, launch := 0, arg := Config.free s.tick 0 % 2 ^ 39 }).emergency die chan)

/-- A channel in service both of whose SRAM copies have failed: it holds every request until they are reloaded, so that nothing else moves (R93). -/
def State.tablesLost (s : State) : Option (Nat × Nat) :=
  (s.chans.find? (fun x => x.2.copyA.isNone && x.2.copyB.isNone && !x.2.retired && (s.liveOf (x.1 / 64)).contains (x.1 % 64))).map
    (fun x => (x.1 / 64, x.1 % 64))

/-- A table at a level, or one below it, maps a page of a die (R95). -/
def State.mapsDie (s : State) (vif die : Nat) : Nat → Nat → Bool
  | 0, _ => false
  | l + 1, table =>
    (List.range 512).any (fun i =>
      match (s.homeRead vif (table + 8 * i) 8).1 with
      | none => false
      | some bs =>
        let e := leNat bs
        if field e 63 1 = 0 ∨ xlMalformed (l + 1) e then false
        else if xlLeaf (l + 1) e then xlTgt e == 0 && xlAddr e / 2 ^ 37 == die
        else State.mapsDie s vif die l (xlAddr e))

/-- A translation of some interface maps a page of a die: in its tables, or in a structure that still holds one. -/
def State.dieMapped (s : State) (die : Nat) : Bool :=
  s.vifs.any (fun x => x.2.roots.any (fun r => s.mapsDie x.1 die 5 r.2)) ||
  s.tlbs.any (fun t => (t.level == 6 || xlLeaf t.level t.entry) && xlTgt t.entry == 0 && xlAddr t.entry / 2 ^ 37 == die)

/-- The die offset that lies at a place, with the die's live channels (R79); none on a channel that is not live. -/
def offsetAt (live : List Nat) (p : ArrayPlace) : Option Nat :=
  (live.findIdx? (· == p.chan)).map (fun k => (p.caddr / 256 * live.length + k) * 256 + p.caddr % 256)

/-- The side bands of a die where its live list changes: each stays in its place in the array, where another sector may lie now, whose
tag it does not match (R79, R84). -/
def State.relist (s : State) (die : Nat) (new : List Nat) : State :=
  let old := s.liveOf die
  let moved := s.band.foldl (fun (m : Sparse Band) (x : Nat × Band) =>
    if homeDie x.1 ≠ die then sset m x.1 x.2
    else
      match offsetAt new (arrayPlace old (dieOffset x.1)) with
      | some o => sset m ((2 ^ 37 * die + o) / 32) x.2
      | none => m) []
  { s with live := s.live.set die new, band := moved }

/-- The planned retirement of a channel, a command of PF 0 (R95, R449). DESIGN CHOICE: a die that a refused switch would take below 48
channels is reported failed in `failedDies` alone, for Table 27-6 has no record of it. -/
def execChannelRetirementSwitch (die : Nat) (cmd : Cmd Nat) (s : State) : Host.Outcome State Fault Refusal :=
  let old := s.liveOf die
  let chan := cmd.arg
  if cmd.by_ ≠ 0 ∨ s.recovery ∨ 4 ≤ die ∨ !old.contains chan ∨ s.dieMapped die then .next s
  else if old.length ≤ 48 then .next { s with failedDies := if s.failedDies.contains die then s.failedDies else die :: s.failedDies }
  else
    let s1 := (s.moveMasters die chan).relist die (old.filter (· != chan))
    .next (s1.errorRec { time := s.now, source := 80 + die, kind := 2, launch := 0, arg := chan + 256 * die + 65536 * s1.backed die })

/-! ### Key rotation (R88) -/

/-- A sector of the interface that is not poisoned carries the previous version. -/
def State.carriesOld (s : State) (vif : Nat) : Bool :=
  s.band.any (fun x => x.2.vif == vif && !x.2.poison && !x.2.dead && s.answers x.1 && s.versionOk vif x.2.kver && x.2.kver != (s.vif vif).kver)

/-- The driver asks for a new key version (R88). Where the last rotation is complete and its report still due, that report goes first. -/
def execKeyRotationRequest (vif : Nat) (s : State) : Host.Outcome State Fault Refusal :=
  let v := s.vif vif
  if 64 ≤ vif ∨ s.recovery ∨ (v.hasPrev ∧ s.carriesOld vif) then .next s
  else
    let s1 := if v.hasPrev then { s with sent := s.sent ++ [Sent.keys vif v.kver] } else s
    .next (s1.setVif vif { v with kver := (v.kver + 1) % 256, hasPrev := true })

/-- A rotation is complete: the previous keys go, and the driver is told (R88). -/
def execKeyRotationComplete (vif : Nat) (s : State) : Host.Outcome State Fault Refusal :=
  let v := s.vif vif
  if v.hasPrev ∧ !s.carriesOld vif then .next { s.setVif vif { v with hasPrev := false } with sent := s.sent ++ [Sent.keys vif v.kver] }
  else .next s

end Sys2Proof.Machine
end

