-- ==== Sys2Proof/Machine/Package.lean ====
section
/-! DEFINITION. The steps of the caches, the translation structures and the ridge network (03 R73 to R75, 05 R119 to R123, 06 R127,
R135 to R140, 07 R151). -/

namespace Sys2Proof.Machine

open Sys2Proof

/-! ### Fills and evictions -/

/-- A miss-status entry that brings the L1 nothing is free: its data have come, and where its line is the host's, no load of the core waits for a
response there (R150, R151, R162). -/
def State.missBare (s : State) (m : Miss) : Bool :=
  m.secs.isEmpty && !s.requests.any (fun r => r.host && r.isLoad && r.accs.any (fun a => a.va / 64 == m.line) &&
    (match s.group? r.g with | some g => g.core == m.core | none => false))

/-- A sector of a core's outstanding miss comes in; the entry is free once every sector of it has. A miss beyond the core's 512 entries
waits (R151). -/
def execL1Fill (core sector : Nat) (s : State) : Host.Outcome State Fault Refusal :=
  match (s.missesOf core).find? (fun m => m.secs.contains sector || (m.line == sector / 2 && s.missBare m)) with
  | none => .next s
  | some m =>
    let left := m.secs.filter (· != sector)
    let s1 := if m.secs.isEmpty then s else (State.readLevel (corePath core sector) m.vif sector (List.range 32) s).2
    .next { s1 with
      mshrs := if left.isEmpty then s.mshrs.erase m else s.mshrs.map (fun x => if x = m then { m with secs := left } else x) }

/-- A cache level evicts a line (R126, R127). -/
def execCacheEviction (u : CacheId) (line : Nat) (s : State) : Host.Outcome State Fault Refusal :=
  .next (if (s.cache u).holds (2 * line) ∨ (s.cache u).holds (2 * line + 1) then s.evictLine u line else s)

/-- The launches with a block on a die whose image reaches a line. -/
def State.imagesAt (s : State) (die line : Nat) : List Launch :=
  s.launches.filter (fun l => decide (pBase l.image < 128 * line + 128) && decide (128 * line < pBase l.image + 64 + l.hdr.codelen) &&
    !(s.imageCores die l.vif l.ctx (pBase l.image)).isEmpty)

/-- A die's fetch agent fills a line to every core that holds the image (R73); a line of an image that has changed may take the
new contents (R74), and a fault on it is dropped (R75). -/
def execInstructionFetchFill (die line : Nat) (s : State) : Host.Outcome State Fault Refusal :=
  let one := fun (t : State) (l : Launch) =>
    let cores := t.imageCores die l.vif l.ctx (pBase l.image)
    let bare := { t with ilines := t.ilines.filter (fun x => !(x.vif == l.vif && x.ctx == l.ctx && x.line == line && cores.contains x.core)) }
    let q := bare.fillLine (cores.headD 0) l.vif l.ctx (pBase l.image) line
    match q.1 with
    | .ok _ => q.2
    | .error _ => t
  .next ((s.imagesAt die line).foldl one s)

/-! ### Translation -/

/-- A walker serves a TLB miss of a core (R118 to R122); a walk that ends in a fault is the faulting access's own (R124). -/
def execTranslationWalk (core vif ctx va : Nat) (kind : AccKind) (s : State) : Host.Outcome State Fault Refusal :=
  let units : List CacheId := match kind with
    | .engRead | .engWrite => [.cl (clusterOf core)]
    | _ => coreTlbs core
  let q := s.translate { vif, ctx, tgt := 2, write := AccKind.writes kind, fetch := decide (kind = .fetch) } units (dieOf core) va
  match q.1 with
  | .ok _ _ => .next q.2
  | _ => .next s

/-- An access of a context may yet use a translation of a range that it made before: one that waits for the host, a DEQ that sleeps on a
queue there, or a buffered ATOMF (R123, R167). -/
def State.usesOld (s : State) (vif ctx lo hi : Nat) : Bool :=
  let mine := fun (id : Nat) => match s.launch? id with | some l => l.vif == vif && l.ctx == ctx | none => false
  let meets := fun (a n : Nat) => decide (a / 4096 * 4096 < hi) && decide (lo < a + n)
  s.requests.any (fun r => r.host && mine r.g.b.launch) ||
  s.blocks.any (fun b => mine b.ref.launch && b.log.any (fun e => meets e.va 4)) ||
  (s.groups ++ s.blocks.flatMap (·.saved)).any (fun g => mine g.ref.b.launch && g.frags.any (fun f => match f.wait with
    | .deq p .. => meets (pBase p) (pLen p)
    | _ => false))

/-- The driver's invalidation of a range of a context: every TLB and walk cache drops the entries that cover an address of it, and the
command completes once no access uses the old translation (R123); until then it stands in `invals`. -/
def execInvalidationCommand (vif ctx lo hi : Nat) (s : State) : Host.Outcome State Fault Refusal :=
  let covered := fun (t : Tlb) =>
    t.vif == vif && t.ctx == ctx && decide (t.va * xlSize t.level < hi) && decide (lo < (t.va + 1) * xlSize t.level)
  let c := (vif, ctx, lo, hi)
  let others := s.invals.filter (· != c)
  .next { s with tlbs := s.tlbs.filter (fun t => !covered t), invals := if s.usesOld vif ctx lo hi then c :: others else others }

/-! ### Snoops -/

/-- A snoop arrives: a die's RDC drops its clean copy of a sector; a dirty copy stays, and one whose poison has yet to go on (R85, R135). -/
def State.dropSnooped (s : State) (die sec : Nat) : State :=
  let c := s.cache (.rdc die)
  if (c.outgoing sec).isEmpty then s.setCache (c.drop sec) else s

/-- The snoops that may arrive next: of each pair of dies, the one sent first (R137). -/
def State.snoopHeads (s : State) : List Snoop :=
  s.snoops.foldl (fun acc x => if acc.any (fun (y : Snoop) => y.src == x.src && y.die == x.die) then acc else acc ++ [x]) []

/-- A snoop from a home arrives (R135, R137). -/
def execSnoopInvalidate (die sector : Nat) (s : State) : Host.Outcome State Fault Refusal :=
  match s.snoopHeads.find? (fun x => x.die == die && x.sector == sector) with
  | none => .next s
  | some x => .next ({ s with snoops := s.snoops.erase x }.dropSnooped die sector)

/-- A port frees a filter entry: the region beyond it is invalidated first, dirty bytes written home (R136). -/
def execSnoopFilterFree (port region : Nat) (s : State) : Host.Outcome State Fault Refusal :=
  if s.filters.contains (port, region) then
    let one := fun (t : State) (d : Nat) =>
      (List.range 32).foldl (fun (u : State) (k : Nat) =>
        if (u.route (homeOf (32 * region + k)) d).contains port then State.dropOut (.rdc d) u (32 * region + k) else u) t
    let s1 := (List.range 4).foldl one s
    .next { s1 with filters := s1.filters.filter (· != (port, region)) }
  else .next s

/-! ### Failures of the ridge network -/

/-- A ridge link fails: its traffic takes the other way, with nothing lost (R138, R139). What it had queued goes on in the reroute channel,
ahead of what is sent later. -/
def execLinkFailure (link : Nat) (s : State) : Host.Outcome State Fault Refusal :=
  if 4 ≤ link ∨ s.linksFailed.contains link then .next s
  else
    let moved := s.snoops.map (fun x => if (s.route x.src x.die).any (fun p => p / 2 == link) then { x with moved := true } else x)
    .next ({ s with linksFailed := link :: s.linksFailed, degraded := true, filtersBuilt := false, snoops := moved }.errorRec
      { time := s.now, source := 80, kind := 3, launch := 0, arg := link })

/-- The dies that failed links cut off from die 0 (R140): those that neither way round reaches. -/
def State.cutOff (s : State) : List Nat :=
  let whole := fun (ps : List Nat) => ps.all (fun p => !s.linksFailed.contains (p / 2))
  (List.range 4).filter (fun d => !whole (hops true (ringPos d) 0) && !whole (hops false (4 - ringPos d) 0))

/-- The caches of a die, and the L1s and cluster caches of its cores. -/
def dieCaches (die : Nat) : List CacheId :=
  [.rdc die, .l2 die] ++ ((List.range 64).filter (fun c => dieOf c == die)).map CacheId.l1 ++
    ((List.range 16).filter (fun c => dieOfCluster c == die)).map CacheId.cl

/-- The ring is split (R140, R456): the dies cut off are lost with what they hold, the launches with blocks there end, and the
lines of lost dies leave the surviving RDCs. -/
def execDieSplit (s : State) : Host.Outcome State Fault Refusal :=
  let lost := s.cutOff
  if lost.all s.lostDies.contains then .next s
  else
    let gone := (s.launches.filter (fun l => s.blocks.any (fun b => b.ref.launch == l.id && b.place == .resident &&
      b.cores.any (fun c => lost.contains (dieOf c))))).map (·.id)
    let s1 := gone.foldl (fun (t : State) (id : Nat) => t.endLaunch id 3) s
    let s2 := (lost.flatMap dieCaches).foldl State.dropCache s1
    let s3 := (List.range 4).foldl (fun (t : State) (d : Nat) =>
      let c := t.cache (.rdc d)
      t.setCache ((c.secs.filter (fun x => !secIsHost x && lost.contains (homeDie x))).foldl Cache.drop c)) s2
    let mask := (lost.map (fun d => 2 ^ d)).sum
    .next ({ s3 with
      lostDies := lost, degraded := true
      copies := s3.copies.filter (fun c => !lost.contains (dieOfCluster c.cluster))
      snoops := s3.snoops.filter (fun x => !lost.contains x.die)
      owners := s3.owners.filter (fun o => !lost.contains (dieOf o.core))
      chunks := s3.chunks.filter (fun c => !lost.contains (dieOf c.core)) }.errorRec
        { time := s.now, source := 80, kind := 4, launch := 0, arg := mask })

end Sys2Proof.Machine
end

