-- ==== Sys2Proof/Machine/Sched.lean ====
section
/-! DEFINITION. The scheduling instructions (20 R406 to R412), but for SPAWN. -/

namespace Sys2Proof.Machine

open Sys2Proof

/-- A fragment arrives at a blocking point with all of its lanes. -/
def Ctx.arrive (x : Ctx) (s : State) (w : Wait) : State :=
  (s.setGroup (x.g.setFrag x.c.f { x.f with wait := w })).reachPoint x.c.g.b x.c.g.gang

/-- BAR (R407). -/
def execBar (c : Ctl) (s : State) : Host.Outcome State Fault Refusal :=
  s.run (.bar c) (fun x s => .ok ((x.arrive (s.release x.g.core 1) .bar).checkBar x.c.g.b, .step))

/-- CBAR (R408). -/
def execCbar (c : Ctl) (s : State) : Host.Outcome State Fault Refusal :=
  s.run (.cbar c) (fun x s => .ok ((x.arrive (s.release x.g.core 3) .cbar).checkCbar x.c.g.b.launch, .step))

/-- CJOIN (R411). -/
def execCjoin (c : Ctl) (d : SReg) (s : State) : Host.Outcome State Fault Refusal :=
  s.run (.cjoin c d) (fun x s => .ok (x.arrive s (.cjoin d), .step))

/-- A fragment leaves its CJOIN with the count of its block's failed children. -/
def Group.joined (g : Group) (bad : Nat) : Group :=
  g.frags.foldl (fun (h : Group) (f : Frag) => match f.wait with
    | .cjoin d => (h.write 0 (.s d.val (BitVec.ofNat 32 bad))).setFrag (lowest f.lanes) { f with wait := .no }
    | _ => h) g

/-- Every live thread of a block waits at a CJOIN, and its children are complete (R411). -/
def State.cjoinReady (s : State) (b : Block) : Bool :=
  b.children.isEmpty && (s.groupsOf b.ref).any (fun g => g.frags.any Frag.atCjoin) && s.allAt b.ref Frag.atCjoin

/-- The release of a block's CJOIN (R411). -/
def execCjoinRelease (r : BRef) (s : State) : Host.Outcome State Fault Refusal :=
  match s.block? r with
  | none => .next s
  | some b =>
    if b.place = .resident ∧ s.cjoinReady b then
      let s1 := b.cores.foldl (fun (t : State) (c : Nat) => t.acquire c 3) s
      .next ({ s1 with groups := s1.groups.map (fun (g : Group) => if g.ref.b = r then g.joined b.badChildren else g) }.setBlock
        { b with badChildren := 0 })
    else .next s

/-- YIELD's mark on the group (R397, R412). -/
def Ctx.yields (x : Ctx) (s : State) : State := s.setGroup { x.g with yielded := true }

/-- SLEEP (R412); SLEEP 0 acts as YIELD. -/
def execSleep (c : Ctl) (n : SOrImm) (s : State) : Host.Outcome State Fault Refusal :=
  s.run (.sleep c n) (fun x s =>
    let k := match n with
      | .reg r => (x.s .a r.val 0).toNat
      | .imm w => w.toNat
    .ok (if k = 0 then x.yields s else s.setGroup (x.g.setFrag x.c.f { x.f with wait := .sleep (s.time + k) }), .step))

/-- A sleep has ended (R412). -/
def execSleepWake (r : GRef) (lane : Nat) (s : State) : Host.Outcome State Fault Refusal :=
  match s.group? r with
  | none => .next s
  | some g =>
    match g.frag? lane with
    | none => .next s
    | some f =>
      match f.wait with
      | .sleep t => .next (if t ≤ s.time then s.setGroup (g.setFrag lane { f with wait := .no }) else s)
      | _ => .next s

/-- YIELD (R412). -/
def execYield (c : Ctl) (s : State) : Host.Outcome State Fault Refusal := s.run (.yield c) (fun x s => .ok (x.yields s, .step))

end Sys2Proof.Machine
end

