-- ==== Sys2Proof/Machine/System.lean ====
section
/-! DEFINITION. The system instructions (23 R423 to R428, 26 R438 to R440): TRAP, ERET, BKPT, SREAD, SWRITE, MARK and CLK. -/

namespace Sys2Proof.Machine

open Sys2Proof

/-- TRAP (R426). -/
def execTrap (c : Ctl) (code : BitVec 16) (s : State) : Host.Outcome State Fault Refusal :=
  s.run (.trap c code) (fun x _ => .error { x.trap .trapi x.act code.toNat with after := true })

/-- ERET (R423, R424). -/
def execEret (c : Ctl) (s : State) : Host.Outcome State Fault Refusal := s.run (.eret c) eretBody

/-- BKPT (R426, R441). -/
def execBkpt (c : Ctl) (code : BitVec 16) (s : State) : Host.Outcome State Fault Refusal :=
  s.run (.bkpt c code) (fun x _ => .error { x.trap .bkpt x.act code.toNat with after := true })

/-! ### System registers -/

/-- A read of sr.fpstat: the sticky bits of outstanding operations are in it or not, bit by bit (R427). -/
def Group.fpRead (g : Group) (t : Nat) : Nat :=
  let own := g.fpstat.toNat % 32
  let late := (g.pend.map (fun p => p.sticky)).foldl (· ||| ·) (0 : BitVec 5)
  bitsNat (fun k => own.testBit k || (late.getLsbD k && Config.free t (2 ^ 45 + k) % 2 == 1)) 5

/-- A sibling's trap is held (R417). -/
def Group.heldTrap (g : Group) : Bool :=
  g.frags.any (fun f => f.handler) && g.frags.any (fun f => !f.handler && !f.traps.isEmpty)

/-- A per-lane system register (Table 10-6). -/
def Ctx.srLane (x : Ctx) (n l : Nat) : Nat := if n = 0 then l else x.g.threadAt l

/-- A uniform system register (Tables 10-6, 14-2, 23-5, 26-5). -/
def Ctx.sr (x : Ctx) (n : Nat) : Nat :=
  match n with
  | 0x002 => x.c.g.k
  | 0x003 => x.c.g.gang
  | 0x004 => x.c.g.k % 4
  | 0x005 => x.c.g.b.block
  | 0x006 => x.c.g.b.launch
  | 0x007 => x.l.nblk
  | 0x008 => x.l.thr
  | 0x009 => x.g.core
  | 0x00A => clusterOf x.g.core
  | 0x00B => dieOf x.g.core
  | 0x00C => x.g.part
  | 0x00D => x.l.vif
  | 0x00E => x.act.toNat
  | 0x00F => x.g.live.toNat
  | 0x010 => x.g.fpRead x.t
  | 0x011 => fieldSum [(0, b01 (x.g.frags.any (fun f => f.handler))), (1, b01 x.g.heldTrap)]
  | 0x012 => x.g.tfp.toNat
  | 0x013 => x.g.thand.toNat
  | 0x018 => x.g.adk.toNat
  | 0x019 => x.g.adn.toNat
  | 0x020 => x.g.dctl.toNat
  | 0x021 | 0x022 | 0x023 | 0x024 => (sgetD x.g.bpc (n - 0x021) 0).toNat
  | 0x025 | 0x026 => (sgetD x.g.wadr (n - 0x025) 0).toNat
  | 0x027 | 0x028 => (sgetD x.g.wctl (n - 0x027) 0).toNat
  | _ => 0

/-- How many 32-bit registers a system register fills. -/
def srWords (n : Nat) : Nat :=
  match srInfo n with
  | some (.uniform w, _) => w / 32
  | _ => 1

/-- SREAD (R223, R427). -/
def execSread (c : Ctl) (n : Fin 512) (d : Reg) (s : State) : Host.Outcome State Fault Refusal :=
  s.fixed (.sread c n d) 4 (fun x =>
    let lane := decide (n.val < 2)
    (List.range (srWords n.val)).map (fun k =>
      match d with
      | .v r => .v (r.val + k) x.act (mkRow (fun l => if lane then BitVec.ofNat 32 (x.srLane n.val l) else wordAt (x.sr n.val) k))
      | .s r => .s (r.val + k) (wordAt (x.sr n.val) k)))

/-- A write of a system register; none where a reserved bit of a debug register is set (R427, R440). -/
def Group.srWrite (g : Group) (n : Nat) (lo hi : Word) : Option Group :=
  match n with
  | 0x010 => some { g with fpstat := BitVec.ofNat 32 (lo.toNat % 32) }
  | 0x013 => some { g with thand := lo }
  | 0x018 => some { g with adk := lo }
  | 0x019 => some { g with adn := lo }
  | 0x020 => if lo.toNat < 4 then some { g with dctl := lo } else none
  | 0x021 | 0x022 | 0x023 | 0x024 => if field lo.toNat 1 2 = 0 then some { g with bpc := sput 0 g.bpc (n - 0x021) lo } else none
  | 0x025 | 0x026 => some { g with wadr := sput 0 g.wadr (n - 0x025) (BitVec.ofNat 64 (pairVal lo hi)) }
  | 0x027 | 0x028 => if field lo.toNat 2 14 = 0 then some { g with wctl := sput 0 g.wctl (n - 0x027) lo } else none
  | _ => some g

/-- SWRITE (R427). -/
def execSwrite (c : Ctl) (n : Fin 512) (a : SReg) (s : State) : Host.Outcome State Fault Refusal :=
  s.run (.swrite c n a) (fun x s =>
    match x.g.srWrite n.val (x.s .a a.val 0) (if srWords n.val = 2 then x.s .a a.val 1 else 0) with
    | some g => .ok (s.setGroup g, .step)
    | none => .error (x.trap .illegal))

/-- A MARK's record (R437, R439, Table 26-3). -/
def Ctx.markRec (x : Ctx) (s : State) (code : BitVec 16) (v : Word) (l : Nat) : State :=
  s.traceRec x.l.vif { time := s.now, source := x.g.core, kind := 1, name := threadName x.c.g.b (x.g.threadAt l), pc := x.c.pc
                       payload := 2 ^ 32 * code.toNat + v.toNat }

/-- MARK (R438, R439). -/
def execMark (c : Ctl) (code : BitVec 16) (a : Src) (s : State) : Host.Outcome State Fault Refusal :=
  s.run (.mark c code a) (fun x s =>
    .ok (match a with
      | .s _ => x.markRec s code (x.src .a a 0 0) (lowest x.act)
      | .v .. => (lanesOf x.act).foldl (fun (t : State) (l : Nat) => x.markRec t code (x.src .a a 0 l) l) s, .step))

/-- CLK (R438, R439). -/
def execClk (c : Ctl) (d : Reg) (s : State) : Host.Outcome State Fault Refusal :=
  let t := s.now
  s.fixed (.clk c d) 4 (fun x =>
    (List.range 2).map (fun k =>
      match d with
      | .v r => .v (r.val + k) x.act (mkRow (fun _ => wordAt t k))
      | .s r => .s (r.val + k) (wordAt t k)))

end Sys2Proof.Machine
end

