-- ==== Sys2Proof/Machine/Complete.lean ====
section
/-! DEFINITION. The end of a flag-covered operation (03 R53, R55, R56), the traps a fragment takes before its next issue (23 R414 to
R417), and the debugger's stops (26 R441 to R444). -/

namespace Sys2Proof.Machine

open Sys2Proof

/-! ### Completion -/

/-- A result as a register takes it: in the lanes that another write has raced, the register keeps what it holds or takes the
result (R55). What is outstanding when a thread exits is discarded (R56): its lane keeps what it holds. `gone` are the lanes that had exited
before the operation issued, which it writes (R306). -/
def Group.settleRes (g : Group) (t k : Nat) (r : Res) (raced gone : Lanes) : Res :=
  let take := fun (l : Nat) => !raced.getLsbD l || Config.free t (64 * (2 ^ 30 + k) + l) % 2 == 1
  let lanes := fun (m : Lanes) => mkLanes (fun l => m.getLsbD l && !(g.exited &&& ~~~gone).getLsbD l && take l)
  match r with
  | .v n m x => .v n (lanes m) x
  | .p n m b => .p n (lanes m) b
  | .s n x => .s n (if take 0 then x else g.scell n)
  | .a n x => .a n (if take 0 then x else g.acell n)

/-- The group with an operation's results in its registers. -/
def Group.takeRes (g : Group) (t : Nat) (p : Pend) : Group :=
  let g0 := { g with pend := g.pend.filter (fun q => q.entry.seq != p.entry.seq) }
  let g1 := (List.range p.res.length).foldl (fun (h : Group) (k : Nat) => match p.res[k]? with
    | some r => h.write 0 (h.settleRes t k r (p.raced.getD k 0) p.gone)
    | none => h) g0
  g1.stick p.sticky

/-- An AFLUSH waits for the chunks that it named and that an MLOOP still pins (R326). -/
def State.flushed (s : State) (g : Group) (p : Pend) : Option State :=
  match p.doing with
  | .aflush id =>
    (match s.entryCtx g { lanes := p.frag, pc := 0 } p.entry with
      | none => some s
      | some x => if s.chunks.any (fun k => x.flushes id k && k.doomed) then none else some s)
  | .ready => some s
  | _ => none

/-- The trap that an operation ends in: its own, or the watchpoint it touched (R443). -/
def Pend.ends (p : Pend) (now : Nat) : Option Trap :=
  match p.trap, p.watch with
  | some t, _ => some { t with arose := now }
  | none, some a => some (({ p.entry with skip := true }).late { cause := .watch, lanes := p.entry.lanes, info := BitVec.ofNat 64 a, tpc := p.entry.tpc, arose := now })
  | none, none => none

/-- The watchpoint that the performed lanes of an atomic touched, where a later lane's word was poison: due after the MEMERR (R164, R416, R441). -/
def Pend.watched (p : Pend) (now : Nat) : Option Trap :=
  match p.trap, p.watch with
  | some _, some a => if p.hit = 0 then none else
    some { cause := .watch, lanes := p.hit, info := BitVec.ofNat 64 a, tpc := p.entry.tpc, arose := now, prec := false, seq := p.entry.seq }
  | _, _ => none

/-- The group where an operation that a fragment holds ends in a trap: what it has done is done, and the fragment has the trap to take. -/
def Group.endTrap (g : Group) (f : Frag) (t : Trap) (now : Nat) (p : Pend) : Group :=
  let g1 := g.takeRes now p
  let p1 := { p with res := [], raced := [], sticky := 0, trap := none, watch := none, doing := .trapping, hit := 0
                     entry := { p.entry with skip := p.trap.isNone } }
  let f1 := match p.watched now with | some w => (f.addTrap t).addTrap w | none => f.addTrap t
  let g2 := g1.setFrag (lowest f.lanes) f1
  { g2 with pend := g2.pend ++ [p1] }

/-- An operation completes (R53): its results are readable and its flag falls, or its fragment has a trap to take. The
results of a fragment that has exited are discarded (R56). -/
def State.complete (s : State) (g : Group) (p : Pend) : State :=
  match g.frags.find? (fun f => g.owns f p) with
  | none =>
    let g1 := { g with pend := g.pend.filter (fun q => q.entry.seq != p.entry.seq) }.countOut p.entry.flag
    let s1 := s.setGroup g1
    (match p.trap with
      | some t => s1.report g.ref (lowest p.frag) { t with entry := none }
      | none => s1).settleBlock g.ref.b
  | some f =>
    match p.ends s.tick with
    | none => (s.setGroup ((g.takeRes s.tick p).countOut p.entry.flag)).settleBlock g.ref.b
    | some t => s.setGroup (g.endTrap f t s.tick p)

/-- The outstanding operation of an issue number. -/
def Group.op? (g : Group) (op : Nat) : Option Pend := g.pend.find? (fun p => p.entry.seq == op && p.tags.isEmpty)

/-- A flag-covered operation completes (R53). -/
def execFlagCompletion (r : GRef) (op : Nat) (s : State) : Host.Outcome State Fault Refusal :=
  match s.group? r with
  | none => .next s
  | some g =>
    match g.op? op with
    | none => .next s
    | some p =>
      match s.flushed g p with
      | none => .next s
      | some t => .next (t.complete g p)

/-! ### Pending traps -/

/-- The earliest of the pending traps (R416). -/
def Frag.firstTrap (f : Frag) : Option Trap := (sortBy (fun (a b : Trap) => decide (a.seq ≤ b.seq)) f.traps).head?

/-- The fragment may take a trap now: no sibling's handler holds it (R417), and none that arose earlier waits before it. -/
def Group.mayTake (g : Group) (f : Frag) : Bool :=
  let when := fun (x : Frag) => (x.firstTrap.map (·.arose)).getD 0
  f.atTrap && (f.handler || (!g.frags.any (fun x => x.handler) &&
    g.frags.all (fun x => !x.atTrap || decide (when f ≤ when x))))

/-- The fragment no longer waits at its JWAIT or for its gather: its PC is still there. What else it sleeps on goes into its frame. -/
def Group.leave (g : Group) (f : Frag) : Group :=
  let g1 := g.setFrag (lowest f.lanes) { f with wait := f.rest }
  match f.wait with
  | .jwait k =>
    let j := g.rejoin k.val
    let arrived := j.arrived &&& ~~~f.lanes
    { g1 with j := sput {} g1.j k.val { j with arrived, wpc := if arrived = 0 then none else j.wpc } }
  | _ => g1

/-- A fragment takes its earliest pending trap, where a test accepts it. -/
def State.takePending (s : State) (r : GRef) (lane : Nat) (p : Trap → Bool) : State :=
  match s.group? r with
  | none => s
  | some g =>
    match g.frag? lane with
    | none => s
    | some f =>
      match f.firstTrap with
      | none => s
      | some t =>
        if g.mayTake f ∧ p t then
          let g1 := g.leave { f with traps := f.traps.erase t }
          (s.setGroup g1).takeTrap r lane t
        else s

/-- A fragment takes a trap (R415, R416). -/
def execTakeTrap (r : GRef) (lane : Nat) (s : State) : Host.Outcome State Fault Refusal :=
  .next (s.takePending r lane (fun t => t.cause != .watch))

/-- A watched access stops its fragment, or traps (R441, R443). -/
def execWatchpointStop (r : GRef) (lane : Nat) (s : State) : Host.Outcome State Fault Refusal :=
  .next (s.takePending r lane (fun t => t.cause == .watch))

/-! ### Breakpoints and steps -/

/-- Every instruction that the group issued earlier has completed, a tile instruction that sets no flag among them, but for suspended matrix
instructions and loads that wait for a response (R442). -/
def State.quiet (s : State) (g : Group) : Bool :=
  g.pend.all (fun p => match p.doing with
    | .response id => s.requests.any (fun r => r.id == id && r.isLoad)
    | .quad => true
    | _ => false) &&
    s.quads.all (fun q => q.queue.all (fun o => o.g != g.ref || o.suspended || o.awaits))

/-- A fragment about to issue at an enabled breakpoint stops, or traps BKPT (R441, R442). -/
def execBreakpointStop (r : GRef) (lane : Nat) (s : State) : Host.Outcome State Fault Refusal :=
  match s.group? r with
  | none => .next s
  | some g =>
    match g.frag? lane with
    | none => .next s
    | some f =>
      match s.bpDue g f with
      | none => .next s
      | some (k, s1) =>
        if s.quiet g then
          let pc := match s1.cur with | some c => c.pc | none => f.pc
          .next (({ s1 with cur := none } : State).takeTrap r lane { cause := .bkpt, lanes := f.lanes, info := BitVec.ofNat 64 (0x10000 + k), tpc := pc })
        else .next s

/-- Stepping stops a fragment that has issued an instruction since it last started or resumed (R441, R442). -/
def Frag.stepDue (f : Frag) (s : State) (g : Group) : Bool :=
  match s.launch? g.ref.b.launch with
  | none => false
  | some l => f.runnable g && f.inject.isEmpty && debugOn s l f && g.dctl.getLsbD 0 && f.stepped && s.quiet g

/-- A step stops its fragment, or traps STEP (R441, R442). -/
def execStepStop (r : GRef) (lane : Nat) (s : State) : Host.Outcome State Fault Refusal :=
  match s.group? r with
  | none => .next s
  | some g =>
    match g.frag? lane with
    | none => .next s
    | some f => .next (if f.stepDue s g then s.takeTrap r lane { cause := .step, lanes := f.lanes, tpc := f.pc } else s)

/-! ### The debugger -/

/-- A debugger attaches to an interface that has accepted the feature (R441, Table 27-4). -/
def execDebugAttach (vif : Nat) (s : State) : Host.Outcome State Fault Refusal :=
  .next (if s.feature vif 11 then s.setVif vif { s.vif vif with debugger := true } else s)

/-- A stopped fragment goes on: from the frame in memory where it is its own, else from the core's copy of it (R441). A sibling that stopped
where it stood goes on as what it waits for has left it, at the word after a JWAIT that has merged it (R444). None where a check of R423 fails. -/
def State.unstop (s : State) (g : Group) (l : Launch) (f : Frag) : Option (State × Frag) :=
  match f.frame with
  | none => some (s, { f with stopped := false })
  | some fr =>
    let h := s.frameRead g.core l.vif l.ctx (pBase g.tfp) 256
    let mine := match h.1 with | some bs => field (leNat bs) 64 64 == fr.frag.toNat | none => false
    if mine then (match s.resume g l f fr with | .go t e => some (t, e) | .sleep _ _ t => some (t, f) | .bad => none)
    else
      let f1 := if f.lanes = fr.frag then { f with pc := fr.pc, clause := fr.clause, pfx := fr.pfx } else f
      some (s, { f1 with wait := if f.wait = .no then fr.wait else f.wait, inject := fr.entries.filter (fun e => !e.skip), stopped := false, stepped := false })

/-- What a fragment keeps through a stop: in handler mode still, with the traps that wait for its ERET (R416, R441). -/
def Frag.goesOn (f f1 : Frag) : Frag :=
  { f1 with handler := f.handler, frame := f.under, under := none, kept := f.kept, traps := f.traps }

/-- The debugger resumes every stopped fragment of a group (R441, R444). -/
def execDebugResume (r : GRef) (s : State) : Host.Outcome State Fault Refusal :=
  match s.group? r with
  | none => .next s
  | some g0 =>
    let s0 := s.setGroup { g0 with frags := g0.frags.map (fun f => { f with allStop := false }) }
    .next ((g0.frags.filter (fun f => f.stopped)).foldl (fun (t : State) (f : Frag) =>
      match t.group? r, t.launch? r.b.launch with
      | some g, some l =>
        (match t.unstop g l f with
          | some (u, f1) =>
            if f1.stopped then u
            else (match u.group? r with
              | some h => (u.setGroup (h.setFrag (lowest f.lanes) (f.goesOn f1))).checkArrived r.b
              | none => u)
          | none => t.trapKills g ((f.frame.map (·.trap)).getD { cause := .illegal }) f.frame)
      | _, _ => t) s0)

end Sys2Proof.Machine
end

