-- ==== Sys2Proof/Machine/Control.lean ====
section
/-! DEFINITION. The control instructions (17 R365 to R384): branches, calls, returns, rejoin masks, EXIT, and the moves of
threads by REFORM and REORDER. -/

namespace Sys2Proof.Machine

open Sys2Proof

/-! ### Branches (R366, R371) -/

/-- The fragments after a branch: the class that goes on at the following word, which keeps the prefix state, and one for
each other target (R366). -/
def Ctx.classes (x : Ctx) (take : Lanes) (t : Nat → Nat) : List Frag :=
  let away := mkLanes (fun l => take.getLsbD l && t l != x.c.npc)
  let f := { x.f with last := x.g.seq, stepped := true }
  let stay := f.lanes &&& ~~~away
  (if stay = 0 then [] else [{ f.advance x.c.npc with lanes := stay }]) ++
  (((lanesOf away).map t).eraseDups).map (fun (pc : Nat) =>
    { f with lanes := mkLanes (fun l => away.getLsbD l && t l == pc), pc, clause := none, pfx := none })

/-- The lanes whose target's fetch ends in a way that a test accepts. -/
def targetLanes (take : Lanes) (t : Nat → Nat) (stops : List (Nat × Fetched)) (p : Fetched → Bool) : Lanes :=
  mkLanes (fun l => take.getLsbD l && stops.any (fun y => y.1 == t l && p y.2))

def Fetched.isRefused : Fetched → Bool
  | .refused => true
  | _ => false
def Fetched.isPoison : Fetched → Bool
  | .poison _ => true
  | _ => false

/-- The targets of the lanes `take` are checked before anything moves (R65, R66): one that fails traps, and the trap names the
failing lanes; the lanes whose words' pages are missing send the group to sleep at the instruction; else `k` goes on. DESIGN CHOICE: where some lanes' targets
are bad and others' words cannot be fetched, BADTGT comes first. -/
def Ctx.toTargets (x : Ctx) (s : State) (take : Lanes) (t : Nat → Nat) (k : State → Except Trap (State × Flow)) :
    Except Trap (State × Flow) :=
  let q := s.targets x.g.core x.l (((lanesOf take).map t).eraseDups)
  let bad := mkLanes (fun l => take.getLsbD l && q.1.1.contains (t l))
  let refused := targetLanes take t q.1.2 Fetched.isRefused
  let poisoned := targetLanes take t q.1.2 Fetched.isPoison
  let misses := q.1.2.filterMap (fun y => match y.2 with
    | .fault va c => some (va, c, targetLanes take t [y] (fun _ => true))
    | _ => none)
  if bad ≠ 0 then .error (x.trap .badtgt bad (t (lowest bad)))
  else
    if !misses.isEmpty then .ok (q.2.fetchSleep x.g x.l x.f misses, .resumed)
    else
      if refused ≠ 0 then .error (x.trap .access refused (pBase x.l.image + t (lowest refused)))
      else if poisoned ≠ 0 then .error (x.trap .memerr poisoned ((pBase x.l.image + t (lowest poisoned)) / 32 * 32))
      else k q.2

/-- A branch of the lanes `take`, each to its own target (R65, R66, R366). `w` are the writes of a call. -/
def Ctx.branch (x : Ctx) (s : State) (take : Lanes) (t : Nat → Nat) (w : List Res) : Except Trap (State × Flow) :=
  x.toTargets s take t fun s1 => .ok (s1.setGroup ((x.g.writes 0 w).splitFrag x.c.f (x.classes take t)), .resumed)

/-- The return address in the link slot of the lanes that call (R372). -/
def Ctx.link (x : Ctx) (take : Lanes) : List Res := [.v 383 take (mkRow (fun _ => BitVec.ofNat 32 x.c.after))]

/-- NOP (R378). -/
def execNop (c : Ctl) (s : State) : Host.Outcome State Fault Refusal := s.run (.nop c) (fun _ s => .ok (s, .step))

/-- EXIT (R377). -/
def execExit (c : Ctl) (s : State) : Host.Outcome State Fault Refusal :=
  s.run (.exit c) (fun x s =>
    let f := { x.f.advance x.c.npc with last := x.g.seq, stepped := true }
    .ok ((s.setGroup (x.g.setFrag x.c.f f)).exitLanes x.c.g x.c.f x.act, .resumed))

/-- BRA (R371). -/
def execBra (c : Ctl) (t : Word) (s : State) : Host.Outcome State Fault Refusal :=
  s.run (.bra c t) (fun x s => x.branch s x.act (fun _ => t.toNat) [])

/-- BRC (R371). -/
def execBrc (c : Ctl) (inv : Bool) (p : PReg) (t : Word) (s : State) : Host.Outcome State Fault Refusal :=
  s.run (.brc c inv p t) (fun x s =>
    x.branch s (x.act &&& mkLanes (fun l => xor (x.p .a p.val l) inv)) (fun _ => t.toNat) [])

/-- BRX (R371). -/
def execBrx (c : Ctl) (a : Src) (s : State) : Host.Outcome State Fault Refusal :=
  s.run (.brx c a) (fun x s => x.branch s x.act (fun l => (x.src .a a 0 l).toNat) [])

/-- CALL (R372). -/
def execCall (c : Ctl) (t : Word) (s : State) : Host.Outcome State Fault Refusal :=
  s.run (.call c t) (fun x s => x.branch s x.act (fun _ => t.toNat) (x.link x.act))

/-- CALLX (R372). -/
def execCallx (c : Ctl) (a : Src) (s : State) : Host.Outcome State Fault Refusal :=
  s.run (.callx c a) (fun x s => x.branch s x.act (fun l => (x.src .a a 0 l).toNat) (x.link x.act))

/-- RET (R373). -/
def execRet (c : Ctl) (s : State) : Host.Outcome State Fault Refusal :=
  s.run (.ret c) (fun x s =>
    let lk := fun l => (x.v .a 383 0 l).toNat
    let none_ := mkLanes (fun l => x.act.getLsbD l && lk l == 0)
    if none_ ≠ 0 then .error (x.trap .noret none_) else x.branch s x.act lk [])

/-! ### Rejoin masks (R374 to R376) -/

/-- JOIN (R374). -/
def execJoin (c : Ctl) (op : JoinOp) (k : JReg) (s : State) : Host.Outcome State Fault Refusal :=
  s.run (.join c op k) (fun x s =>
    let r := x.g.rejoin k.val
    let e := match op with | .set => x.act | .or => r.expected ||| x.act | .clr => 0
    .ok (s.setGroup ({ x.g with j := sput {} x.g.j k.val { r with expected := e } }.joinK k.val), .step))

/-- JWAIT (R375). -/
def execJwait (c : Ctl) (k : JReg) (s : State) : Host.Outcome State Fault Refusal :=
  s.run (.jwait c k) (fun x s =>
    let r := x.g.rejoin k.val
    if !r.live then .ok (s, .step)
    else if r.wpc.isSome ∧ r.wpc ≠ some x.c.pc then .error (x.trap .illegal)
    else
      let g := { x.g.setFrag x.c.f { x.f with wait := .jwait k } with
        j := sput {} x.g.j k.val { r with arrived := r.arrived ||| x.f.lanes, wpc := some x.c.pc } }
      .ok (s.setGroup (g.joinK k.val), .stay))

/-! ### Gathers (R379) -/

/-- The fragment of the instruction waits at its gather; a live rejoin register traps first (R379). -/
def Ctx.gather (x : Ctx) (s : State) (w : Wait) : Except Trap (State × Flow) :=
  if x.g.liveMask ≠ 0 then .error (x.trap .jlive x.f.lanes x.g.liveMask)
  else .ok (s.setGroup (x.g.setFrag x.c.f { x.f with wait := w }), .stay)

/-- REFORM (R379, R380): the fragment's threads wait to be filed. DEDUCED: the rejoin registers are tested before the
targets. -/
def execReform (c : Ctl) (a : Src) (mask : BitVec 48) (s : State) : Host.Outcome State Fault Refusal :=
  s.run (.reform c a mask) (fun x s =>
    let t := fun l => (x.src .a a 0 l).toNat
    if x.g.liveMask ≠ 0 then .error (x.trap .jlive x.f.lanes x.g.liveMask)
    else x.toTargets s x.f.lanes t fun s1 => x.gather s1 (.reform ((List.range 64).map t) mask))

/-- The groups of a block on a core. -/
def State.onCore (s : State) (b : BRef) (core : Nat) : List Group :=
  s.groups.filter (fun g => g.ref.b == b && g.core == core)

/-- The fragment waits at a REORDER of another PC. -/
def Frag.reordersElse (f : Frag) (pc : Nat) : Bool := match f.wait with | .reorder q .. => q != pc | _ => false

/-- REORDER (R379, R383): the fragment's threads wait to be sorted. -/
def execReorder (c : Ctl) (sgn : Bool) (a : VSrc) (mask : BitVec 48) (s : State) : Host.Outcome State Fault Refusal :=
  s.run (.reorder c sgn a mask) (fun x s =>
    if x.g.liveMask ≠ 0 then .error (x.trap .jlive x.f.lanes x.g.liveMask)
    else if (s.onCore x.c.g.b x.g.core).any (fun g => g.frags.any (fun f => f.reordersElse x.c.pc)) then
      .error (x.trap .illegal)
    else x.gather s (.reorder x.c.pc x.c.npc sgn a.r.val mask))

/-- The registers of a granule mask (R369). -/
def maskRegs (m : BitVec 48) : List Nat :=
  ((List.range 48).filter (fun g => m.getLsbD g)).flatMap (fun g => (List.range 8).map (fun k => 8 * g + k))

/-- A thread with what it carries through a gather (R379); `from_` numbers the group's state it comes from. -/
def Group.carry (g : Group) (from_ at_ l : Nat) (m : BitVec 48) : Filed :=
  { thread := g.threadAt l, from_, mask := m, at_, lk := g.vcell 383 l
    rows := (maskRegs m).foldl (fun (r : Sparse Word) (k : Nat) => sput 0 r k (g.vcell k l)) []
    preds := bitsNat (fun k => (g.pcell k).getLsbD l) 8 }

/-- The uniform state of a group, kept for the groups formed of its threads. -/
def Group.source (g : Group) (k : Nat) : Source := { k, s := g.s, a := g.a, adk := g.adk, adn := g.adn, fpstat := g.fpstat }

/-- A slot that no thread is left in (R379). -/
def Group.vacate (g : Group) : Group :=
  { g with threads := List.replicate 64 none, exited := 0, frags := [], v := [], s := [], a := [], p := [], j := [], latch := []
           young := [], pend := [] }

/-- A group formed of threads, in their order from lane 0 up, at a PC (R379, R381, R383). DESIGN CHOICE: sr.thand, sr.tfp and the debug registers
are its slot's; R379 names the uniform, pointer and special registers that go with the threads, and these are not among them (log 161). -/
def Group.form (g : Group) (ts : List Filed) (srcs : List Source) (f : Frag) (age : Nat) : Group :=
  let src := fun (k : Nat) => srcs.find? (fun x => x.k == k)
  let at_ := fun (l : Nat) => ts.getD l default
  let lead := (src (at_ 0).from_).getD default
  let lanes := mkLanes (fun l => decide (l < ts.length))
  let regs := (ts.flatMap (fun (t : Filed) => t.rows.map (·.1))).eraseDups
  let v0 := regs.foldl (fun (m : Sparse Row) (r : Nat) => sset m r (mkRow (fun l => if l < ts.length then sgetD (at_ l).rows r 0 else 0))) []
  { g.vacate with
    threads := (List.range 64).map (fun l => (ts[l]?).map (·.thread))
    frags := [{ f with lanes }]
    v := sset v0 383 (mkRow (fun l => if l < ts.length then (at_ l).lk else 0))
    s := lead.s, a := lead.a, adk := lead.adk, adn := lead.adn
    fpstat := ((ts.map (·.from_)).eraseDups).foldl (fun (x : Word) (k : Nat) => x ||| ((src k).getD default).fpstat) 0
    p := (List.range 7).foldl (fun (m : Sparse Lanes) (k : Nat) =>
      sput 0 m (k + 1) (mkLanes (fun l => decide (l < ts.length) && (at_ l).preds.testBit (k + 1)))) []
    flags := [], age, passedCount := 0, yielded := false, retired := false }

/-- A fragment that starts at a PC outside any clause. -/
def Frag.start (pc last : Nat) : Frag := { lanes := 0, pc, last }

/-- A gather may complete for its groups: their flags are clear, and no run of the block's groups on the core is locked
(R294, R379). -/
def State.gatherFree (s : State) (b : BRef) (core : Nat) (gs : List Group) : Bool :=
  gs.all (fun g => g.flagsClear) && (s.onCore b core).all (fun g => !s.runLocked b g.ref.gang)

/-- The fragment waits at a REFORM, or at a REORDER. -/
def Frag.atReform (f : Frag) : Bool := match f.wait with | .reform .. => true | _ => false
def Frag.atReorder (f : Frag) : Bool := match f.wait with | .reorder .. => true | _ => false

/-- Every live lane of the group waits at a REFORM (R380). -/
def State.reformReady (s : State) (g : Group) : Bool :=
  !g.frags.isEmpty && g.frags.all (fun f => f.atReform && f.traps.isEmpty) && s.gatherFree g.ref.b g.core [g]

/-- The groups of a block on a core that hold a live thread, in the order of their index. -/
def State.liveOn (s : State) (b : BRef) (core : Nat) : List Group :=
  sortBy (fun (g h : Group) => decide (g.ref.k ≤ h.ref.k)) ((s.onCore b core).filter (fun g => g.live != 0))

/-- Every live thread of the block on the core waits at a REORDER (R383). -/
def State.reorderReady (s : State) (b : BRef) (core : Nat) : Bool :=
  let gs := s.liveOn b core
  !gs.isEmpty && gs.all (fun g => g.frags.all (fun f => f.atReorder && f.traps.isEmpty)) && s.gatherFree b core gs

/-- Files a thread in its bin (R380). -/
def Block.file (b : Block) (core target : Nat) (t : Filed) : Block :=
  match b.bins.find? (fun x => x.core == core && x.target == target) with
  | some x => { b with bins := upsert (fun (y : Bin) => y.core == core && y.target == target) { x with threads := x.threads ++ [t] } b.bins }
  | none => { b with bins := b.bins ++ [{ core, target, threads := [t] }] }

/-- The threads of a group waiting at REFORM, ascending by index, each with its target and mask. -/
def Group.filing (g : Group) (from_ at_ : Nat) : List (Nat × Filed) :=
  let one := fun (l : Nat) => match g.frag? l with
    | some f => (match f.wait with | .reform ts m => some (ts.getD l 0, g.carry from_ at_ l m) | _ => none)
    | none => none
  sortBy (fun (a b : Nat × Filed) => decide (a.2.thread ≤ b.2.thread)) ((lanesOf g.live).filterMap one)

/-- Files every thread of a group and leaves its slot vacant (R380). -/
def State.file (s : State) (g : Group) : State :=
  match s.block? g.ref.b with
  | none => s
  | some b =>
    let b1 := (g.filing s.serial s.time).foldl (fun (y : Block) (x : Nat × Filed) => y.file g.core x.1 x.2) b
    (({ s with serial := s.serial + 1 }).setBlock { b1 with sources := b1.sources ++ [g.source s.serial] }).setGroup g.vacate

/-- The threads of a block on a core in the order of a REORDER: key, then thread index (R383). -/
def Group.sorted (gs : List Group) : List Filed :=
  let one := fun (g : Group) (l : Nat) => match g.frag? l with
    | some f => (match f.wait with
      | .reorder _ _ sgn r m =>
        let k := (g.vcell r l).toNat
        some ((if sgn then signed 32 k else (k : Int)), g.carry g.ref.k 0 l m)
      | _ => none)
    | none => none
  let all := gs.flatMap (fun (g : Group) => (lanesOf g.live).filterMap (one g))
  (sortBy (fun (a b : Int × Filed) => decide (a.1 < b.1) || (a.1 == b.1 && decide (a.2.thread ≤ b.2.thread))) all).map (·.2)

/-- Completes a REORDER (R383). -/
def State.reorder (s : State) (b : BRef) (core : Nat) : State :=
  let gs := s.liveOn b core
  let ts := Group.sorted gs
  let srcs := gs.map (fun (g : Group) => g.source g.ref.k)
  let place := fun (acc : State × Nat) (g : Group) =>
    let mine := (ts.drop (64 * acc.2)).take 64
    let g1 := match mine, g.frags.head? with
      | [], _ => g.vacate
      | _, some f =>
        let npc := match f.wait with | .reorder _ n .. => n | _ => f.pc
        g.form mine srcs { f.advance npc with pfx := none, wait := .no, last := g.seq, traps := [], inject := [] } s.tick
      | _, none => g
    (acc.1.setGroup g1, acc.2 + 1)
  (gs.foldl place (s, 0)).1

/-- The completion of a gather, of the REFORM of a group or of the REORDER of its block on its core (R379). -/
def execGatherComplete (r : GRef) (s : State) : Host.Outcome State Fault Refusal :=
  match s.group? r with
  | none => .next s
  | some g =>
    if s.reformReady g then .next (s.file g)
    else if s.reorderReady r.b g.core then .next (s.reorder r.b g.core)
    else .next s

/-! ### Draws (R381) -/

/-- Nanoseconds as clocks of a core (R5, R459). -/
def State.clocks (s : State) (core ns : Nat) : Nat := ns * sgetD s.freq core 1800 / 1000

/-- When the oldest thread of a bin was filed. -/
def Bin.oldest (x : Bin) : Nat := (x.threads.map (·.at_)).foldl min ((x.threads.map (·.at_)).headD 0)

/-- The bin is ready (R381). -/
def State.binReady (s : State) (b : BRef) (l : Launch) (x : Bin) : Bool :=
  !x.threads.isEmpty &&
    (decide (64 ≤ x.threads.length) || decide (l.ageLimit ≤ s.clocks x.core (s.time - x.oldest)) ||
      (s.onCore b x.core).all (fun g => g.live == 0))

/-- The ready bin of a core whose oldest thread is oldest, the lower target on a tie (R381). -/
def State.drawBin (s : State) (b : Block) (core : Nat) : Option Bin :=
  match s.launch? b.ref.launch with
  | none => none
  | some l =>
    let rs := b.bins.filter (fun x => x.core == core && s.binReady b.ref l x)
    (sortBy (fun (x y : Bin) => decide (x.oldest < y.oldest) || (x.oldest == y.oldest && decide (x.target ≤ y.target))) rs).head?

/-- The slot that a draw fills: the vacant one of lowest group index. A slot whose threads have all exited and whose group has retired
is vacant too: all of its threads have left it. -/
def State.drawSlot (s : State) (b : BRef) (core : Nat) : Option Group :=
  (sortBy (fun (g h : Group) => decide (g.ref.k ≤ h.ref.k)) ((s.onCore b core).filter (fun g => g.present == 0 || g.retired))).head?

/-- A draw of REFORM on the core at a position of a block (R381). -/
def execReformDraw (r : BRef) (pos : Nat) (s : State) : Host.Outcome State Fault Refusal :=
  match s.block? r with
  | none => .next s
  | some b =>
    let core := b.cores.getD pos 64
    match s.drawBin b core, s.drawSlot r core with
    | some x, some g =>
      let all := sortBy (fun (p q : Filed) => decide (p.thread ≤ q.thread)) x.threads
      let ts := all.take 64
      let left := x.threads.filter (fun t => !ts.any (fun u => u.thread == t.thread))
      let b1 := { b with bins := (b.bins.map (fun (y : Bin) => if y.core = x.core ∧ y.target = x.target then { y with threads := left } else y)).filter
                            (fun (y : Bin) => !y.threads.isEmpty) }
      let used := fun (k : Nat) => b1.bins.any (fun y => y.threads.any (fun t => t.from_ == k))
      .next ((s.setBlock { b1 with sources := b1.sources.filter (fun y => used y.k) }).setGroup
        (g.form ts b.sources (Frag.start x.target g.seq) s.tick))
    | _, _ => .next s

end Sys2Proof.Machine
end

