-- ==== Sys2Proof/Machine/Copy.lean ====
section
/-! DEFINITION. The copy and queue instructions (08 R177 to R195): CPY, CPYRD, CTEST, CWAIT, ENQ and DEQ. -/

namespace Sys2Proof.Machine

open Sys2Proof

/-- CPY.ld (R177 to R180). -/
def execCpyLd (c : Ctl) (x : CpyArgs) (s : State) : Host.Outcome State Fault Refusal := s.run (.cpyLd c x) (copyBody (.cpyLd c x) .ld x)

/-- CPY.st (R177 to R180). -/
def execCpySt (c : Ctl) (x : CpyArgs) (s : State) : Host.Outcome State Fault Refusal := s.run (.cpySt c x) (copyBody (.cpySt c x) .st x)

/-- CPYRD (R185, R186). -/
def execCpyrd (c : Ctl) (op : CpyrdOp) (x : CpyArgs) (s : State) : Host.Outcome State Fault Refusal :=
  s.run (.cpyrd c op x) (copyBody (.cpyrd c op x) (.rd op) x)

/-! ### CTEST and CWAIT (R188, R189) -/

/-- The checks of CTEST and CWAIT: those of LD, which refuses launch scratch (R188, Table 5-4). -/
def Ctx.bitChecks (x : Ctx) (s : State) (p : PtrBits) (i : Idx) : Except Trap Unit :=
  x.memChecks s p ((pOwnScratch p || pClScratch p) && pFmt p == 4) false i 1

/-- CTEST's effect: a test that holds acquires (R189). -/
def ctestBody (c : Ctl) (d : PReg) (p : AReg) (i : Idx) (m : SReg) : Body := fun x s =>
  let me := Instr.ctest c d p i m
  let ptr := x.a .a p.val
  (x.bitChecks s ptr i).bind fun _ =>
  let mask := (x.s i.valFld m.val 0).toNat
  let el : Elem := { lane := lowest x.act, j := 0, bit := elemBit ptr (x.idx i (lowest x.act)) }
  x.access s me ptr false .read [el] fun ls s1 =>
    let q := s1.readLocs (x.via ptr) (ls.flatMap (·.2))
    match q.1 with
    | none => .ok (x.endsIn q.2 me (x.memerr x.act el.byte))
    | some bs =>
      let ok := leNat bs &&& mask == mask
      let sp := spotOf x.b x.g.core ptr
      let s2 := if ok then q.2.acquireCopied x.g.core sp (winKey sp.pos (pSwz ptr) el.byte) mask else q.2
      .ok (s2.setGroup (x.g.begin { entry := x.entry me, frag := x.f.lanes, res := [.p d.val x.act (if ok then allLanes else 0)] }), .step)

/-- CTEST (R188, R189). -/
def execCtest (c : Ctl) (d : PReg) (p : AReg) (i : Idx) (m : SReg) (s : State) : Host.Outcome State Fault Refusal :=
  s.run (.ctest c d p i m) (ctestBody c d p i m)

/-- CWAIT's effect: the fragment sleeps, as at a WAITA (R189). -/
def cwaitBody (c : Ctl) (d : PReg) (p : AReg) (i : Idx) (m : SReg) (timeout : Word) : Body := fun x s =>
  let me := Instr.cwait c d p i m timeout
  let ptr := x.a .a p.val
  (x.bitChecks s ptr i).bind fun _ =>
  let t : Test :=
    { ptr, idx := x.idx i (lowest x.act), cmp := .eq, all := true, spot := spotOf x.b x.g.core ptr, v := 0, mask := x.s i.valFld m.val 0
      t0 := s.time, timeout := timeout.toNat, lastTest := s.time, d, act := x.act, entry := x.entry me, stand := x.stand }
  .ok ((s.setGroup (x.g.setFrag x.c.f { x.f with wait := .test t })).reachPoint x.c.g.b x.c.g.gang, .step)

/-- CWAIT (R188, R189). -/
def execCwait (c : Ctl) (d : PReg) (p : AReg) (i : Idx) (m : SReg) (timeout : Word) (s : State) :
    Host.Outcome State Fault Refusal := s.run (.cwait c d p i m timeout) (cwaitBody c d p i m timeout)

/-! ### Queues (R193 to R195) -/

/-- A queue's header (Table 8-5). -/
structure QHead where
  head : Nat
  tail : Nat
  lcap : Nat
  ew : Nat
  deriving DecidableEq, Repr

/-- The header in 64 bytes; none where a field is out of its range (R193). -/
def qHead (bs : List Byte) : Option QHead :=
  let m := leNat bs
  let h : QHead := { head := field m 0 32, tail := field m 32 32, lcap := field m 88 8, ew := field m 96 8 }
  if field m 64 24 = 0 ∧ field m 104 408 = 0 ∧ h.lcap ≤ 20 ∧ (h.ew = 1 ∨ h.ew = 2 ∨ h.ew = 4) then some h else none

/-- The place of an entry behind a queue's base (R193). -/
def QHead.entry (h : QHead) (j : Nat) : Nat := 64 + j % 2 ^ h.lcap * (4 * h.ew)

/-- The way of a queue access: performed at the home L2 (R194). -/
def Ctx.homeVia (x : Ctx) : Via := { core := x.g.core, vif := x.l.vif, sync := true, scope := 3 }

/-- The bytes at a queue offset, as elements of the lowest active lane. -/
def Ctx.qElems (x : Ctx) (p : PtrBits) (off n : Nat) : List Elem :=
  (List.range n).map (fun k => { lane := lowest x.act, j := k, bit := 8 * (pBase p + off + k) })

/-- The key of the first located byte. -/
def locKey (ls : List Loc) : Nat := match ls with | .mem k :: _ => k | _ => 0

/-- The checks of ENQ and DEQ and the queue's header as the home L2 holds it (R193, R194). -/
def Ctx.withQueue (x : Ctx) (s : State) (i : Instr) (p : PtrBits) (k : Nat)
    (f : QHead → Nat → State → Except Trap (State × Flow)) : Except Trap (State × Flow) :=
  let p8 := pSet p 103 6 0
  (x.checkPtr s p (pGlobal p && pScope p == 3 && pFmt p == 4) true).bind fun _ =>
  (x.need (pBase p % 64 == 0) .align (pBase p)).bind fun _ =>
  (x.need (decide (64 ≤ pLen p)) .bounds).bind fun _ =>
  x.access s i p8 true .atomic (x.qElems p 0 64) fun ls s1 =>
    let q := s1.pointRead x.homeVia (ls.flatMap (·.2))
    match q.1 with
    | none => .ok (x.endsIn q.2 i (x.memerr x.act (pBase p)))
    | some bs =>
      match qHead bs with
      | none => .error (x.trap .access x.act)
      | some h =>
        (x.need (h.ew == k) .access).bind fun _ =>
        (x.need (decide (h.entry 0 + 2 ^ h.lcap * (4 * h.ew) ≤ pLen p)) .bounds).bind fun _ =>
        f h (locKey (ls.flatMap (·.2))) q.2

/-- ENQ's effect (R194): a successful one releases at package scope (R195). -/
def enqBody (c : Ctl) (k : QWords) (d : PReg) (a : AReg) (v : SReg) : Body := fun x s =>
  let me := Instr.enq c k d a v
  let p := x.a .a a.val
  let ends := fun (t : State) (ok : Bool) =>
    (t.setGroup (x.g.begin { entry := x.entry me, frag := x.f.lanes, res := [.p d.val x.act (if ok then allLanes else 0)] }), Flow.step)
  x.withQueue s me p k.regs fun h key s1 =>
    if (h.tail + 2 ^ 32 - h.head) % 2 ^ 32 < 2 ^ h.lcap then
      x.access s1 me (pSet p 103 6 0) true .write (x.qElems p (h.entry h.tail) (4 * h.ew)) fun ls s2 =>
        let bytes := (List.range k.regs).flatMap (fun j => leBytes 4 (x.s .b v.val j).toNat)
        let s3 := (s2.release x.g.core 3).hostStore x.homeVia (locKey (ls.flatMap (·.2))) bytes
        .ok (ends (s3.hostStore x.homeVia (key + 4) (leBytes 4 ((h.tail + 1) % 2 ^ 32))) true)
    else .ok (ends s1 false)

/-- ENQ (R194, R195). -/
def execEnq (c : Ctl) (k : QWords) (d : PReg) (a : AReg) (v : SReg) (s : State) : Host.Outcome State Fault Refusal :=
  s.run (.enq c k d a v) (enqBody c k d a v)

/-- The DEQs that wait on a queue, by when they reached the home L2 (R195). -/
def State.deqWaiters (s : State) (key : Nat) : List Nat :=
  (s.groups ++ s.blocks.flatMap (·.saved)).flatMap (fun g => g.frags.filterMap (fun f => match f.wait with
    | .deq _ k _ _ o _ _ => if k = key then some o else none
    | _ => none))

/-- Takes the entry at the head of a queue: the registers it fills (R194), with the acquire of R195. -/
def Ctx.deqTake (x : Ctx) (s : State) (h : QHead) (key : Nat) (d : SReg) (bs : List Byte) : List Res × State :=
  let s1 := (s.hostStore x.homeVia key (leBytes 4 ((h.head + 1) % 2 ^ 32))).acquire x.g.core 3
  ((List.range h.ew).map (fun j => .s (d.val + j) (BitVec.ofNat 32 (leNat ((bs.drop (4 * j)).take 4)))), s1)

/-- DEQ's effect (R194): it takes the head entry, or sleeps behind the earlier ones. -/
def deqBody (c : Ctl) (k : QWords) (d : SReg) (a : AReg) : Body := fun x s =>
  let me := Instr.deq c k d a
  let p := x.a .a a.val
  x.withQueue s me p k.regs fun h key s1 =>
    if h.head = h.tail ∨ !(s1.deqWaiters key).isEmpty then
      let f := { x.f with wait := .deq p key k.regs d s.tick (x.entry me) x.stand }
      .ok ((s1.setGroup (x.g.setFrag x.c.f f)).reachPoint x.c.g.b x.c.g.gang, .step)
    else
      x.access s1 me (pSet p 103 6 0) false .read (x.qElems p (h.entry h.head) (4 * h.ew)) fun ls s2 =>
        let q := s2.pointRead x.homeVia (ls.flatMap (·.2))
        match q.1 with
        | none => .ok (x.endsIn q.2 me (x.memerr x.act (pBase p + h.entry h.head)))
        | some bs =>
          let r := x.deqTake q.2 h key d bs
          .ok (r.2.setGroup (x.g.writes 0 r.1), .step)

/-- DEQ (R194, R195). -/
def execDeq (c : Ctl) (k : QWords) (d : SReg) (a : AReg) (s : State) : Host.Outcome State Fault Refusal :=
  s.run (.deq c k d a) (deqBody c k d a)

/-- The header of the queue that a fragment sleeps on, where it is its turn and an entry is there. -/
def State.deqReady (s : State) (g : Group) (key order : Nat) : Option QHead :=
  match s.launch? g.ref.b.launch with
  | none => none
  | some l =>
    let w : Via := { core := g.core, vif := l.vif, sync := true, scope := 3 }
    match (s.pointRead w ((List.range 64).map (fun k => .mem (key + k)))).1 with
    | none => none
    | some bs =>
      match qHead bs with
      | some h => if h.head ≠ h.tail ∧ (s.deqWaiters key).all (fun o => decide (order ≤ o)) then some h else none
      | none => none

/-- A waiting DEQ completes (R195). -/
def execDeqWake (r : GRef) (lane : Nat) (s : State) : Host.Outcome State Fault Refusal :=
  match s.group? r with
  | none => .next s
  | some g =>
    match g.frag? lane with
    | none => .next s
    | some f =>
      match f.wait with
      | .deq p key _ d order e stand =>
        match s.deqReady g key order, s.entryCtx g f e with
        | some h, some x =>
          let va := pBase p + h.entry h.head
          let q := x.find (pSet p 103 6 0) false va (4 * h.ew) s
          match q.1 with
          | .mismatch => .next (q.2.setGroup (g.sleepStop lane f e stand (x.trap .access e.lanes)))
          | .poison _ => .next (q.2.setGroup (g.sleepTrap lane f e (x.memerr e.lanes va)))
          | .fault fva cause => .next (x.refault q.2 lane fva cause e)
          | .at_ ls =>
            let u := q.2.pointRead x.homeVia ls
            match u.1 with
            | none => .next (u.2.setGroup (g.sleepTrap lane f e (x.memerr e.lanes va)))
            | some bs =>
              let t := x.deqTake u.2 h key d bs
              .next (t.2.setGroup ((g.writes 0 t.1).setFrag lane { f with wait := .no }))
        | _, _ => .next s
      | _ => .next s

end Sys2Proof.Machine
end

