-- ==== Sys2Proof/Machine/Peer.lean ====
section
/-! DEFINITION. What comes in from the fabric, from the host and from the driver for accesses that wait (05 R125, 07 R162, 16 R347 to
R356, 23 R429): peer requests and their answers, host responses, fault answers, ports and the membership tables. -/

namespace Sys2Proof

open Sys2Proof.Machine (Cause)

/-- How an access would be recorded. -/
def PeerOp.kind : PeerOp → AccKind
  | .load _ => .read
  | .atom .. | .atomf .. => .atomic
  | _ => .write

/-- An access updates its word. -/
def PeerOp.updates : PeerOp → Bool
  | .atom .. | .atomf .. => true
  | _ => false

/-- The cause of a trap that an answer brings. -/
def PeerAnswer.cause : PeerAnswer → Option Cause
  | .performed _ => none
  | .failXlate => some .xlate
  | .failAccess => some .access
  | .keyLacking | .addRefused | .addFails => some .fabric
/-- The data of an answer. -/
def PeerAnswer.data : PeerAnswer → List (Option (List Byte))
  | .performed ds => ds
  | _ => []

/-- The answer's cause. -/
def FaultAnswer.cause : FaultAnswer → Cause
  | .failNoMap => .xlate
  | _ => .access

end Sys2Proof

namespace Sys2Proof.Machine

open Sys2Proof

/-! ### Serving a peer (R355) -/

/-- What a peer instruction's addresses come to. -/
inductive PeerFound where
  | at_ (keys : List (List Nat))
  | fault (va cause : Nat) (kind : AccKind)
  | mismatch
  | poison

/-- Translates every byte of an instruction's accesses in the context of its key's entry (R355). -/
def State.peerFind (s : State) (m : Member) (accs : List PeerAcc) : PeerFound × State :=
  let byte := fun (op : PeerOp) (acc : PeerFound × State) (va : Nat) =>
    match acc.1 with
    | .at_ ks =>
      let q := acc.2.translate { vif := m.vif, ctx := m.ctx, tgt := 0, write := AccKind.writes op.kind } [] 0 va
      (match q.1 with
        | .ok key _ => .at_ (ks.dropLast ++ [ks.getLastD [] ++ [key]])
        | .fault c => .fault va c op.kind
        | .mismatch => .mismatch
        | .poison _ => .poison, q.2)
    | _ => acc
  accs.foldl (fun (acc : PeerFound × State) (a : PeerAcc) =>
    let acc1 := match acc.1 with
      | .at_ ks => (PeerFound.at_ (ks ++ [[]]), acc.2)
      | _ => acc
    (List.range (opBytes a.op)).foldl (fun z k => byte a.op z (a.va + k)) acc1) (.at_ [], s)

/-- Reads bytes at their package points; none where a sector is poison. -/
def State.homeGet (s : State) (vif : Nat) (ks : List Nat) : Option (List Byte) × State :=
  ks.foldl (fun acc k =>
    let r := acc.2.homeRead vif k 1
    ((match acc.1, r.1 with | some bs, some b => some (bs ++ b) | _, _ => none), r.2)) (some [], s)

/-- Writes bits of bytes at their package points, those of a sector together; a part of a poisoned sector is dropped and counted
(R85, R148). -/
def State.homeMerge (s : State) (vif : Nat) (ws : BitsAt Nat) : State :=
  ((ws.map (fun (w : Nat × Nat × Nat) => w.1 / 32)).eraseDups).foldl (fun (t : State) (sec : Nat) =>
    let u : CacheId := if secIsHost sec then .l2 4 else .l2 (homeDie sec)
    let mine := (mergeBits (ws.filter (fun w => w.1 / 32 == sec))).map (fun w => (w.1 % 32, w.2))
    if wholeBits mine then State.writeLevel [u] vif sec (bytesOf mine) none t
    else
      let r := State.readLevel [u] vif sec (mine.map (fun (w : Nat × Nat × Nat) => w.1)) t
      if r.1.2 then r.2.count (homeDie sec) 1
      else State.writeLevel [u] vif sec (mine.map (fun w =>
        (w.1, BitVec.ofNat 8 ((r.1.1.getD w.1 0).toNat &&& (255 - w.2.1) ||| w.2.2)))) none r.2) s

/-- Writes bytes at their package points. -/
def State.homePut (s : State) (vif : Nat) (ws : List (Nat × Byte)) : State :=
  s.homeMerge vif (ws.map (fun w => (w.1, 255, w.2.toNat)))

/-- The bits that a store writes at the keys of its bytes. -/
def opBits (op : PeerOp) (ks : List Nat) : BitsAt Nat :=
  match op with
  | .store bs => (ks.zip bs).map (fun y => (y.1, 255, y.2.toNat))
  | .bits sh n v => ks.map (fun k => (k, (2 ^ n - 1) * 2 ^ sh, v % 2 ^ n * 2 ^ sh))
  | _ => []

/-- Performs one access at its home L2, as one indivisible step: its data, none where it is poison. -/
def State.peerAccess (s : State) (vif : Nat) (op : PeerOp) (ks : List Nat) : Option (List Byte) × State :=
  match op with
  | .load _ => s.homeGet vif ks
  | .store _ | .bits .. => (some [], s.homeMerge vif (opBits op ks))
  | .atom o w v n sgn =>
    let r := s.homeGet vif ks
    match r.1 with
    | some bs =>
      let s1 := r.2.unown (ks.map (· / 4))
      (match atomNew o w sgn (leNat bs) v n with
        | some y => (some bs, s1.homePut vif (ks.zip (leBytes (w / 8) y)))
        | none => (some bs, s1))
    | none => (none, r.2)
  | .atomf o v flush =>
    let r := s.homeGet vif ks
    match r.1 with
    | some bs => (some bs, (r.2.unown (ks.map (· / 4))).homePut vif (ks.zip (leBytes 4 (atomfNew o flush (leNat bs) v.toNat))))
    | none => (none, r.2)
  | .poison =>
    let sec := (ks.headD 0) / 32
    (some [], State.poisonLevel [.l2 (homeDie sec)] vif sec none s)
  | .tileAdd .. => (some [], s)

/-- An access stores. -/
def opStores : PeerOp → Bool
  | .store _ | .bits .. => true
  | _ => false

/-- Performs the accesses in their order, up to the first update whose word is poison (R164). -/
def State.peerEach (s : State) (vif : Nat) : List (PeerAcc × List Nat) → Bool → List (Option (List Byte)) × State
  | [], _ => ([], s)
  | (a, ks) :: rest, stop =>
    if stop ∧ a.op.updates then
      let r := State.peerEach s vif rest stop
      (none :: r.1, r.2)
    else
      let q := s.peerAccess vif a.op ks
      let r := State.peerEach q.2 vif rest (stop || (a.op.updates && q.1.isNone))
      (q.1 :: r.1, r.2)

/-- The sectors that an access writes poison to. -/
def poisons (y : PeerAcc × List Nat) : List Nat := match y.1.op with | .poison => y.2.map (· / 32) | _ => []

/-- Performs the accesses of one instruction: those of a store together, so that the bytes of a sector are one write, and one poisoned byte
poisons its sector (R85). -/
def State.peerPerform (s : State) (vif : Nat) (accs : List (PeerAcc × List Nat)) (stop : Bool) : List (Option (List Byte)) × State :=
  if accs.all (fun y => opStores y.1.op || y.1.op == .poison) then
    let bad := (accs.flatMap poisons).eraseDups
    let good := (accs.flatMap (fun y => opBits y.1.op y.2)).filter (fun w => !bad.contains (w.1 / 32))
    (accs.map (fun _ => some []), bad.foldl (fun (t : State) (sec : Nat) => State.poisonLevel [.l2 (homeDie sec)] vif sec none t) (s.homeMerge vif good))
  else s.peerEach vif accs stop

/-- Serves a peer instruction, all of whose packets have come (R353, R355). -/
def State.servePeer (s : State) (r : PeerReq) : State :=
  let answer := fun (t : State) (a : PeerAnswer) => t.answerPeer (r.src, r.id) r.key a
  match s.member? r.key with
  | none => answer s .keyLacking
  | some m =>
    match r.accs with
    | [{ va := _, op := .tileAdd block gang tile vals kind }] =>
      if !m.lbound then answer s .addFails
      else
        let b : BRef := ⟨m.launch, block⟩
        { s with serial := s.serial + 1
                 tileAdds := s.tileAdds ++ [{ id := s.serial, g := ⟨b, 4 * gang⟩, seq := 0, rank := none, tgt := { b, gang, t := tile }
                                              vals, kind, src := some (r.src, r.id), jobKey := r.key }] }
    | accs =>
      let q := s.peerFind m accs
      match q.1 with
      | .fault va cause kind =>
        let t := q.2.faultRecord { tag := 0, vif := m.vif, ctx := m.ctx, va, kind, cause, launch := if m.lbound then m.launch else 0
                                   source := 84 + Config.free s.tick 0 % 12, die := Config.free s.tick 1 % 4, block := 0, time := 0 }
        { t.2 with peerWaits := t.2.peerWaits ++ [(r, t.1, m.vif)] }
      | .mismatch => answer q.2 .failAccess
      | .poison => answer q.2 (.performed (accs.map (fun _ => none)))
      | .at_ kss =>
        let z := State.peerPerform q.2 m.vif (accs.zip kss) false
        answer z.2 (.performed z.1)

/-- A peer's request arrives (R355). -/
def execPeerRequest (r : PeerReq) (s : State) : Host.Outcome State Fault Refusal := .next (s.servePeer r)

/-- A port drops a request whose key its table lacks, and answers the source (R352). -/
def execPacketDrop (r : PeerReq) (s : State) : Host.Outcome State Fault Refusal :=
  .next (if (s.member? r.key).isNone then s.answerPeer (r.src, r.id) r.key .keyLacking else s)

/-- A source cancels an instruction: what waits of it is discarded (R353), unless the port's table lacks its key and drops the packet (R352). -/
def execPeerCancel (src id : Nat) (s : State) : Host.Outcome State Fault Refusal :=
  .next { s with peerWaits := s.peerWaits.filter (fun w => !(w.1.src == src && w.1.id == id && (s.member? w.1.key).isSome)) }

/-! ### Answers to this device's requests (Table 16-4) -/

/-- A request is no longer under way. -/
def State.dropRequest (s : State) (id : Nat) : State := { s with requests := s.requests.filter (fun r => r.id != id) }

/-- The trap of an access that its target refused or never answered; it names the target's rank where the fabric fails it. -/
def refusedTrap (r : Request) (e : Entry) (c : Cause) (va now : Nat) : Trap :=
  e.late { cause := c, lanes := e.lanes, tpc := e.tpc, arose := now
           rank := if c = .fabric ∨ c = .timeout then r.rank else 0
           info := BitVec.ofNat 64 (if c = .xlate ∨ c = .access then va else 0) }

/-- The memory index of an instruction that may wait for a response. -/
def waitIdx : Instr → Option (AReg × Idx)
  | .ld _ _ _ _ _ p i | .st _ _ _ _ _ p i _ | .atom _ _ _ p i _ | .atomf _ _ _ p i _ => some (p, i)
  | _ => none

/-- An outstanding access with its answer: its results, and the lanes left of an update that stopped at poison (R164). -/
def State.answered (s : State) (g : Group) (p : Pend) (r : Request) (c : Option Cause) (data : List (Option (List Byte))) : Pend :=
  match s.launch? g.ref.b.launch, s.entryCtx g { lanes := p.frag, pc := 0 } p.entry with
  | some l, some x =>
    match decodeInstr l.hdr.version p.entry.word p.entry.exts with
    | .error _ => { p with doing := .ready }
    | .ok i =>
      match c with
      | some k =>
        let va := match waitIdx i with
          | some (a, ix) => elemByte (x.a .a a.val) (x.idx ix (lowest p.entry.lanes)) % (if r.host then 2 ^ 57 else 2 ^ 45)
          | none => 0
        { p with doing := .ready, trap := some (refusedTrap r p.entry k va s.tick) }
      | none =>
        let q := x.answer i r.host data
        match q.2 with
        | none => { p with doing := .ready, res := q.1 }
        | some t =>
          let t1 := { p.entry.late t with tpc := p.entry.tpc }
          let updates := match i with | .atom .. | .atomf .. => true | _ => false
          let left := if updates then mkLanes (fun k => p.entry.lanes.getLsbD k && decide (lowest t.lanes ≤ k)) else p.entry.lanes
          -- the lanes before the poisoned one have been performed, and the watchpoint that they touched stays due
          let done := p.entry.lanes &&& ~~~left
          let watch := match waitIdx i with
            | some (a, ix) => if updates then x.watched s (x.a .a a.val) true true (x.elems (x.a .a a.val) ix 1 (lanesOf done)) else p.watch
            | none => p.watch
          { p with doing := .ready, res := q.1, trap := some t1, entry := { p.entry with lanes := left }, watch, hit := done }
  | _, _ => { p with doing := .ready }

/-- The group, resident or saved, that made a request. -/
def State.anyGroup? (s : State) (r : GRef) : Option Group := (s.groupsOf r.b).find? (fun g => g.ref == r)

/-- A test of a wait at a peer has its answer (R356). For an evicted block it is the wake test: one that ends the wait makes the
block ready, and the wait is tested again when the block resumes (R404). -/
def State.testAnswered (s : State) (g : Group) (f : Frag) (t : Test) (r : Request) (c : Option Cause) (data : List (Option (List Byte))) : State :=
  let lane := lowest f.lanes
  let w := (data.headD none).map leNat
  let again := fun (f : Frag) => { f with wait := .test { t with req := none, lastTest := s.time } }
  if (s.group? g.ref).isNone then
    let ends := c.isSome || (match w with | none => true | some m => t.holds m) || decide (t.timeout ≤ s.time - t.t0)
    match s.block? g.ref.b with
    | some b =>
      s.setBlock { b with place := if ends then .evicted true else b.place
                          saved := b.saved.map (fun (h : Group) => if h.ref = g.ref then h.setFrag lane (again f) else h) }
    | none => s
  else
    match c, w with
    | some k, _ => s.setGroup (g.sleepTrap lane f t.entry (refusedTrap r t.entry k (elemByte t.ptr t.idx % 2 ^ 45) s.tick))
    | none, none => s.setGroup (g.sleepTrap lane f t.entry { cause := .memerr, lanes := t.act, info := BitVec.ofNat 64 (elemByte t.ptr t.idx / 32 * 32), tpc := t.entry.tpc, arose := s.tick })
    | none, some m => s.tested g lane f { t with req := none } m

/-- The fragment whose wait's test is a request. -/
def Group.testOf (g : Group) (id : Nat) : Option (Frag × Test) :=
  g.frags.findSome? (fun f => match f.wait with | .test t => if t.req = some id then some (f, t) else none | _ => none)

/-- The group with the answer to its outstanding operation `p`: an answer that traps does so before the group's next issue (R355). -/
def Group.takeAnswer (g : Group) (now : Nat) (p : Pend) : Group :=
  match p.trap, p.ends now, g.frags.find? (fun f => g.owns f p) with
  | some _, some t, some f => g.endTrap f t now p
  | _, _, _ => { g with pend := g.pend.map (fun (q : Pend) => if q.entry.seq = p.entry.seq then p else q) }

/-- An instruction's access is answered: the operation that waits for it, or the test, or the request keeps the answer for an
instruction that stands in a frame (R423), whose acquire is made now (R208). -/
def State.accessAnswer (s : State) (r : Request) (a : PeerAnswer) (c : Option Cause) : State :=
  match s.anyGroup? r.g with
  | none => s.dropRequest r.id
  | some g =>
    match g.pend.find? (fun p => p.doing == .response r.id), g.testOf r.id with
    | some p, _ =>
      let p1 := s.answered g p r c a.data
      -- an acquire drops what it drops when its answer comes (R130, R208)
      let s1 := match c, p.acq with
        | none, some scope => s.acquire g.core scope
        | _, _ => s
      (s1.dropRequest r.id).onGroup r.g (fun h => h.takeAnswer s.tick p1)
    | none, some (f, t) => (s.dropRequest r.id).testAnswered g f t r c a.data
    | none, none =>
      if c = some .timeout then s
      else
        let scope := if c.isSome then none else g.frags.findSome? (fun f => f.entries.findSome? (fun e => if e.peer = some r.id then e.acq else none))
        let s1 := match scope with | some k => s.acquire g.core k | none => s
        { s1 with requests := s1.requests.map (fun (q : Request) => if q.id = r.id then { q with answer := some a } else q) }

/-- A tile instruction's accesses are answered (R356). -/
def State.tileAnswer (s : State) (r : Request) (o : TileOp) (a : PeerAnswer) (c : Option Cause) : State :=
  let s1 := s.dropRequest r.id
  let rank := if c = some .fabric ∨ c = some .timeout then r.rank else 0
  let t := match c with
    | some k => (s1.suspend o []).opTrap o { cause := k, rank, arose := s.tick }
    | none =>
      match o.job with
      | .mload _ p _ _ => if a.data.any (·.isNone) then (s1.suspend o []).opTrap o { cause := .memerr, info := BitVec.ofNat 64 (pBase p % 2 ^ 45 / 32 * 32), arose := s.tick } else s1.setOp { o with data := some a.data, sent := none }
      | _ => s1.setOp { o with data := some a.data, sent := none }
  t.advanceCore (s.coreOf o.g)

/-- A tile add fails at its target: its instruction ends and the leader of its gang traps (R308). -/
def State.addFailed (s : State) (a : TileAdd) (c : Cause) (rank : Nat) : State :=
  let s1 := { s.dropAdd a.id with
    lineages := s.lineages.map (fun (l : Lineage) => { l with spurs := l.spurs.filter (fun (p : Spur) => !p.ofAdd a.id) }) }
  let s2 := match s1.addOp a.id with
    | some o => (s1.endOp o []).advanceCore (s1.coreOf o.g)
    | none => s1
  s2.report { a.g with k := a.g.k / 4 * 4 } 0 (addTrap c a.word a.tpc rank a.seq)

/-- A tile add is answered (R308, R339). -/
def State.addAnswer (s : State) (r : Request) (a : TileAdd) (ans : PeerAnswer) (c : Option Cause) : State :=
  let s1 := s.dropRequest r.id
  match a.kind with
  | .second first =>
    (match c with
      | none => (s1.dropAdd a.id).secondDone first a.vals
      | some .fabric => (match ans with
        | .keyLacking => s1.secondDropped a first r.rank .fabric
        | _ => (s1.dropAdd a.id).secondDone first a.vals)
      | some k => s1.secondDropped a first r.rank k)
  | _ =>
    match c, ans with
    | none, _ => s1.addDone a
    | some _, .addRefused => s1.addRefused a
    | some k, _ => s1.addFailed a k r.rank

/-- An answer, or the want of one, reaches what waits for it. `c` is the trap it brings. -/
def State.deliver (s : State) (r : Request) (a : PeerAnswer) (c : Option Cause) : State :=
  match r.chunk, r.tileOp, r.tileAdd, r.ckpt with
  | some (cid, k), _, _, _ =>
    let s1 := s.dropRequest r.id
    (match c, s1.copy? cid with
      | some .timeout, some y => s1.abortCopy y .timeout r.rank
      | _, _ => s1.copyResponse cid k r.rank a)
  | _, some o, _, _ => (match s.op? o with | some op => s.tileAnswer r op a c | none => s.dropRequest r.id)
  | _, _, some t, _ => (match s.tileAdds.find? (fun y => y.id == t) with | some y => s.addAnswer r y a c | none => s.dropRequest r.id)
  | _, _, _, some (vif, g) => (s.dropRequest r.id).granuleAnswer r vif g c.isNone
  | _, _, _, _ => s.accessAnswer r a c

/-- A request under way. -/
def State.request? (s : State) (id : Nat) : Option Request := s.requests.find? (fun r => r.id == id)

/-- A peer answers (R355, Table 16-4), or an answer kept for an instruction in a frame reaches it: where a packet drew an error, the source
cancels the instruction (R353). A response whose key this device's table lacks is dropped at its port (R352). -/
def execPeerResponse (id : Nat) (ans : PeerAnswer) (s : State) : Host.Outcome State Fault Refusal :=
  match s.request? id with
  | none => .next s
  | some r =>
    if r.answer.isNone ∧ (r.host ∨ (s.member? r.key).isNone) then .next s
    else
      let s1 := if ans = .keyLacking then { s with sent := s.sent ++ [Sent.cancel r.rank r.key id] } else s
      .next (s1.deliver r ans ans.cause)

/-- No answer has come for 10 ms (R355). -/
def execPeerTimeout (id : Nat) (s : State) : Host.Outcome State Fault Refusal :=
  match s.request? id with
  | none => .next s
  | some r => .next (if !r.host ∧ r.answer.isNone ∧ 10000000 ≤ s.time - r.at_ then s.deliver r .failAccess (some .timeout) else s)

/-! ### The host (R162) -/

/-- The way of a host access: through its pointer. -/
def State.hostAccess (s : State) (w : Via) (a : PeerAcc) : Option (List Byte) × State :=
  let wide := { w with sync := false, scope := 3 }
  match a.op with
  | .load n => s.readLocs w ((List.range n).map (fun k => .mem (a.va + k)))
  | .store bs => (some [], s.hostStore w a.va bs)
  | .bits sh n v => (some [], s.storeBits { w with scope := 3 } (a.va / 32) [(a.va % 32, (2 ^ n - 1) * 2 ^ sh, v % 2 ^ n * 2 ^ sh)])
  | .atom o wd v n sgn =>
    let r := s.updateWord wide ((List.range (wd / 8)).map (fun k => .mem (a.va + k))) (fun old => atomNew o wd sgn old v n)
    (r.1.map (leBytes (wd / 8)), r.2)
  | .atomf o v flush =>
    let r := s.updateWord wide ((List.range 4).map (fun k => .mem (a.va + k))) (fun old => some (atomfNew o flush old v.toNat))
    (r.1.map (leBytes 4), r.2)
  | .tileAdd .. | .poison => (some [], s)

/-- Performs a host instruction's accesses for the group that made it (R162, R209). -/
def State.hostPerform (s : State) (r : Request) (core vif : Nat) (p : PtrBits) (na : Bool := false) : List (Option (List Byte)) × State :=
  let w : Via := { core, vif, sync := pClass p == 2, scope := pScope p, na }
  r.accs.foldl (fun acc a =>
    let q := acc.2.hostAccess w a
    (acc.1 ++ [q.1], q.2)) ([], s)

/-- The entry that waits for a request: an operation's, or one that stands in a frame. -/
def Group.waiting (g : Group) (id : Nat) : Option Entry :=
  (g.pend.findSome? (fun p => if p.doing = Doing.response id then some p.entry else none)).or
    (g.frags.findSome? (fun f => ((f.inject ++ (match f.frame with | some fr => fr.entries | none => [])).find? (fun e => e.peer == some id))))

/-- Two requests name a byte in common. -/
def Request.overlaps (q r : Request) : Bool :=
  q.accs.any (fun a => r.accs.any (fun b => decide (a.va < b.va + opBytes b.op) && decide (b.va < a.va + opBytes a.op)))

/-- No host access that the group made before must be performed first: its writes reach the bridge in the order of issue, and so do its
accesses to one byte of which one writes (R158, R207, R209). -/
def State.hostTurn (s : State) (r : Request) : Bool :=
  !s.requests.any (fun q => q.host && q.answer.isNone && q.g == r.g && decide (q.seq < r.seq) &&
    ((!q.isLoad && !r.isLoad) || ((!q.isLoad || !r.isLoad) && q.overlaps r)))

/-- The host's response to an access through a host pointer: the access is performed and its instruction finishes, or the
translation service refuses it, where the interface uses that service (R162, R448). -/
def execHostAccessResponse (id : Nat) (refused : Bool) (s : State) : Host.Outcome State Fault Refusal :=
  match s.request? id with
  | none => .next s
  | some r =>
    if !r.host ∨ r.answer.isSome then .next s
    else if !s.hostTurn r then .next s
    else if refused && (match s.launch? r.g.b.launch with | some l => (s.vif l.vif).ats | none => true) then .next (s.deliver r .failAccess (some .access))
    else
      match (s.anyGroup? r.g).bind (fun g => (g.waiting id).map (fun e => (g, e))), s.launch? r.g.b.launch with
      | some (g, e), some l =>
        let via := match s.entryCtx g { lanes := e.lanes, pc := 0 } e, decodeInstr l.hdr.version e.word e.exts with
          | some x, .ok i =>
            ((match waitIdx i with | some (a, _) => x.a .a a.val | none => 0), match i with | .ld _ _ _ h _ _ _ | .st _ _ _ _ h _ _ _ => h == Hint.na | _ => false)
          | _, _ => (0, false)
        let q := s.hostPerform r g.core l.vif via.1 via.2
        .next (q.2.deliver r (.performed q.1) none)
      | _, _ => .next (s.dropRequest id)

/-! ### The driver's answers to fault records (R125, R429) -/

/-- A fragment that sleeps on faults, with an answer to one of its tags. -/
def Frag.answerFault (f : Frag) (tag va : Nat) (a : FaultAnswer) : Frag :=
  match f.wait with
  | .fault tags failed noMap at_ word =>
    match tags.find? (fun t => t.1 == tag) with
    | none => f
    | some t =>
      let rest := tags.filter (fun x => x.1 != tag)
      match a with
      | .replay => { f with wait := .fault rest failed noMap at_ word }
      -- the lowest failing lane's answer names the cause and the address
      | _ =>
        let first := failed = 0 ∨ lowest t.2 < lowest failed
        { f with wait := .fault rest (failed ||| t.2) (if first then decide (a = .failNoMap) else noMap) (if first then va else at_) word }
  | _ => f

/-- A fragment whose every fault is answered goes on, or has the trap of R429 to take; a fetch's is precise and reported at its word
(R67, R75). `n` is its group's next issue number. -/
def Frag.endFault (f : Frag) (now n : Nat) : Frag :=
  match f.wait with
  | .fault [] failed noMap va word =>
    if failed = 0 then { f with wait := .no }
    else
      let c : Cause := if noMap then .xlate else .access
      let t : Trap := { cause := c, lanes := failed, info := BitVec.ofNat 64 va, tpc := (word.map (·.pc)).getD f.pc, arose := now, seq := n, at_ := word }
      { f with wait := .no, traps := f.traps ++ [match f.inject with
        | e :: _ => { e.late t with tpc := e.tpc }
        | [] => t] }
  | _ => f

/-- A group's fragments whose faults are answered go on. -/
def Group.endFaults (g : Group) (now : Nat) : Group := { g with frags := g.frags.map (fun f => f.endFault now g.seq) }

/-- A suspended tile instruction of a group whose record is answered: it is tried again, or its group traps (R302, R461). -/
def State.opAnswer (s : State) (g : Group) (tag va : Nat) (a : FaultAnswer) : State :=
  (g.pend.filter (fun p => p.tags.contains tag)).foldl (fun (t : State) (p : Pend) =>
    let t1 := t.onGroup g.ref (fun h => { h with pend := h.pend.map (fun (q : Pend) => if q.entry.seq = p.entry.seq then { q with tags := q.tags.filter (· != tag) } else q) })
    match t1.tileOp? g.ref p.entry.seq with
    | none => t1
    | some o =>
      match a with
      | .replay =>
        -- it is issued again as ERET would, and counts again in its flag (R429)
        let again := fun (h : Group) => { h with pend := h.pend.map (fun (q : Pend) =>
          if q.entry.seq = p.entry.seq then { q with entry := { q.entry with flag := o.entry.flag }, counted := false } else q) }.countIn o.entry.flag
        ((t1.onGroup g.ref again).setOp { o with suspended := false }).advanceCore g.core
      | _ => t1.opTrap o { cause := a.cause, info := BitVec.ofNat 64 va, arose := t.tick }) s

/-- The groups of an interface, resident and saved. -/
def State.vifGroups (s : State) (vif : Nat) : List Group :=
  (s.groups ++ s.blocks.flatMap (·.saved)).filter (fun g => match s.launch? g.ref.b.launch with | some l => l.vif == vif | none => false)

/-- The driver answers a fault record (R125): every group, copy, peer request and launch status that waits for it. For an
evicted block the answer takes effect at resumption (R429). -/
def execFaultResponse (vif tag : Nat) (ans : FaultAnswer) (s : State) : Host.Outcome State Fault Refusal :=
  let v := s.vif vif
  match v.faults.find? (fun f => f.tag == tag) with
  | none => .next s
  | some rec =>
    let s1 := s.setVif vif { v with faults := v.faults.filter (fun f => f.tag != tag) }
    let gs := s1.vifGroups vif
    let s2 := gs.foldl (fun (t : State) (g : Group) =>
      let t1 := t.onGroup g.ref (fun h => { h with frags := h.frags.map (fun f => f.answerFault tag rec.va ans) })
      { t1 with groups := t1.groups.map (fun (h : Group) => if h.ref = g.ref then h.endFaults t1.tick else h) }.opAnswer g tag rec.va ans) s1
    let s3 := s2.copyAnswer vif tag ans
    let waits := s3.peerWaits.filter (fun w => w.2 == (tag, vif))
    let s4 := { s3 with peerWaits := s3.peerWaits.filter (fun w => !waits.contains w) }
    let s5 := waits.foldl (fun (t : State) (w : PeerReq × Nat × Nat) => match ans with
      | .replay => t.servePeer w.1
      | .failNoMap => t.answerPeer (w.1.src, w.1.id) w.1.key .failXlate
      | .failRefused => t.answerPeer (w.1.src, w.1.id) w.1.key .failAccess) s4
    let held := fun (l : Launch) => if l.vif = vif ∧ l.statHeld = some tag then
        { l with statHeld := none, statDone := l.statDone || decide (ans ≠ .replay) } else l
    .next { s5 with launches := s5.launches.map held }

/-! ### Ports and keys -/

/-- A device port fails (R349): its packets go on another plane; with no port left every request ends in FABRIC. -/
def execDenordPortFailure (port : Nat) (s : State) : Host.Outcome State Fault Refusal :=
  if 12 ≤ port ∨ s.portsFailed.contains port then .next s
  else
    let s1 := { s with portsFailed := port :: s.portsFailed, degraded := true }.errorRec
      { time := s.now, source := 84 + port, kind := 5, launch := 0, arg := port }
    if s1.portsFailed.length < 12 then .next s1
    else
      let s2 := (s1.requests.filter (fun r => !r.host && r.answer.isNone && r.ckpt.isNone)).foldl
        (fun (t : State) (r : Request) => t.deliver r .keyLacking (some .fabric)) s1
      .next ((s2.colls.filter (fun r => match s2.launch? r.g.b.launch with | some l => l.team != 1 | none => true)).foldl
        (fun (t : State) (r : CollReq) => t.collAborted r .fabric) s2)

/-- The driver of an interface writes a membership entry (R351, R449): key 0 is never valid, a key stands once, and a key of
another interface is refused. The read-only fields, which a running launch has bound, stay as they are. -/
def execMembershipTableWrite (vif entry : Nat) (w : MemberWrite) (s : State) : Host.Outcome State Fault Refusal :=
  let old := s.members.getD entry {}
  let others := (s.members.set entry {}).filter (fun m => m.valid && m.key == w.key)
  let ok := decide (entry < 64) && (!old.valid || old.vif == vif) &&
    (!w.valid || (decide (1 ≤ w.key) && decide (w.key < 65536) && others.isEmpty && w.vif == vif))
  let m : Member := { old with valid := w.valid, key := w.key, vif := w.vif, ctx := w.ctx }
  .next (if ok ∧ !s.recovery then { s with members := s.members.set entry m } else s)

end Sys2Proof.Machine
end

