-- ==== Sys2Proof/Machine/Place.lean ====
section
/-! DEFINITION. The command processor at work: which block it places (20 R392, R393, 23 R430), placement (20 R394, R395), eviction
and resumption (20 R401 to R405), the completion of launches (20 R390), and the watchdog (23 R431). -/

namespace Sys2Proof.Machine

open Sys2Proof

/-! ### Where a block may stand (R393, R394) -/

/-- The cores of a block whose origin is a core (R19), in ascending order. -/
def Launch.coresFrom (l : Launch) (x y : Nat) : List Nat :=
  (List.range l.bh).flatMap (fun j => (List.range l.bw).map (fun i => coreAt (x + i) (y + j)))

/-- The sub-rectangles that a block may be placed in: by pitch its own slot's, else every aligned one of the rectangle. -/
def Launch.spots (l : Launch) (b : Nat) : List (List Nat) :=
  let x0 := l.mx + l.ox
  let y0 := l.my + l.oy
  if l.pit then
    let cols := l.w / 2 ^ l.pxl
    let n := b % (cols * (l.h / 2 ^ l.pyl))
    [l.coresFrom (x0 + 2 ^ l.pxl * (n % cols)) (y0 + 2 ^ l.pyl * (n / cols))]
  else
    (List.range (l.h / l.bh)).flatMap (fun j => (List.range (l.w / l.bw)).map (fun i => l.coresFrom (x0 + l.bw * i) (y0 + l.bh * j)))

/-- The groups of a block. -/
def Launch.groupCount (l : Launch) : Nat := (l.thr + 63) / 64

/-- The vector registers of each of a launch's groups. -/
def State.regsOf (s : State) (r : GRef) : Nat := match s.launch? r.b.launch with | some l => 8 * l.hdr.vgran | none => 0

/-- A partition has room for one more group of a launch beside the groups of a list (R215). The slots that a block holds are fixed at
its placement (R379): one whose group has retired counts till the block exits. -/
def State.partRoom (s : State) (l : Launch) (gs : List Group) (core part : Nat) : Bool :=
  let mine := gs.filter (fun g => g.core == core && g.part == part)
  decide (mine.length < 8) && decide ((mine.map (fun g => s.regsOf g.ref)).sum + 8 * l.hdr.vgran ≤ 384)

/-- A quad has tiles for one more gang of a launch (R287). -/
def State.quadRoom (s : State) (l : Launch) (gs : List Group) (core quad : Nat) : Bool :=
  let gangs := ((gs.filter (fun g => g.core == core && g.quad == quad)).map (fun g => (g.ref.b, g.ref.gang))).eraseDups
  let held := (gangs.map (fun x => match s.launch? x.1.launch with | some m => m.hdr.tiles | none => 0)).sum
  decide (held + l.hdr.tiles ≤ 16)

/-- Gives the members of a gang a quad of a core: member i stands on the quad's partition i (R16, R17, R394), the quad a free choice
among those with room. -/
def State.seatGang (s : State) (l : Launch) (gs : List Group) (b : BRef) (core gang : Nat) : Option (List Group) :=
  let ks := ((List.range 4).map (4 * gang + ·)).filter (fun k => decide (k < l.groupCount))
  let seat := fun (quad : Nat) => ks.map (fun k => ({ ref := ⟨b, k⟩, core, part := 4 * quad + k % 4, threads := [] } : Group))
  let fits := fun (quad : Nat) => s.quadRoom l gs core quad && (seat quad).all (fun g => s.partRoom l gs core g.part)
  let open_ := (List.range 8).filter fits
  if open_.isEmpty then none else some (seat (choose 0 s.tick (2 ^ 34 + gang) open_))

/-- The window bytes on a core of the blocks resident there (R144). -/
def State.windowsOn (s : State) (core : Nat) : Nat :=
  ((s.blocks.filter (fun b => b.place == .resident && b.cores.contains core)).map (fun b => match s.launch? b.ref.launch with | some l => l.window | none => 0)).sum

/-- The seats of a block on some cores: its gangs by position (R20), its windows, on dies that are not lost; none where
something lacks room. -/
def State.seats (s : State) (l : Launch) (b : BRef) (cores : List Nat) : Option (List Group) :=
  if cores.any (fun c => decide (1572864 < s.windowsOn c + l.window) || s.lostDies.contains (dieOf c)) then none
  else
    ((List.range l.gangs).foldl (fun (acc : Option (List Group)) (n : Nat) =>
      match acc with
      | none => none
      | some gs => (s.seatGang l gs b (cores.getD (n % cores.length) 0) n).map (gs ++ ·)) (some s.groups)).map
        (fun gs => gs.filter (fun g => g.ref.b == b))

/-- Where a block can be placed now: its cores and its groups' seats, a free choice (R394). -/
def State.site (s : State) (l : Launch) (b : BRef) : Option (List Nat × List Group) :=
  let all := (l.spots b.block).filterMap (fun cs => (s.seats l b cs).map (fun gs => (cs, gs)))
  if all.isEmpty then none else some (choose ([], []) s.tick (2 ^ 34) all)

/-! ### The save pool (R420, Table 20-5) -/

/-- The bytes of a group's frame. -/
def frameBytes : Nat := 33024

/-- The bytes that an evicted block of a launch takes in the save pool: its windows and tiles, its groups' registers, and 1 KiB for the rest
of each group. The spec gives no layout. -/
def Launch.imageBytes (l : Launch) : Nat :=
  l.cores * l.window + l.gangs * l.hdr.tiles * 4096 + l.groupCount * (8 * l.hdr.vgran * 256 + 1024)

/-- The bytes of an interface's save pool that are in use. -/
def State.poolUsed (s : State) (vif : Nat) : Nat :=
  let mine := s.blocks.filter (fun b => b.place != .exited && (match s.launch? b.ref.launch with | some l => l.vif == vif | none => false))
  (mine.map (fun b => match s.launch? b.ref.launch, b.place with
    | some l, .evicted _ => l.groupCount * frameBytes + l.imageBytes
    | some l, _ => l.groupCount * frameBytes
    | none, _ => 0)).sum

/-- The pool has room for so many more bytes. -/
def State.poolRoom (s : State) (vif n : Nat) : Bool := decide (s.poolUsed vif + n ≤ (s.vif vif).poolLen)

/-- The frames of the pool that groups hold, by number. -/
def State.frameSlots (s : State) (vif : Nat) : List Nat :=
  (s.vifGroups vif).map (fun g => (pBase g.tfp - (s.vif vif).poolBase) / frameBytes)

/-- The pointer to a frame of the pool (R420). -/
def framePtr (base slot : Nat) : PtrBits :=
  pFix (BitVec.ofNat 128 (fieldSum [(0, base + frameBytes * slot), (64, frameBytes), (103, 4), (114, 3)]))

/-! ### Whose turn it is (R392, R430) -/

/-- The core-nanoseconds that an interface's blocks have held in the last 100 ms (R430). -/
def State.usage (s : State) (vif : Nat) : Nat :=
  let lo := s.time - 100000000
  let part := fun (u : Nat × Nat × Nat) => (u.2.1 - max lo u.1) * u.2.2
  let now := (s.blocks.filter (fun b => b.place == .resident && (match s.launch? b.ref.launch with | some l => l.vif == vif | none => false))).map
    (fun b => part (b.placedAt, s.time, b.cores.length))
  (((s.vif vif).usage.map part) ++ now).sum

/-- The lowest block of a launch that waits: one not placed yet, or an evicted one that is ready. -/
def State.nextBlock (s : State) (l : Launch) : Option Nat :=
  if l.ending then none
  else
    let ready := (s.blocks.filter (fun b => b.ref.launch == l.id && b.place == .evicted true)).map (·.ref.block)
    (sortBy (fun (a b : Nat) => decide (a ≤ b)) ((if l.placed < l.nblk then [l.placed] else []) ++ ready)).head?

/-- The order in which waiting launches are served. -/
def State.before (s : State) (a b : Launch) : Bool :=
  let ua := s.usage a.vif * (s.vif b.vif).weight
  let ub := s.usage b.vif * (s.vif a.vif).weight
  if a.vif = b.vif then decide (b.prio < a.prio) || (a.prio == b.prio && decide (a.startedAt ≤ b.startedAt))
  else decide (ua < ub) || (ua == ub && decide (a.vif < b.vif))

/-- A launch has a block that waits for placement. DESIGN CHOICE: a new one whose frames its interface's save pool has no room for waits for
that pool alone (R420), and bars no other interface's placements. -/
def State.waits (s : State) (l : Launch) : Bool :=
  match s.nextBlock l with
  | none => false
  | some b => (s.block? ⟨l.id, b⟩).isSome || s.poolRoom l.vif (l.groupCount * frameBytes)

/-- The launches with a block that waits for placement, in that order: those of the one interface whose turn it is (R405, R430). -/
def State.waiting (s : State) : List Launch :=
  let all := sortBy s.before (s.launches.filter s.waits)
  all.filter (fun l => some l.vif == (all.head?).map (·.vif))

/-- Where the waiting block of a launch can go now. -/
def State.siteOf (s : State) (l : Launch) : Option (BRef × List Nat × List Group) :=
  (s.nextBlock l).bind (fun b => (s.site l ⟨l.id, b⟩).map (fun y => (⟨l.id, b⟩, y)))

/-- The block that is placed or resumed next: the first in the order that can be. -/
def State.turn (s : State) : Option (BRef × List Nat × List Group) := s.waiting.findSome? s.siteOf

/-! ### Placement (R394, R395) -/

/-- The scratchpad of a core takes the smallest step that holds its windows; the lines in the ways that the L1 cedes, a free choice of
them, leave it (R144). -/
def State.resplit (s : State) (core : Nat) : State :=
  let step := (s.windowsOn core + 131071) / 131072
  let old := sgetD s.split core 0
  let s1 := { s with split := sput 0 s.split core step }
  if step ≤ old then s1
  else
    let lines := (((s.cache (.l1 core)).secs).map (· / 2)).eraseDups
    -- a line of a set that has lost its way leaves too: see `State.overfull`
    lines.foldl (fun (t : State) (n : Nat) => if Config.free t.tick (2 ^ 35 + n) % 2 = 0 then t.evictLine (.l1 core) n else t) s1

/-- The data pointer of a launch (R41). -/
def Launch.dataPtr (l : Launch) : PtrBits :=
  pFix (BitVec.ofNat 128 (fieldSum [(0, pBase l.image + l.hdr.dataoff), (64, l.hdr.datalen), (112, 1), (114, 3)]))

/-- A new group (R214, R395, R440): its one fragment stands at the entry clause. -/
def newGroup (l : Launch) (v : Vif) (seat : Group) (slot age : Nat) : Group :=
  let threads := (List.range 64).map (fun i => if 64 * seat.ref.k + i < l.thr then some (64 * seat.ref.k + i) else none)
  let args := (List.range 8).foldl (fun (m : Sparse PtrBits) (k : Nat) => sput 0 m k (l.argsA.getD k 0)) []
  let d := fun (n : Nat) => if v.debugger then debugBits n (sgetD v.dbg n 0) else 0
  let g : Group :=
    { ref := seat.ref, core := seat.core, part := seat.part, threads
      a := sput 0 args 31 l.dataPtr
      s := (List.range 16).foldl (fun (m : Sparse Word) (k : Nat) => sput 0 m k (l.argsS.getD k 0)) []
      thand := BitVec.ofNat 32 l.trapOff, tfp := framePtr v.poolBase slot, age
      dctl := (d 0x20).setWidth 32
      bpc := (List.range 4).foldl (fun (m : Sparse Word) (k : Nat) => sput 0 m k ((d (0x21 + k)).setWidth 32)) []
      wadr := (List.range 2).foldl (fun (m : Sparse (BitVec 64)) (k : Nat) => sput 0 m k (d (0x25 + k))) []
      wctl := (List.range 2).foldl (fun (m : Sparse Word) (k : Nat) => sput 0 m k ((d (0x27 + k)).setWidth 32)) [] }
  { g with frags := [{ lanes := g.present, pc := l.hdr.entry }] }

/-- A block takes its cores: the scratchpads are split again, and its start or resumption is an acquire of package scope. -/
def State.occupy (s : State) (cores : List Nat) : State :=
  let s1 := cores.foldl State.resplit s
  cores.foldl (fun (t : State) (c : Nat) => t.acquire c 3) s1

/-- The command processor places the next block whole (R392 to R395). -/
def execBlockPlacement (r : BRef) (s : State) : Host.Outcome State Fault Refusal :=
  match s.turn, s.launch? r.launch with
  | some (b, cores, seats), some l =>
    if b ≠ r ∨ (s.block? r).isSome then .next s
    else
      let v := s.vif l.vif
      let used := s.frameSlots l.vif
      let gs := seats.foldl (fun (acc : List Group × List Nat) (seat : Group) =>
        let slot := freshFrom 4194304 0 acc.2
        (acc.1 ++ [newGroup l v seat slot s.tick], slot :: acc.2)) ([], used)
      let s1 := (s.setLaunch { l with placed := l.placed + 1 }).setBlock { ref := r, cores, placedAt := s.time }
      .next (({ s1 with groups := s1.groups ++ gs.1 }.occupy cores).noteMove r)
  | _, _ => .next s

/-! ### Eviction (R401 to R403, R311, R345) -/

/-- The operation waits for the answer to a load from a peer or from the host that a test accepts. -/
def State.loading (s : State) (p : Pend) (ok : Request → Bool) : Bool :=
  match p.doing with
  | .response id => s.requests.any (fun r => r.id == id && r.isLoad && ok r)
  | _ => false

/-- The fragment has a load from a peer or from the host outstanding for more than 2 µs (Table 20-4). -/
def State.longWait (s : State) (g : Group) (f : Frag) : Bool :=
  g.pend.any (fun p => g.owns f p && s.loading p (fun r => decide (r.at_ + 2000 < s.time)))

/-- The fragment is asleep at such a load. -/
def State.longSleep (s : State) (g : Group) (f : Frag) : Bool := s.longWait g f && (s.next g f).isNone

/-- A fragment that now sleeps at a load of that age has reached a blocking point, once (Table 20-4, R334, R431). -/
def State.closeLong (s : State) : State :=
  if s.groups.all (fun (g : Group) => g.frags.all (fun f => f.atLong == s.longSleep g f)) then s
  else
    let note := fun (g : Group) => { g with frags := g.frags.map (fun f => { f with atLong := s.longSleep g f }) }
    (s.groups.filter (fun (g : Group) => g.frags.any (fun f => s.longSleep g f && !f.atLong))).foldl
      (fun (t : State) (g : Group) => t.reachPoint g.ref.b g.ref.gang) { s with groups := s.groups.map note }

/-- The fragment is asleep at a blocking point (Table 20-4). -/
def State.atPoint (s : State) (g : Group) (f : Frag) : Bool :=
  match f.wait with
  | .bar | .cbar | .cjoin _ | .deq .. | .test _ | .fault .. => true
  | .no => !f.stopped && (g.faulting || s.longSleep g f)
  | _ => false

/-- The fragment waits where an eviction may find it (R402). -/
def State.mayLeave (s : State) (g : Group) (f : Frag) : Bool :=
  s.atPoint g f || (match f.wait with | .jwait _ | .reform .. | .reorder .. => true | _ => false)

/-- An outstanding operation that an eviction need not wait for: what stands in the replay queue, and a tile add that runs on (R402). -/
def State.pendLeaves (s : State) (p : Pend) : Bool :=
  match p.doing with
  | .response _ => s.loading p (fun _ => true)
  | .quad | .tileAdd _ | .trapping => true
  | _ => false

/-- The queued tile instructions of a block let it leave: each is suspended, held behind a suspended one, or a tile add that runs
on (R311); while a row of one that is not suspended is pending it does not (R323). -/
def State.tilesLeave (s : State) (b : BRef) : Bool :=
  let mine := s.allOps.filter (fun (o : TileOp) => o.g.b == b)
  let held := mine.foldl (fun (acc : List TileOp) (o : TileOp) => if o.suspended ∨ acc.any (fun p => s.meets p o) then acc ++ [o] else acc) []
  mine.all (fun o => o.delta.isNone && !o.awaits && (o.suspended || o.rows == 0) && (held.any (fun p => p.id == o.id) ||
    (match o.job with | .drainAdd .. => o.sent.isSome | _ => false)))

/-- The block may be evicted, and its save pool has room (R402, R405). -/
def State.evictable (s : State) (b : Block) : Bool :=
  let gs := s.groups.filter (fun (g : Group) => g.ref.b == b.ref)
  b.place == .resident &&
    gs.all (fun g => g.frags.all (s.mayLeave g) && g.pend.all s.pendLeaves) &&
    gs.any (fun g => g.frags.any (s.atPoint g)) &&
    !s.lineages.any (fun l => l.root.b == b.ref) && s.tilesLeave b.ref && !s.colls.any (fun c => c.g.b == b.ref) &&
    (match s.launch? b.ref.launch with | some l => !l.ending && s.poolRoom l.vif l.imageBytes | none => false)

/-- The record of an eviction or a resumption, one for each core of the block (Table 26-3). -/
def State.moveTrace (s : State) (b : BRef) (cores : List Nat) (kind : Nat) : State :=
  match s.launch? b.launch with
  | none => s
  | some l => cores.foldl (fun (t : State) (c : Nat) =>
      t.traceRec l.vif { time := t.now, source := 80 + dieOf c, kind, name := threadName b 0, pc := 0, payload := c }) s

/-- The suspended MLOOPs of an evicted block pin no chunk; what they still need is filled again after its resumption (R323). -/
def State.unpinBlock (s : State) (b : BRef) : State :=
  let mine := fun (o : TileOp) => o.g.b == b
  let ids := (s.allOps.filter mine).map (fun (o : TileOp) => o.id)
  { s.unpin ids with quads := s.quads.map (fun (q : Quad) => { q with queue := q.queue.map (fun o => if mine o then { o with filled := [] } else o) }) }

/-- Evicts a block: a release of package scope, its groups into the save pool, its resources free (R402, R403). -/
def execBlockEviction (r : BRef) (s : State) : Host.Outcome State Fault Refusal :=
  match s.block? r with
  | none => .next s
  | some b =>
    if !s.evictable b then .next s
    else
      let s1 := b.cores.foldl (fun (t : State) (c : Nat) => t.release c 3) s
      let gs := (s1.groups.filter (fun (g : Group) => g.ref.b == r)).map (fun (g : Group) => { g with latch := [], young := [] })
      let s2 := ({ s1 with groups := s1.groups.filter (fun (g : Group) => g.ref.b != r) }.noteUsage b)
      .next (((s2.setBlock { b with place := .evicted false, saved := gs }).unpinBlock r).moveTrace r b.cores 4)

/-! ### Waking an evicted block (R192, R404) -/

/-- A fragment of an evicted block that stood asleep without a wait of its own goes on: the driver has answered its group's records
and its responses have come. -/
def Group.answeredAll (g : Group) (f : Frag) : Bool :=
  !g.faulting && !g.pend.any (fun p => g.owns f p && (match p.doing with | .response _ => true | _ => false))

/-- The wake condition of a fragment of an evicted block holds, the tests of words aside. -/
def State.awake (s : State) (b : Block) (g : Group) (f : Frag) : Bool :=
  match f.wait with
  | .cjoin _ => s.cjoinReady b
  | .deq _ key _ _ order _ _ => (s.deqReady g key order).isSome
  | .test t => decide (t.timeout ≤ s.time - t.t0)
  | .fault tags .. => tags.isEmpty
  | .no => !f.stopped && g.answeredAll f
  | _ => false

/-- The command processor's test of the word that a fragment of an evicted block waits for (R192, R404): whether it holds, and the
state after a test at a peer has gone out. -/
def State.cpTest (s : State) (g : Group) (f : Frag) : Bool × State :=
  match f.wait with
  | .test t =>
    match s.entryCtx g f t.entry with
    | none => (false, s)
    | some x =>
      if !t.due s (x.remote t.ptr) then (false, s)
      else
        let a := elemByte t.ptr t.idx
        if x.remote t.ptr then
          let id := s.serial
          let accs : List PeerAcc := [{ va := a % 2 ^ 45, op := .load 4 }]
          let q : Request := { id, g := g.ref, seq := t.entry.seq, rank := pBase t.ptr / 2 ^ 45, at_ := s.time, host := false, key := x.l.key, accs }
          if 12 ≤ s.portsFailed.length then (true, s)
          else
            (false, ({ s with serial := id + 1, requests := s.requests ++ [q], sent := s.sent ++ [Sent.peer id q.rank x.l.key accs] } : State).onGroup g.ref
              (fun h => h.setFrag (lowest f.lanes) { f with wait := .test { t with req := some id, lastTest := s.time, tests := t.tests + 1 } }))
        else
          let q := x.find t.ptr false a 4 s (some t.spot)
          match q.1 with
          | .at_ ls =>
            let r := q.2.pointRead (x.via t.ptr) ls
            if q.2.atsRefuses x.l.vif t.ptr then (true, q.2) else (match r.1 with | some bs => t.holds (leNat bs) | none => true, r.2)
          | _ => (true, q.2)
  | _ => (false, s)

/-- The command processor looks at the wake conditions of an evicted block (R404). -/
def execWakeConditionTest (r : BRef) (s : State) : Host.Outcome State Fault Refusal :=
  match s.block? r with
  | none => .next s
  | some b =>
    if b.place ≠ .evicted false then .next s
    else
      let ready := b.saved.any (fun g => g.frags.any (s.awake b g))
      let q := b.saved.foldl (fun (acc : Bool × State) (g : Group) => g.frags.foldl (fun (acc : Bool × State) (f : Frag) =>
        let z := acc.2.cpTest g f
        (acc.1 || z.1, z.2)) acc) (ready, s)
      if q.1 then
        match q.2.block? r with
        | some b1 => .next (q.2.setBlock { b1 with place := .evicted true })
        | none => .next q.2
      else .next q.2

/-! ### The evictions that the device must make (R405, R430) -/

/-- The cores where the waiting block of a launch could stand, had they room; none where it waits for no resources. -/
def State.lacks (s : State) (l : Launch) : Option (List Nat) :=
  match s.nextBlock l with
  | some b =>
    if (s.site l ⟨l.id, b⟩).isSome then none
    else some ((l.spots b).filter (fun cs => cs.all (fun c => !s.lostDies.contains (dieOf c)))).flatten
  | none => none

/-- A block's live threads all wait at CBAR, or at a CJOIN whose children are incomplete. -/
def State.parked (s : State) (b : Block) : Bool := s.allAt b.ref (fun f => f.atCbar || (f.atCjoin && !s.cjoinReady b))

/-- A block must make room for the chosen launch's block: it is of the same launch with a higher index, of lower prio, or of an interface that has
used more for its weight. -/
def State.yieldsTo (s : State) (b : Block) (l : Launch) : Bool :=
  match s.launch? b.ref.launch with
  | some m =>
    if m.vif = l.vif then
      decide (m.prio < l.prio) || (m.id == l.id && (match s.nextBlock l with | some n => decide (n < b.ref.block) | none => false))
    else decide (s.usage l.vif * (s.vif m.vif).weight < s.usage m.vif * (s.vif l.vif).weight)
  | none => false

/-- The block that the device must evict now (R405, R430): of the latest-started launch, the one of the highest index. -/
def State.mustEvict (s : State) : Option BRef :=
  let starved := (s.launches.filter s.waits).filterMap s.lacks
  if starved.isEmpty then none
  else
    let help := fun (b : Block) (cs : List Nat) => b.cores.any cs.contains
    let due := fun (b : Block) => s.evictable b && ((s.parked b && starved.any (help b)) ||
      (match s.waiting.head? with
      | some l => (match s.lacks l with | some cs => help b cs && s.yieldsTo b l | none => false)
      | none => false))
    let at_ : Block → Nat := fun b => ((s.launch? b.ref.launch).map (·.startedAt)).getD 0
    let first := fun (a b : Block) => decide (at_ b < at_ a) || (at_ a == at_ b && (decide (b.ref.launch < a.ref.launch) ||
      (a.ref.launch == b.ref.launch && decide (b.ref.block ≤ a.ref.block))))
    ((sortBy first (s.blocks.filter due)).head?).map (·.ref)

/-! ### Resumption (R403, R404) -/

/-- A saved group at its new seat: a word it waits for is tested anew at once. -/
def Group.reseat (g seat : Group) (age : Nat) : Group :=
  { g with
    core := seat.core, part := seat.part, age, passedCount := 0
    frags := g.frags.map (fun (f : Frag) => match f.wait with
      | .test t => { f with wait := .test { t with tests := if t.req.isNone then 0 else t.tests } }
      | _ => f) }

/-- The block's queued tile instructions go to the quads where its gangs now sit (R311). -/
def State.moveOps (s : State) (b : BRef) : State :=
  let mine := s.allOps.filter (fun (o : TileOp) => o.g.b == b)
  let s1 := { s with quads := s.quads.map (fun (q : Quad) => { q with queue := q.queue.filter (fun o => o.g.b != b) }) }
  mine.foldl (fun (t : State) (o : TileOp) => match t.group? o.g with
    | some g => let q := t.quadOf g.core g.quad; t.setQuad { q with queue := q.queue ++ [o] }
    | none => t) s1

/-- Resumes the next block, which is ready (R392, R404). -/
def execBlockResumption (r : BRef) (s : State) : Host.Outcome State Fault Refusal :=
  match s.turn, s.block? r with
  | some (b, cores, seats), some x =>
    if b ≠ r then .next s
    else
      let gs := x.saved.map (fun (g : Group) => match seats.find? (fun y => y.ref == g.ref) with
        | some seat => (g.reseat seat s.tick).endFaults s.tick
        | none => g)
      let home := fun (c : Nat) => cores.getD ((x.cores.findIdx? (· == c)).getD 0) c
      let bins := x.bins.map (fun (y : Bin) => { y with core := home y.core, threads := y.threads.map (fun (t : Filed) => { t with at_ := s.time }) })
      let s1 := ({ s with groups := s.groups ++ gs } : State).setBlock { x with place := .resident, cores, bins, saved := [], placedAt := s.time }
      let s2 := ((s1.occupy cores).moveOps r).moveTrace r cores 5
      .next (((cores.foldl State.advanceCore s2).checkBar r).noteMove r)
  | _, _ => .next s

/-! ### The ordered-atomics logs (R167) -/

/-- Applies one log entry at its home, as one indivisible step; a poisoned word stays poisoned. -/
def State.applyEntry (s : State) (l : Launch) (e : LogEntry) : State :=
  (s.peerAccess l.vif (.atomf e.op e.v l.flush) ((List.range 4).map (e.pa + ·))).2

/-- The entries of a launch's logs, by block, then thread, then program order. -/
def State.logOf (s : State) (launch : Nat) : List LogEntry :=
  let bs := sortBy (fun (a b : Block) => decide (a.ref.block ≤ b.ref.block)) (s.blocks.filter (fun b => b.ref.launch == launch))
  bs.flatMap (fun b => sortBy (fun (a c : LogEntry) => decide (a.thread < c.thread) || (a.thread == c.thread && decide (a.seq ≤ c.seq))) b.log)

/-- Every block of a launch has exited. -/
def Launch.allExited (l : Launch) : Bool := l.placed == l.nblk && l.exitedBlocks == l.nblk

/-- The logs of an ended launch are to be applied. -/
def State.logDue (s : State) (l : Launch) : Bool :=
  !l.logsApplied && (l.ending || l.allExited) && !(s.logOf l.id).isEmpty

/-- The release of package scope by every thread of a launch that its completion is (R211, Table 9-1). -/
def State.releaseLaunch (s : State) (launch : Nat) : State :=
  (s.blocks.filter (fun (b : Block) => b.ref.launch == launch)).foldl
    (fun (t : State) (b : Block) => b.cores.foldl (fun (u : State) (c : Nat) => u.release c 3) t) s

/-- The command processor applies a launch's ordered-atomics logs (R167). What the threads stored before goes to the home L2
first: a thread's earlier store stands before its buffered ATOMF (R202), and later ones were made before the log is applied. -/
def execOrderedAtomicLogApply (launch : Nat) (s : State) : Host.Outcome State Fault Refusal :=
  match s.launch? launch with
  | none => .next s
  | some l =>
    if !s.logDue l then .next s
    else
      let s1 := (s.logOf launch).foldl (fun (t : State) (e : LogEntry) => t.applyEntry l e) (s.releaseLaunch launch)
      let s2 := { s1 with blocks := s1.blocks.map (fun (b : Block) => if b.ref.launch = launch then { b with log := [] } else b) }
      .next (s2.setLaunch { l with logsApplied := true })

/-! ### Completion (R390) -/

/-- A launch is complete: its blocks have exited or been ended, its children are complete, its copies done and its logs applied; the
adds of its tiles that its quads accepted have gone out, for they read them (R309, R418). -/
def State.completes (s : State) (l : Launch) : Bool :=
  (l.ending || l.allExited) && !s.logDue l && l.statHeld.isNone &&
    !s.launches.any (fun c => match c.parent with | some b => b.launch == l.id | none => false) &&
    !s.copies.any (fun c => c.g.b.launch == l.id) &&
    !s.allOps.any (fun o => o.g.b.launch == l.id && o.sent.isNone && (match o.job with | .drainAdd .. => true | _ => false))

/-- The launch is gone: its queue goes on, its parent's block counts it, its keys are bound no more, and the counters of its lane-cycle record
stand for the driver to read (R436). -/
def State.retireLaunch (s : State) (l : Launch) : State :=
  let s1 := { s with
    launches := s.launches.filter (fun x => x.id != l.id)
    blocks := s.blocks.filter (fun (b : Block) => b.ref.launch != l.id)
    landed := s.landed.filter (fun (m : CopiedBit) => m.b.launch != l.id)
    tileAdds := s.tileAdds.filter (fun (a : TileAdd) => !(a.dropped && a.g.b.launch == l.id))
    members := s.members.map (fun (m : Member) => if m.lbound ∧ m.launch = l.id then { m with launch := 0, lbound := false } else m) }
  let s0 := match l.laneRec with
    | some r => s1.setVif l.vif { s1.vif l.vif with laneRecs := (s1.vif l.vif).laneRecs.filter (fun (x : Nat × LaneRec) => x.1 != l.id) ++ [(l.id, r)] }
    | none => s1
  let s2 := match l.parent.bind s0.block? with
    | some b =>
      let mine := b.children.contains l.id
      s0.setBlock { b with children := b.children.filter (· != l.id)
                           badChildren := if mine ∧ l.status ≠ 1 then b.badChildren + 1 else b.badChildren }
    | none => s0
  if l.queue = 15 ∧ (l.parent.isSome ∨ l.depth ≠ 0) then s2
  else
    let v := s2.vif l.vif
    let c : Completion := { time := s2.now, launch := l.id, status := l.status, queue := l.queue, seq := l.seq }
    let free := fun (q : LQueue) => if q.running = some l.id then { q with running := none } else q
    { s2.setVif l.vif { v with events := v.events ++ [c], queues := v.queues.map free } with sent := s2.sent ++ [Sent.msix l.vif l.queue] }

/-- What the log area of a launch that ran in ordered mode holds after it: undefined bytes (R168), free values as far as the area is
mapped. -/
def State.scrambleLog (s : State) (l : Launch) : State :=
  if !l.ord ∨ 0x10 ≤ l.status then s
  else
    (sectorRuns (pBase l.logPtr) l.logArea).foldl (fun (t : State) (x : Nat × List Nat) =>
      let va := 32 * x.1 + x.2.headD 0
      let q := t.translate { vif := l.vif, ctx := l.ctx, tgt := 0, write := true } [] 0 va
      match q.1 with
      | .ok key _ => q.2.homeWrite l.vif key (x.2.map (fun k => BitVec.ofNat 8 (Config.free s.tick (2 ^ 47 + 32 * x.1 + k))))
      | _ => t) s

/-- The host bridge refuses a launch's status word by ATS (R448): its choice. -/
def State.statRefused (s : State) (l : Launch) : Bool := pHost l.stat && (s.vif l.vif).ats && Config.free s.tick (2 ^ 36) % 2 == 1

/-- The status word of a launch goes out through stat (R390): what its address comes to, and the state after. -/
def State.writeStatus (s : State) (l : Launch) : Xl × State :=
  let va := pBase l.stat
  let q := s.translate { vif := l.vif, ctx := l.readCtx, tgt := if pHost l.stat then 1 else 0, write := true } [] 0 va
  match q.1 with
  | .ok key _ => (q.1, q.2.homeWrite l.vif key (leBytes 4 (l.id * 65536 + l.status)))
  | _ => q

/-- A completion that writes no status word (R390). -/
def Launch.noStatus (l : Launch) : Bool := l.statDone || l.stat == 0 || l.status == 0x10

/-- Ends launches by a reset, with status 0x03 (Table 27-7): their status words are written as far as their addresses translate. -/
def State.endAll (s : State) (p : Launch → Bool) : State :=
  ((s.launches.filter p).map (·.id)).foldl (fun (t : State) (id : Nat) =>
    let u := t.endLaunch id 3
    match u.launch? id with
    | some l => if l.noStatus ∨ u.statRefused l then u else (u.writeStatus l).2
    | none => u) s

/-- A launch completes: its threads' release, the status word through stat, then the report (R390, Table 27-3). -/
def execLaunchCompletion (launch : Nat) (s : State) : Host.Outcome State Fault Refusal :=
  match s.launch? launch with
  | none => .next s
  | some l =>
    let s1 := (s.releaseLaunch launch).scrambleLog l
    if !s.completes l then .next s
    else if l.noStatus ∨ s1.statRefused l then .next (s1.retireLaunch l)
    else
      let q := s1.writeStatus l
      match q.1 with
      | .fault cause =>
        let r := q.2.faultRecord { tag := 0, vif := l.vif, ctx := l.readCtx, va := pBase l.stat, kind := .engWrite, cause, launch := l.id, source := 80
                                   die := 0, block := 0, time := 0 }
        .next (r.2.setLaunch { l with statHeld := some r.1 })
      | _ => .next (q.2.retireLaunch l)

/-- The driver ends a launch (Table 20-3). -/
def execTerminateLaunch (launch : Nat) (s : State) : Host.Outcome State Fault Refusal := .next (s.endLaunch launch 3)

/-! ### Weights and watchdogs (R430, R431) -/

/-- PF 0 sets an interface's weight; a VF is refused (R449). `by_` is 0 for PF 0. -/
def execInterfaceWeightSet (by_ vif weight : Nat) (s : State) : Host.Outcome State Fault Refusal :=
  .next (if by_ = 0 ∧ !s.recovery ∧ vif < 64 ∧ 1 ≤ weight ∧ weight ≤ 255 then s.setVif vif { s.vif vif with weight } else s)

/-- PF 0 sets an interface's watchdog limit, in ms; 0 turns it off. -/
def execWatchdogLimitSet (by_ vif ms : Nat) (s : State) : Host.Outcome State Fault Refusal :=
  .next (if by_ = 0 ∧ !s.recovery ∧ vif < 64 ∧ ms ≤ 65535 then s.setVif vif { s.vif vif with wdLimit := ms } else s)

/-- The interface holds cores. -/
def State.holdsCores (s : State) (vif : Nat) : Bool :=
  s.blocks.any (fun b => b.place == .resident && (match s.launch? b.ref.launch with | some l => l.vif == vif | none => false))

/-- An interface's watchdog may run (R431). -/
def State.watchdogRuns (s : State) (vif : Nat) (v : Vif) : Bool :=
  v.wdLimit != 0 && s.holdsCores vif && s.launches.any (fun l => l.vif != vif && (s.nextBlock l).isSome)

/-- The watchdogs at the start of a step: each starts, stops, or starts again (R431). -/
def State.watchdogs (s : State) : State :=
  { s with vifs := s.vifs.map (fun x =>
      if x.2.wdLimit = 0 ∧ x.2.wdSince = none then x
      else if !s.watchdogRuns x.1 x.2 then (x.1, { x.2 with wdSince := none, wdMoved := false })
      else
        match x.2.wdSince with
        | none => (x.1, { x.2 with wdSince := some s.time, wdMoved := false })
        | some _ => if x.2.wdMoved then (x.1, { x.2 with wdSince := some s.time, wdMoved := false }) else x) }

/-- The watchdog has reached its limit. -/
def Vif.wdExpired (v : Vif) (now : Nat) : Bool :=
  match v.wdSince with
  | some t => v.wdLimit != 0 && !v.wdMoved && decide (v.wdLimit * 1000000 ≤ now - t)
  | none => false

/-- A watchdog expires: every running launch of the interface ends (R431). -/
def execWatchdogExpiry (vif : Nat) (s : State) : Host.Outcome State Fault Refusal :=
  let v := s.vif vif
  if !v.wdExpired s.time then .next s
  else
    let s1 := (s.launches.filter (fun l => l.vif == vif)).foldl (fun (t : State) (l : Launch) => t.endLaunch l.id 3) s
    let s2 := s1.setVif vif { s1.vif vif with wdSince := none, wdMoved := false }
    .next (s2.errorRec { time := s2.now, source := 80, kind := 7, launch := 0, arg := vif })

/-! ### Launch queues (R391, R450, Table 27-2) -/

/-- A doorbell: entries come into a ring, as far as they fit. Until the driver has accepted features it is ignored (R450). -/
def execLaunchDoorbell (vif queue : Nat) (entries : List Nat) (s : State) : Host.Outcome State Fault Refusal :=
  let v := s.vif vif
  let add := fun (q : LQueue) =>
    if q.q = queue then { q with entries := q.entries ++ (entries.take (2 ^ q.k - q.entries.length)).map (· % 2 ^ 64) } else q
  .next (if v.accept.isSome then s.setVif vif { v with queues := v.queues.map add } else s)

end Sys2Proof.Machine
end

