-- ==== Sys2Proof/Machine/Host.lean ====
section
/-! DEFINITION. What the host, the driver and the power manager do: the trace ring and the lane-cycle record (26 R435 to R437), the
CXL.mem window (27 R447), negotiation and the resources of an interface (27 R449, R450), resets and firmware (27 R457, R458), and
power (27 R459). -/

namespace Sys2Proof.Machine

open Sys2Proof

/-! ### The trace ring (R437) -/

/-- A record's 32 bytes (Table 26-3). -/
def TraceRec.bytes (r : TraceRec) : List Byte :=
  leBytes 32 (fieldSum [(192, r.time % 2 ^ 64), (176, r.source), (168, r.kind), (96, r.name), (64, r.pc), (0, r.payload)])

/-! ### The entries of an interface's queues as the host reads them -/

/-- The code of an access kind (Table 5-8). -/
def AccKind.code : AccKind → Nat
  | .read => 0 | .write => 1 | .atomic => 2 | .fetch => 3 | .engRead => 4 | .engWrite => 5

/-- A fault record's 32 bytes (Table 5-8). -/
def FaultRec.bytes (r : FaultRec) : List Byte :=
  leBytes 32 (fieldSum [(199, r.va % 2 ^ 57), (196, AccKind.code r.kind), (192, r.cause), (176, r.launch), (160, r.source), (154, r.vif), (152, r.die),
    (128, r.block), (64, r.time % 2 ^ 64), (0, r.tag)])

/-- A completion entry's 16 bytes (Table 27-3). -/
def Completion.bytes (c : Completion) : List Byte :=
  leBytes 16 (fieldSum [(64, c.time % 2 ^ 64), (48, c.launch), (40, c.status), (36, c.queue), (0, c.seq)])

/-- An error record's 320 bytes, the trap frame's header from byte 64 on (R455). -/
def ErrRec.bytes (r : ErrRec) : List Byte :=
  leBytes 64 (fieldSum [(0, r.time % 2 ^ 64), (64, r.source), (80, r.kind), (96, r.launch), (128, r.arg % 2 ^ 64)]) ++
    leBytes 256 (match r.frame with | some f => f.bits r.group | none => 0)

/-- Bytes written at their package points through an interface's context 0; none where they do not translate. -/
def State.putBytes (s : State) (vif va : Nat) (bs : List Byte) : Option State :=
  (sectorRuns va bs.length).foldl (fun (acc : Option State) x =>
    acc.bind (fun t =>
      let a := 32 * x.1 + x.2.headD 0
      let q := t.translate { vif, ctx := 0, tgt := 0, write := true } [] 0 a
      match q.1 with
      | .ok key _ => some (q.2.homeWrite vif key (x.2.map (fun o => bs.getD (32 * x.1 + o - va) 0)))
      | _ => none)) (some s)

/-- The records that may go to the ring next: of each source and time, the first that arose, so that their order in the ring is that of their
events (R434). -/
def traceHeads (rs : List TraceRec) : List TraceRec :=
  rs.foldl (fun acc r => if acc.any (fun (y : TraceRec) => y.source == r.source && y.time == r.time) then acc else acc ++ [r]) []

/-- One of an interface's records, a free choice of those that may go next, goes to its ring; one that finds the ring full is dropped and counted
(R434, R437). DESIGN CHOICE: a written slot stays used until the driver sets a ring anew; the spec names no other way to free one. -/
def execTraceRecordWrite (vif : Nat) (s : State) : Host.Outcome State Fault Refusal :=
  let v := s.vif vif
  if v.trace.isEmpty then .next s
  else
    let r := choose default s.tick (2 ^ 37) (traceHeads v.trace)
    let rest := v.trace.erase r
    let lost := s.setVif vif { v with trace := rest, dropped := v.dropped + 1 }
    if v.ringSlots ≤ v.ringUsed then .next lost
    else
      match s.putBytes vif (v.ringBase + 32 * v.ringUsed) r.bytes with
      | some t => .next (t.setVif vif { t.vif vif with trace := rest, ringUsed := v.ringUsed + 1 })
      | none => .next lost

/-- The driver gives an interface a ring and a kind mask; the ring is empty and its drop count 0 (R437, Table 27-4). -/
def execTraceRingSet (vif base slots kinds : Nat) (s : State) : Host.Outcome State Fault Refusal :=
  .next (if s.feature vif 9 then
    s.setVif vif { s.vif vif with ringBase := base % 2 ^ 57, ringSlots := slots, ringKinds := kinds, ringUsed := 0, dropped := 0, trace := [] }
  else s)

/-! ### The lane-cycle record (R435, R436) -/

/-- The oldest group of a partition, of the launches that keep the record, that has issued and has not retired (R435). -/
def State.counted (s : State) (core part : Nat) : Option Group :=
  let kept := fun (g : Group) => match s.launch? g.ref.b.launch with | some l => l.laneRec.isSome | none => false
  s.oldest (s.groups.filter (fun g => g.core == core && g.part == part && g.seq != 0 && !g.retired && kept g))

/-- The offset of the instruction word that a fragment would issue from an offset on: headers and prefixes issue nothing (R435). -/
def State.wordPc (core : Nat) (l : Launch) : Nat → Nat → State → Nat
  | 0, pc, _ => pc
  | n + 1, pc, s =>
    match s.fetch core l pc with
    | (.word w, s1) => if wordKind w = 2 ∨ wordKind w = 3 then State.wordPc core l n (pc + 8) s1 else pc
    | _ => pc

/-- The PC that an idle clock of a group is charged to: that of the instruction which the fragment that would be chosen would issue. -/
def State.idlePc (s : State) (g : Group) (l : Launch) : Nat :=
  match chooseFrag g.frags with
  | some f => (match f.inject with | e :: _ => e.tpc | [] => State.wordPc g.core l 2 f.pc s)
  | none => Config.free s.tick (2 ^ 38)

/-- A clock in which a partition issues nothing: 64 idle lanes, at the PC of the fragment that would be chosen (R435). -/
def execLaneCycleCount (launch core part : Nat) (s : State) : Host.Outcome State Fault Refusal :=
  match s.counted core part, s.launch? launch with
  | some g, some l =>
    match l.laneRec with
    | some r =>
      if g.ref.b.launch = launch then
        .next (s.setLaunch { l with laneRec := some (r.add (s.idlePc g l) 4 64) })
      else .next s
    | none => .next s
  | _, _ => .next s

/-- The record's 2,560 bytes: counter c of bin i at byte 40i + 8c (R436). -/
def LaneRec.bytes (r : LaneRec) : List Byte := (List.range 320).flatMap (fun k => leBytes 8 (sgetD r.counters k 0))

/-- The block that the driver reads of a launch: of one that runs, as it stands; of one that has completed, with its final counters (R436). -/
def State.laneBlock (s : State) (vif launch : Nat) : Option (List Byte) :=
  (((s.launch? launch).bind (·.laneRec)).or (((s.vif vif).laneRecs.find? (fun x => x.1 == launch)).map (·.2))).map LaneRec.bytes

/-- The default bins (R436). -/
def Launch.defaultBins (l : Launch) : List Nat := (List.range 64).map (fun i => 64 + i * (8 * ((l.hdr.codelen + 511) / 512)))

/-- The driver's bins are 64 ascending multiples of 8 from 64 up (R436). -/
def binsOk (bs : List Nat) : Bool :=
  bs.length == 64 && bs.head? == some 64 && bs.all (fun x => x % 8 == 0) && (bs.zip (bs.drop 1)).all (fun x => decide (x.1 < x.2))

/-- The driver enables the record for a launch, its counters zero (R435, R436). -/
def execLaneCycleRecordEnable (launch : Nat) (bins : Option (List Nat)) (s : State) : Host.Outcome State Fault Refusal :=
  match s.launch? launch with
  | none => .next s
  | some l =>
    let bs := bins.getD l.defaultBins
    .next (if s.feature l.vif 10 ∧ (bins.isNone ∨ binsOk bs) then s.setLaunch { l with laneRec := some { starts := bs, counters := [] } } else s)

/-! ### The CXL.mem window (R447, R456) -/

/-- The device address and the interface of a window address. -/
def State.windowAt (s : State) (addr : Nat) : Option (Nat × Nat) :=
  (s.windowPages.find? (fun p => p.1 == addr / 2 ^ 21)).map (fun p => (p.2.1 + addr % 2 ^ 21, p.2.2))

/-- A host read through the window: what is not mapped reads as ones, and a lost die's sector as poison. -/
def execHostMemRead (addr n : Nat) (s : State) : Host.Outcome State Fault Refusal :=
  let one := fun (acc : (List Byte × Bool) × State) (x : Nat × List Nat) =>
    let a := 32 * x.1 + x.2.headD 0
    let k := x.2.length
    match acc.2.windowAt a with
    | none => ((acc.1.1 ++ List.replicate k 255, acc.1.2), acc.2)
    | some (dpa, vif) =>
      if acc.2.lostDies.contains (homeDie (dpa / 32)) then ((acc.1.1 ++ List.replicate k 0, true), acc.2)
      else
        let r := acc.2.homeRead vif dpa k
        ((acc.1.1 ++ r.1.getD (List.replicate k 0), acc.1.2 || r.1.isNone), r.2)
  let q := (sectorRuns addr n).foldl one (([], false), s)
  .next (if s.recovery then s else { q.2 with sent := q.2.sent ++ [Sent.window addr q.1.1 q.1.2] })

/-- A host write through the window, owned by the page's interface; what is not mapped or lost is discarded. -/
def execHostMemWrite (addr : Nat) (bytes : List Byte) (s : State) : Host.Outcome State Fault Refusal :=
  let one := fun (t : State) (x : Nat × List Nat) =>
    let a := 32 * x.1 + x.2.headD 0
    match t.windowAt a with
    | none => t
    | some (dpa, vif) =>
      if t.lostDies.contains (homeDie (dpa / 32)) then t
      else t.homeWrite vif dpa (x.2.map (fun o => bytes.getD (32 * x.1 + o - addr) 0))
  .next (if s.recovery then s else (sectorRuns addr bytes.length).foldl one s)

/-! ### Interfaces (R449, R450, Table 27-2) -/

/-- The driver accepts features: once, the written value AND the offer, of which bits 13 and up are never part (R450). -/
def execFeatureAcceptWrite (vif : Nat) (x : BitVec 128) (s : State) : Host.Outcome State Fault Refusal :=
  let v := s.vif vif
  .next (if v.accept = none ∧ vif < 64 ∧ !s.recovery then
    s.setVif vif { v with accept := some (x &&& Config.offer vif &&& BitVec.ofNat 128 (2 ^ 13 - 1)) }
  else s)

/-- The driver creates a launch ring with its translation context; a ring whose launch runs stays (Table 27-2). -/
def execLaunchQueueCreate (vif queue k ctx : Nat) (s : State) : Host.Outcome State Fault Refusal :=
  let v := s.vif vif
  let busy := v.queues.any (fun q => q.q == queue && q.running.isSome)
  .next (if vif < 64 ∧ queue < 16 ∧ 4 ≤ k ∧ k ≤ 16 ∧ ctx < 4096 ∧ !busy ∧ !s.recovery then
    s.setVif vif { v with queues := upsert (fun q => q.q == queue) { q := queue, k, ctx } v.queues }
  else s)

/-- PF 0 sets an interface's virtual mesh, an aligned rectangle of the 8 × 8 mesh (R18). DESIGN CHOICE: a running launch keeps the mesh that it
started with (log 162). -/
def execVirtualMeshSet (by_ vif x y w h : Nat) (s : State) : Host.Outcome State Fault Refusal :=
  let ok := fun (n : Nat) => n == 1 || n == 2 || n == 4 || n == 8
  .next (if by_ = 0 ∧ !s.recovery ∧ vif < 64 ∧ ok w ∧ ok h ∧ x % w = 0 ∧ y % h = 0 ∧ x + w ≤ 8 ∧ y + h ≤ 8 then
    s.setVif vif { s.vif vif with mx := x, my := y, mw := w, mh := h }
  else s)

/-- PF 0 grants an interface its save pool; one in use stays. -/
def execSavePoolGrant (by_ vif base len : Nat) (s : State) : Host.Outcome State Fault Refusal :=
  .next (if by_ = 0 ∧ !s.recovery ∧ vif < 64 ∧ s.poolUsed vif = 0 ∧ base % 64 = 0 ∧ base + len ≤ 2 ^ 57 then
    s.setVif vif { s.vif vif with poolBase := base, poolLen := len }
  else s)

/-! ### Resets and firmware (R457, R458) -/

/-- The boot ROM takes an image: its signature verifies and its version is not below the fused minimum (R458). -/
def State.imageOk (s : State) (i : FwImage) : Bool := Config.verifies i.bytes && decide (s.fwMin ≤ i.version)

/-- The boot ROM's check of the image in flash, which leaves the device running or in the recovery loader (R458). -/
def State.boot (s : State) : State :=
  if s.imageOk s.flash then { s with recovery := false, fwVersion := s.flash.version } else { s with recovery := true }

/-- The state after a cold or a device reset, the firmware checked. What lies outside the reset stays: the flash and the fuses, host
memory, what has left the package, the lists of live channels, which the retirement switch alone changes, with what repairs them (R79, R92),
and the model's own step count, agenda and strikes. -/
def State.resetDevice (s : State) : State :=
  let chans : Sparse Chan := s.chans.map (fun (x : Nat × Chan) => (x.1, { x.2 with postponed := [] }))
  { State.reset with live := s.live, chans, tick := s.tick, agenda := s.agenda, strikes := s.strikes, serial := s.serial, flash := s.flash, fwMin := s.fwMin, host := s.host, sent := s.sent }.boot

/-- Power-on (Table 27-7). -/
def execColdReset (s : State) : Host.Outcome State Fault Refusal := .next s.resetDevice

/-- FLR of PF 0 or a CXL reset (Table 27-7): every launch ends before the device is reset. -/
def execDeviceReset (s : State) : Host.Outcome State Fault Refusal := .next (s.endAll (fun _ => true)).resetDevice

/-- The sectors whose side band names an interface, and those of its dirty bytes. -/
def State.sectorsOf (s : State) (vif : Nat) : List Nat :=
  ((s.band.filter (fun x => x.2.vif == vif)).map (·.1) ++
    s.caches.flatMap (fun c => ((c.bytes.filter (fun x => x.2.dirty && x.2.vif == vif)).map (fun x => x.1 / 32)).filter (fun k => !secIsHost k))).eraseDups

/-- A cache where an interface's keys are replaced: what it holds of the interface's sectors goes, but for what another interface has written
there and has yet to go on (R87, R457). -/
def Cache.newKeys (c : Cache) (vif : Nat) (secs : List Nat) : Cache :=
  { c with
    bytes := c.bytes.filter (fun x => !secs.contains (x.1 / 32) || (x.2.dirty && x.2.vif != vif))
    poison := c.poison.filter (fun p => !secs.contains p || c.bad.any (fun y => y.1 == p))
    owned := c.owned.filter (fun w => !secs.contains (w / 8)) }

/-- Replaces an interface's keys: every sector of it is lost until it is overwritten, those too that it has written whole and that have yet to
reach memory; their side bands keep its number and the old version (R457). -/
def State.newKeys (s : State) (vif : Nat) : State :=
  let secs := s.sectorsOf vif
  let whole := secs.filter (fun k => s.caches.any (fun c => (List.range 32).all (fun o => match sget c.bytes (32 * k + o) with
    | some b => b.dirty && b.vif == vif
    | none => false)))
  let band : Sparse Band := s.band.map (fun (x : Nat × Band) => (x.1, if x.2.vif = vif then { x.2 with dead := true } else x.2))
  whole.foldl (fun (t : State) (k : Nat) => t.memPoison vif k) { s with
    band, caches := s.caches.map (fun (c : Cache) => c.newKeys vif secs), owners := s.owners.filter (fun o => !secs.contains (o.word / 8)) }

/-- FLR of an interface's function (Table 27-7): its launches end and go, its queues, contexts, job keys, checkpoint set, save pool
contents and acceptance are cleared, and its keys are replaced. -/
def execInterfaceReset (vif : Nat) (s : State) : Host.Outcome State Fault Refusal :=
  if 64 ≤ vif ∨ s.recovery then .next s
  else
  let ids := (s.launches.filter (fun l => l.vif == vif)).map (·.id)
  let s1 := s.endAll (fun l => l.vif == vif)
  let mine := fun (b : BRef) => ids.contains b.launch
  let v := s1.vif vif
  let fresh : Vif := { weight := v.weight, wdLimit := v.wdLimit, usage := v.usage, mx := v.mx, my := v.my, mw := v.mw, mh := v.mh
                       ats := v.ats, poolBase := v.poolBase, poolLen := v.poolLen, kver := (v.kver + 1) % 256 }
  let s2 := { s1 with
    launches := s1.launches.filter (fun l => l.vif != vif)
    blocks := s1.blocks.filter (fun (b : Block) => !mine b.ref)
    copies := s1.copies.filter (fun c => c.vif != vif)
    quads := s1.quads.map (fun (q : Quad) => { q with queue := q.queue.filter (fun o => !mine o.g.b) })
    tileAdds := s1.tileAdds.filter (fun a => !mine a.g.b || a.src.isSome)
    requests := s1.requests.filter (fun r => !mine r.g.b && (match r.ckpt with | some c => c.1 != vif | none => true))
    peerWaits := s1.peerWaits.filter (fun w => w.2.2 != vif)
    members := s1.members.map (fun (m : Member) => if m.valid ∧ m.vif = vif then {} else m)
    chunks := s1.chunks.filter (fun c => c.vif != vif)
    mshrs := s1.mshrs.filter (fun m => m.vif != vif)
    invals := s1.invals.filter (fun c => c.1 != vif)
    landed := s1.landed.filter (fun m => !mine m.b)
    misses := s1.misses.filter (fun m => !ids.contains m.2.1)
    tlbs := s1.tlbs.filter (fun t => t.vif != vif)
    ilines := s1.ilines.filter (fun i => i.vif != vif) }
  .next ((s2.newKeys vif).setVif vif fresh)

/-- PF 0 loads a firmware image: the recovery loader writes it to flash and resets the device once it verifies; a running device keeps
it for its next reset (R449, R458). -/
def execFirmwareImageLoad (cmd : Cmd FwImage) (s : State) : Host.Outcome State Fault Refusal :=
  let s1 := { s with flash := cmd.arg }
  .next (if cmd.by_ ≠ 0 then s else if s.recovery ∧ s.imageOk cmd.arg then s1.resetDevice else s1)

/-- PF 0 raises the fused minimum to the running version (R458). -/
def execRaiseFusedMinimum (by_ : Nat) (s : State) : Host.Outcome State Fault Refusal :=
  .next (if by_ = 0 ∧ !s.recovery then { s with fwMin := max s.fwMin s.fwVersion } else s)

/-! ### Power (R459) -/

/-- A core's frequency bounds in MHz. -/
def State.bounds (s : State) (core : Nat) : Nat × Nat := sgetD s.freqBounds core (1200, 2100)

/-- PF 0 sets the module power limit and a core's range. -/
def execPowerLimitSet (by_ watts core lo hi : Nat) (s : State) : Host.Outcome State Fault Refusal :=
  if by_ ≠ 0 ∨ s.recovery then .next s
  else
    let s1 := if watts ≤ 3300 then { s with powerLimit := watts } else s
    .next (if core < 64 ∧ 1200 ≤ lo ∧ lo ≤ hi ∧ hi ≤ 2100 then { s1 with freqBounds := sset s1.freqBounds core (lo, hi) } else s1)

/-- A core's predictor sets its frequency, within its range. -/
def execDvfsPredict (core : Nat) (s : State) : Host.Outcome State Fault Refusal :=
  let b := s.bounds core
  .next (if core < 64 then { s with freq := sset s.freq core (min b.2 (max b.1 (Config.predict s.tick core))) } else s)

/-- The module is at its limit: core frequencies fall, by amounts that the spec leaves to the device, and not below a core's range. -/
def execPowerLimitThrottle (s : State) : Host.Outcome State Fault Refusal :=
  let lower := fun (t : State) (c : Nat) =>
    let f := sgetD s.freq c 1800
    let lo := (s.bounds c).1
    { t with freq := sset t.freq c (max (min lo f) (f - Config.free s.tick (2 ^ 39 + c) % (f + 1))) }
  .next ((List.range 64).foldl lower s)

/-! ### Registers -/

/-- The debugger's write of a debug register of a group with a stopped fragment; reserved bits of it are ignored (R6, R440). -/
def State.debugWrite (s : State) (r : GRef) (n : Nat) (x : BitVec 128) : State :=
  match s.group? r with
  | none => s
  | some g =>
    if 0x20 ≤ n ∧ n ≤ 0x28 ∧ g.frags.any (fun f => f.stopped) then
      let y := debugBits n (x.setWidth 64)
      match g.srWrite n (y.setWidth 32) ((y >>> 32).setWidth 32) with
      | some g1 => s.setGroup g1
      | none => s
    else s

/-- A write of a device register that has no event of its own (R6, R447, R448, R456). A window page's value holds the device address in
[63:0], the interface in [69:64] and bit 127 set where it is mapped; a context root's its table's address in [63:0], with bit 127
set where there is one. -/
def execRegisterWrite (r : DevReg) (x : BitVec 128) (s : State) : Host.Outcome State Fault Refusal :=
  let lo := field x.toNat 0 64
  let on := x.getLsbD 127
  if s.recovery then .next s
  else
    match r with
    | .ctxRoot vif ctx =>
      let v := s.vif vif
      .next (if vif < 64 ∧ ctx < 4096 ∧ lo % 4096 = 0 ∧ lo < 2 ^ 52 then
        s.setVif vif { v with roots := if on then sset v.roots ctx lo else sdel v.roots ctx } else s)
    | .windowPage page =>
      let vif := field x.toNat 64 6
      let others := s.windowPages.filter (fun p => p.1 != page)
      .next (if !on then { s with windowPages := others }
        else if page < 244140 ∧ lo % 2 ^ 21 = 0 ∧ lo < 2 ^ 39 ∧ s.feature vif 7 ∧ !s.lostDies.contains (homeDie (lo / 32)) then
          { s with windowPages := (page, lo, vif) :: others }
        else s)
    | .ats vif => .next (if vif < 64 then s.setVif vif { s.vif vif with ats := x.getLsbD 0 } else s)
    | .debugInit vif n =>
      let v := s.vif vif
      .next (if v.debugger ∧ 0x20 ≤ n ∧ n ≤ 0x28 then s.setVif vif { v with dbg := sset v.dbg n (debugBits n (x.setWidth 64)) } else s)
    | .debugReg g n => .next (s.debugWrite g n x)
    | .ro _ => .next s

end Sys2Proof.Machine
end

