-- ==== Sys2Proof/Machine/Lanes.lean ====
section
/-! DEFINITION. Lane exchange, reductions, scans and predicates (10 R224 to R232). -/

namespace Sys2Proof.Machine

open Sys2Proof

/-- A lane of a vector operand as an exchange sees it: an absent lane supplies 0 (R227). -/
def Ctx.from_ (x : Ctx) (f : Fld) (r : VSrc) (l : Nat) : Nat := if x.g.present.getLsbD l then (x.v f r.r.val 0 l).toNat else 0

/-- The lane that a lane operand names (R224). -/
def Ctx.laneSel (x : Ctx) (l : LaneSel) : Nat :=
  match l with
  | .imm k => k.val
  | .reg s _ => (x.s .b s.val 0).toNat % 64
  | .first => lowest x.act

/-- A distance (R229). -/
def Ctx.dist (x : Ctx) (k : Dist6) : Nat :=
  match k with
  | .reg s => (x.s .b s.val 0).toNat % 64
  | .imm k => k.val

/-- The lanes of a segment (R224). -/
def segWidth : Seg → Nat
  | .w64 => 64 | .w2 => 2 | .w4 => 4 | .w8 => 8 | .w16 => 16 | .w32 => 32

/-- V2S (R228). -/
def execV2s (c : Ctl) (k : LaneSel) (d : SReg) (a : VSrc) (s : State) : Host.Outcome State Fault Refusal :=
  s.fixed (.v2s c k d a) 6 (fun x => toS false d (x.from_ .a a (x.laneSel k)))

/-- S2V (R228): one lane, where it is active. -/
def execS2v (c : Ctl) (k : LaneSel) (d : VReg) (a : SReg) (s : State) : Host.Outcome State Fault Refusal :=
  s.fixed (.s2v c k d a) 6 (fun x =>
    [.v d.val (x.act &&& oneLane (x.laneSel k)) (mkRow (fun _ => x.s .a a.val 0))])

/-- VLANE (R228). -/
def execVlane (c : Ctl) (k : LaneSel) (d : VReg) (a : VSrc) (s : State) : Host.Outcome State Fault Refusal :=
  s.fixed (.vlane c k d a) 6 (fun x => x.toV d (fun _ => x.from_ .a a (x.laneSel k)))

/-- The lane a shuffle reads (R229). -/
def Ctx.shflSrc (x : Ctx) (m : Shfl) (w l : Nat) : Nat :=
  let b0 := w * (l / w)
  match m with
  | .idx i => b0 + (x.v .b i.r.val 0 l).toNat % w
  | .by .xor k => b0 + ((l - b0) ^^^ (x.dist k % w))
  | .by .up k => if l < b0 + x.dist k then l else l - x.dist k
  | .by .down k => if b0 + w ≤ l + x.dist k then l else l + x.dist k

/-- VSHFL (R229). -/
def execVshfl (c : Ctl) (m : Shfl) (w : Seg) (d : VReg) (a : VSrc) (s : State) : Host.Outcome State Fault Refusal :=
  s.fixed (.vshfl c m w d a) 6 (fun x => x.toV d (fun l => x.from_ .a a (x.shflSrc m (segWidth w) l)))

/-- VROT (R229). -/
def execVrot (c : Ctl) (w : Seg) (d : VReg) (a : VSrc) (k : Dist6) (s : State) : Host.Outcome State Fault Refusal :=
  s.fixed (.vrot c w d a k) 6 (fun x =>
    let n := segWidth w
    x.toV d (fun l => x.from_ .a a (n * (l / n) + (l % n + x.dist k) % n)))

/-- The lanes of the active set where a predicate is true. -/
def Ctx.truth (x : Ctx) (f : Fld) (p : PReg) : Lanes := x.act &&& mkLanes (fun l => x.p f p.val l)

/-- VBALLOT (R230). -/
def execVballot (c : Ctl) (d : SReg) (p : PReg) (s : State) : Host.Outcome State Fault Refusal :=
  s.fixed (.vballot c d p) 6 (fun x => toS true d (x.truth .a p).toNat)

/-! ### Reductions and scans (R231) -/

/-- The identity of an operation (Table 10-8). -/
def redId : RedOp → Nat
  | .add => 0 | .mins => 0x7FFFFFFF | .minu => 0xFFFFFFFF | .maxs => 0x80000000 | .maxu => 0
  | .and => 0xFFFFFFFF | .or => 0 | .xor => 0 | .fadd => 0x80000000 | .fmin => 0x7FC00000 | .fmax => 0x7FC00000

/-- One combination (Table 10-8). -/
def redOp (op : RedOp) (flush : Bool) (x y : Nat) : FRes :=
  match op with
  | .add => { bits := (x + y) % 2 ^ 32 }
  | .mins => { bits := aluMin 32 false x y }
  | .minu => { bits := aluMin 32 true x y }
  | .maxs => { bits := aluMax 32 false x y }
  | .maxu => { bits := aluMax 32 true x y }
  | .and => { bits := x &&& y }
  | .or => { bits := x ||| y }
  | .xor => { bits := x ^^^ y }
  | .fadd => fp32.add .rne flush false x y
  | .fmin => { bits := (fp32.minMax flush false x y).bits }
  | .fmax => { bits := (fp32.minMax flush true x y).bits }

/-- The tree of a reduction over `2^n` values: neighbours first. The exceptions of every step are collected. -/
def redTree (op : RedOp) (flush : Bool) : Nat → List Nat → Nat × BitVec 5
  | 0, xs => (xs.headD 0, 0)
  | n + 1, xs =>
    let pairs := (List.range (xs.length / 2)).map (fun i => redOp op flush (xs.getD (2 * i) 0) (xs.getD (2 * i + 1) 0))
    let r := redTree op flush n (pairs.map (·.bits))
    (r.1, pairs.foldl (fun (e : BitVec 5) (p : FRes) => e ||| p.exc) r.2)

/-- The values of a segment (R231). -/
def Ctx.segment (x : Ctx) (op : RedOp) (a : VSrc) (w b0 : Nat) : List Nat :=
  (List.range w).map (fun i => if x.act.getLsbD (b0 + i) then (x.v .a a.r.val 0 (b0 + i)).toNat else redId op)

/-- The segments' first lanes. -/
def segStarts (w : Nat) : List Nat := (List.range (64 / w)).map (· * w)

/-- What VREDU comes to: the value of each segment and its exceptions. -/
def Ctx.redu (x : Ctx) (op : RedOp) (w : Nat) (a : VSrc) : List (Nat × BitVec 5) :=
  (segStarts w).map (fun b0 => redTree op x.l.flush (w.log2) (x.segment op a w b0))

/-- What a lane is written by a scan, its exceptions so far being those that reach it: a walk over the lanes of a segment
from `i` on. -/
def Ctx.scanFrom (x : Ctx) (op : RedOp) (excl : Bool) (a : VSrc) (top : Nat) : Nat → Nat → FRes → List FRes
  | 0, _, _ => []
  | n + 1, l, acc =>
    if !x.act.getLsbD l then { bits := 0 } :: Ctx.scanFrom x op excl a top n (l + 1) acc
    else
      let more := (List.range top).any (fun k => decide (l < k) && x.act.getLsbD k)
      let r := redOp op x.l.flush acc.bits (x.v .a a.r.val 0 l).toNat
      let next : FRes := { bits := r.bits, exc := acc.exc ||| r.exc }
      if excl then acc :: Ctx.scanFrom x op excl a top n (l + 1) (if more then next else acc)
      else next :: Ctx.scanFrom x op excl a top n (l + 1) next

/-- A scan of every segment, lane by lane. -/
def Ctx.scan (x : Ctx) (op : RedOp) (excl : Bool) (w : Nat) (a : VSrc) : List FRes :=
  (segStarts w).flatMap (fun b0 => x.scanFrom op excl a (b0 + w) w b0 { bits := redId op })

/-- A reduction's destination. -/
def Ctx.toReg (x : Ctx) (d : Reg) (f : Nat → Nat) : List Res :=
  match d with
  | .v r => x.toV r f
  | .s r => toS false r (f 0)

/-- VREDU (R231): .fadd is covered by its flag. -/
def execVredu (c : Ctl) (op : RedOp) (w : Seg) (d : Reg) (a : VSrc) (s : State) : Host.Outcome State Fault Refusal :=
  let n := segWidth w
  let at_ := fun (rs : List (Nat × BitVec 5)) (l : Nat) => rs.getD (l / n) (0, 0)
  if op = .fadd then
    s.covered (.vredu c op w d a) (fun x =>
      let rs := x.redu op n a
      let lanes := match d with
        | .v _ => x.act &&& mkLanes (fun l => (at_ rs l).2 &&& x.fpen != 0)
        | .s _ => x.act
      let exc := (lanesOf x.act).foldl (fun (e : BitVec 5) (l : Nat) => e ||| (at_ rs l).2) 0
      { res := x.toReg d (fun l => (at_ rs l).1), sticky := exc, trap := (x.fpe lanes exc).map x.late })
  else
    s.fixed (.vredu c op w d a) 6 (fun x =>
      let rs := x.redu op n a
      x.toReg d (fun l => (at_ rs l).1))

/-- VSCAN (R231). -/
def execVscan (c : Ctl) (op : RedOp) (excl : Bool) (w : Seg) (d : VReg) (a : VSrc) (s : State) : Host.Outcome State Fault Refusal :=
  if op = .fadd then
    s.covered (.vscan c op excl w d a) (fpCovered (fun x l => (x.scan op excl (segWidth w) a).getD l { bits := 0 }) (toF .f32 d))
  else
    s.fixed (.vscan c op excl w d a) 6 (fun x =>
      let rs := x.scan op excl (segWidth w) a
      x.toV d (fun l => (rs.getD l { bits := 0 }).bits))

/-! ### Predicates (R232) -/

/-- PAND (R232). -/
def execPand (c : Ctl) (ia ib : Bool) (d a b : PReg) (s : State) : Host.Outcome State Fault Refusal :=
  s.fixed (.pand c ia ib d a b) 4 (fun x => x.toP d (fun l => xor ia (x.p .a a.val l) && xor ib (x.p .b b.val l)))

/-- POR (R232). -/
def execPor (c : Ctl) (ia ib : Bool) (d a b : PReg) (s : State) : Host.Outcome State Fault Refusal :=
  s.fixed (.por c ia ib d a b) 4 (fun x => x.toP d (fun l => xor ia (x.p .a a.val l) || xor ib (x.p .b b.val l)))

/-- PXOR (R232). -/
def execPxor (c : Ctl) (ia ib : Bool) (d a b : PReg) (s : State) : Host.Outcome State Fault Refusal :=
  s.fixed (.pxor c ia ib d a b) 4 (fun x => x.toP d (fun l => xor (xor ia (x.p .a a.val l)) (xor ib (x.p .b b.val l))))

/-- PNOT (R232). -/
def execPnot (c : Ctl) (d a : PReg) (s : State) : Host.Outcome State Fault Refusal :=
  s.fixed (.pnot c d a) 4 (fun x => x.toP d (fun l => !x.p .a a.val l))

/-- PMOV (R232). -/
def execPmov (c : Ctl) (f : PmovForm) (s : State) : Host.Outcome State Fault Refusal :=
  s.fixed (.pmov c f) 4 (fun x =>
    match f with
    | .pp d a => x.toP d (fun l => x.p .a a.val l)
    | .ps d a => x.toP d (fun l => (x.s2 .a a).testBit l)
    | .sp d a => toS true d (x.truth .a a).toNat
    | .pv d a => x.toP d (fun l => x.v .a a.r.val 0 l != 0)
    | .vp d a => x.toV d (fun l => if x.p .a a.val l then 1 else 0))

/-- PCNT (R232). -/
def execPcnt (c : Ctl) (f : PcntForm) (s : State) : Host.Outcome State Fault Refusal :=
  s.fixed (.pcnt c f) 6 (fun x =>
    match f with
    | .count d a => toS false d (popCount (x.truth .a a))
    | .below d a => x.toV d (fun l => ((lanesOf (x.truth .a a)).filter (fun k => decide (k < l))).length))

end Sys2Proof.Machine
end

