-- ==== Sys2Proof/Machine/Pointers.lean ====
section
/-! DEFINITION. The pointer instructions (05 R104 to R117). -/

namespace Sys2Proof.Machine

open Sys2Proof

/-- The body of a derivation: fixed latency, or the trap of its check (R107 to R111). -/
def deriveBody (f : Ctx → Except Trap (List Res)) : Body := fun x s => (f x).map (fun rs => (s.setGroup (x.g.writes (x.lat 4) rs), .step))

/-- A pointer written to a pointer register, its valid bit computed (R100). -/
def toA (d : AReg) (p : PtrBits) : List Res := [.a d.val (pFix p)]

/-- The BOUNDS trap of an invalid source (R107, R109, R110). -/
def Ctx.invalid (x : Ctx) : Trap := x.trap .bounds x.act

/-- PMAKE (R106). -/
def execPmake (c : Ctl) (d : AReg) (a : SReg) (s : State) : Host.Outcome State Fault Refusal :=
  s.fixed (.pmake c d a) 4 (fun x =>
    let w := fun k => (x.s .a a.val k).toNat
    toA d (BitVec.ofNat 128 (w 0 + 2 ^ 32 * w 1 + 2 ^ 64 * w 2 + 2 ^ 96 * w 3)))

/-- PSUB (R107). DESIGN CHOICE: as PADV's, the address is the pseudocode's sum in all 57 bits: with off = P.length at the very end of a unit (the
2^21 bytes of a window, the 2^45 of a peer, the 2^57 of the address space) it carries, or wraps, although the text says that it never does. -/
def execPsub (c : Ctl) (d p : AReg) (v : PsubArg) (s : State) : Host.Outcome State Fault Refusal :=
  s.run (.psub c d p v) (deriveBody (fun x =>
    let ptr := x.a .a p.val
    let off := match v with | .reg o _ => x.s2 .b o | .imm o _ => o.toNat
    let len := match v with | .reg _ l => x.s2 .c l | .imm _ l => l.toNat
    if !pValid ptr then .error x.invalid
    else if pLen ptr < off + len then .error (x.trap .bounds x.act)
    else .ok (toA d (pSet (pSet ptr 0 57 (pBase ptr + off)) 64 39 len))))

/-- PADV (R107). DESIGN CHOICE: the address is the pseudocode's sum in all 57 bits, so that an advance over the whole of a unit (2^21 bytes
of scratch, 2^45 of a peer) carries into the unit's field, although the text says that it never does. -/
def execPadv (c : Ctl) (d p : AReg) (v : PadvArg) (s : State) : Host.Outcome State Fault Refusal :=
  s.run (.padv c d p v) (deriveBody (fun x =>
    let ptr := x.a .a p.val
    let n := match v with | .reg o => x.s2 .b o | .imm n => n.toNat
    if !pValid ptr then .error x.invalid
    else if pLen ptr < n then .error (x.trap .bounds x.act)
    else .ok (toA d (pSet (pSet ptr 0 57 (pBase ptr + n)) 64 39 (pLen ptr - n)))))

/-- What a form of PGET writes (R108). -/
def pgetRes (f : PgetForm) (d : SReg) (p : PtrBits) : List Res :=
  match f with
  | .quad => (List.range 4).map (fun k => .s (d.val + k) (wordAt p.toNat k))
  | .base => toS true d (pBase p)
  | .len => toS true d (pLen p)
  | .form => toS false d (pFmt p)
  | .attr => toS false d (field p.toNat 109 19 + 2 ^ 19 * field p.toNat 63 1)

/-- PGET (R108). -/
def execPget (c : Ctl) (f : PgetForm) (d : SReg) (p : AReg) (s : State) : Host.Outcome State Fault Refusal :=
  s.fixed (.pget c f d p) 4 (fun x => pgetRes f d (x.a .a p.val))

/-- PSETF (R109). -/
def execPsetf (c : Ctl) (d p : AReg) (v : PsetfArg) (s : State) : Host.Outcome State Fault Refusal :=
  s.run (.psetf c d p v) (deriveBody (fun x =>
    let ptr := x.a .a p.val
    if !pValid ptr then .error x.invalid
    else .ok (toA d (match v with
      | .code k => pSet ptr 103 6 k.toNat
      | .swz m => pSet ptr 117 3 m.toNat))))

/-- A class's code, and its place in the order synchronising, private, read-shared (R110, Table 5-1). -/
def classCode : PClass → Nat
  | .priv => 0 | .rs => 1 | .sync => 2
def classRank (k : Nat) : Nat := match k with | 2 => 0 | 0 => 1 | _ => 2

/-- PCLASS (R110). -/
def execPclass (c : Ctl) (k : PClass) (d p : AReg) (s : State) : Host.Outcome State Fault Refusal :=
  s.run (.pclass c k d p) (deriveBody (fun x =>
    let ptr := x.a .a p.val
    if !pValid ptr then .error x.invalid
    else if classRank (classCode k) < classRank (pClass ptr) then .error (x.trap .cls x.act)
    else .ok (toA d (pSet ptr 112 2 (classCode k)))))

/-- PCHK (R112). -/
def execPchk (c : Ctl) (st : Bool) (n : Cnt) (d : PReg) (p : AReg) (i : Src) (s : State) : Host.Outcome State Fault Refusal :=
  s.fixed (.pchk c st n d p i) 4 (fun x =>
    let ptr := x.a .a p.val
    let ok := pValid ptr && !pLaunchScratch ptr && unitOk x.g.core x.b ptr && (!st || pClass ptr != 1)
    x.toP d (fun l => ok && inBounds ptr (signed 32 (x.u .b i l)) n.elems))

/-! ### NARROW and WIDEN (R113 to R117) -/

/-- The codes of the scopes (Table 5-1). -/
def narrowCode : NarrowTo → Nat
  | .core => 0 | .cl => 1 | .die => 2
def widenCode : WidenTo → Nat
  | .cl => 1 | .die => 2 | .pkg => 3 | .pod => 4

/-- A core's own unit at a scope. -/
def unitAt (core scope : Nat) : Nat :=
  match scope with
  | 0 => core | 1 => clusterOf core | 2 => dieOf core | _ => 0

/-- The checks of NARROW and WIDEN (R114, R115). -/
def Ctx.scopeChecks (x : Ctx) (p : PtrBits) (tgt : Nat) (dir : Bool) : Except Trap Unit :=
  if !pValid p then .error x.invalid
  else if !(pGlobal p || pHost p) || !dir || (pHost p && decide (tgt < 3)) || !unitOk x.g.core x.b p then
    .error (x.trap .scope x.act (pUnit p))
  else .ok ()

/-- Ends a change of scope: the pointer is written at completion (R116). -/
def Ctx.rescoped (x : Ctx) (s : State) (i : Instr) (d : AReg) (p : PtrBits) (tgt : Nat) : State × Flow :=
  let q := pSet (pSet p 114 3 tgt) 120 8 (unitAt x.g.core tgt)
  (s.setGroup (x.g.begin { entry := x.entry i, frag := x.f.lanes, res := toA d q }), .step)

/-- Writes a sector's dirty bytes back and drops it, through the first n levels of a path. -/
def State.flushN : Nat → List CacheId → Nat → State → State
  | 0, _, _, s => s
  | _ + 1, [], _, s => s
  | n + 1, u :: rest, sec, s =>
    let s1 := (s.push (u :: rest) sec).revoke u sec (List.range 32) none
    State.flushN n rest sec (s1.setCache ((s1.cache u).drop sec))

/-- NARROW (R114): the lines of the range leave the inner levels of the old scope on this core's path. DESIGN CHOICE: all of the
maintenance falls in the issuing step, somewhere between the issue and the flag's clearing (R116). -/
def execNarrow (c : Ctl) (k : NarrowTo) (d p : AReg) (s : State) : Host.Outcome State Fault Refusal :=
  s.run (.narrow c k d p) (fun x s =>
    let ptr := x.a .a p.val
    let tgt := narrowCode k
    (x.scopeChecks ptr tgt (decide (tgt < pScope ptr))).bind fun _ =>
    let one := fun (t : State) (y : Nat × Bool) =>
      let path := corePath x.g.core y.1
      t.flushN (innerCount (pScope ptr) path) path y.1
    .ok (x.rescoped ((x.rangeSectors ptr true s).foldl one s) (.narrow c k d p) d ptr tgt))

/-- The cores of a unit of a scope. -/
def coresOfUnit (scope unit : Nat) : List Nat :=
  match scope with
  | 0 => [unit]
  | 1 => coresOfCluster unit
  | _ => (List.range 64).filter (fun k => dieOf k == unit)

/-- WIDEN (R115): the dirty lines of the range are written from the inner levels of the new scope, of every core of the old
unit, tgt the point of the new one. DESIGN CHOICE: all of the maintenance falls in the issuing step (R116). -/
def execWiden (c : Ctl) (k : WidenTo) (d p : AReg) (s : State) : Host.Outcome State Fault Refusal :=
  s.run (.widen c k d p) (fun x s =>
    let ptr := x.a .a p.val
    let tgt := widenCode k
    (x.scopeChecks ptr tgt (decide (pScope ptr < tgt))).bind fun _ =>
    let cores := if pScope ptr ≤ 2 then coresOfUnit (pScope ptr) (pUnit ptr) else coresOfUnit 2 (dieOf x.g.core)
    let level := fun (n : Nat) (t : State) (y : Nat × Bool) => cores.foldl (fun (u : State) (core : Nat) =>
      let path := corePath core y.1
      if n < innerCount tgt path then u.push (path.drop n) y.1 else u) t
    let secs := x.rangeSectors ptr true s
    let s1 := [0, 1, 2].foldl (fun (t : State) (n : Nat) => secs.foldl (level n) t) s
    .ok (x.rescoped s1 (.widen c k d p) d ptr tgt))

end Sys2Proof.Machine
end

