-- ==== Sys2Proof/Machine/Scalar.lean ====
section
/-! DEFINITION. The scalar instructions (10 R226, 12 R279 to R282): each acts once for the group. -/

namespace Sys2Proof.Machine

open Sys2Proof

/-- SMOV (R226). -/
def execSmov (c : Ctl) (x2 : Bool) (d a : SReg) (s : State) : Host.Outcome State Fault Refusal :=
  s.fixed (.smov c x2 d a) 4 (fun x => toS x2 d (x.su .a x2 a))

/-- SIMM (R226). -/
def execSimm (c : Ctl) (d : SReg) (v : Word) (s : State) : Host.Outcome State Fault Refusal :=
  s.fixed (.simm c d v) 4 (fun _ => toS false d v.toNat)

/-- SADD (R265, R280). -/
def execSadd (c : Ctl) (m : Sat) (w : Bool) (d a b : SReg) (s : State) : Host.Outcome State Fault Refusal :=
  s.fixed (.sadd c m w d a b) 4 (fun x => toS w d (aluAdd (bits w) m (x.su .a w a) (x.su .b w b)))

/-- SSUB (R265, R280). -/
def execSsub (c : Ctl) (m : Sat) (w : Bool) (d a b : SReg) (s : State) : Host.Outcome State Fault Refusal :=
  s.fixed (.ssub c m w d a b) 4 (fun x => toS w d (aluSub (bits w) m (x.su .a w a) (x.su .b w b)))

/-- SMUL (R266, R280). -/
def execSmul (c : Ctl) (d a b : SReg) (s : State) : Host.Outcome State Fault Refusal :=
  s.fixed (.smul c d a b) 6 (fun x => toS false d (aluMul 32 (x.su .a false a) (x.su .b false b)))

/-- SMULH (R266, R280). -/
def execSmulh (c : Ctl) (u : Bool) (d a b : SReg) (s : State) : Host.Outcome State Fault Refusal :=
  s.fixed (.smulh c u d a b) 6 (fun x => toS false d (aluMulh 32 u (x.su .a false a) (x.su .b false b)))

/-- SMAD (R266, R280). -/
def execSmad (c : Ctl) (d a b e : SReg) (s : State) : Host.Outcome State Fault Refusal :=
  s.fixed (.smad c d a b e) 6 (fun x => toS false d (aluMad 32 (x.su .a false a) (x.su .b false b) (x.su .c false e)))

/-- SAND (R267, R280). -/
def execSand (c : Ctl) (w : Bool) (d a b : SReg) (s : State) : Host.Outcome State Fault Refusal :=
  s.fixed (.sand c w d a b) 4 (fun x => toS w d (x.su .a w a &&& x.su .b w b))

/-- SOR (R267, R280). -/
def execSor (c : Ctl) (w : Bool) (d a b : SReg) (s : State) : Host.Outcome State Fault Refusal :=
  s.fixed (.sor c w d a b) 4 (fun x => toS w d (x.su .a w a ||| x.su .b w b))

/-- SXOR (R267, R280). -/
def execSxor (c : Ctl) (w : Bool) (d a b : SReg) (s : State) : Host.Outcome State Fault Refusal :=
  s.fixed (.sxor c w d a b) 4 (fun x => toS w d (x.su .a w a ^^^ x.su .b w b))

/-- SNOT (R267, R280). -/
def execSnot (c : Ctl) (w : Bool) (d a : SReg) (s : State) : Host.Outcome State Fault Refusal :=
  s.fixed (.snot c w d a) 4 (fun x => toS w d (aluNot (bits w) (x.su .a w a)))

/-- SSHL (R267, R280): the count is 32 bits at either width. -/
def execSshl (c : Ctl) (w : Bool) (d a b : SReg) (s : State) : Host.Outcome State Fault Refusal :=
  s.fixed (.sshl c w d a b) 4 (fun x => toS w d (aluShl (bits w) (x.su .a w a) (x.su .b false b)))

/-- SSHR (R267, R280). -/
def execSshr (c : Ctl) (w : Bool) (d a b : SReg) (s : State) : Host.Outcome State Fault Refusal :=
  s.fixed (.sshr c w d a b) 4 (fun x => toS w d (aluShr (bits w) (x.su .a w a) (x.su .b false b)))

/-- SSAR (R267, R280). -/
def execSsar (c : Ctl) (w : Bool) (d a b : SReg) (s : State) : Host.Outcome State Fault Refusal :=
  s.fixed (.ssar c w d a b) 4 (fun x => toS w d (aluSar (bits w) (x.su .a w a) (x.su .b false b)))

/-- SMIN (R268, R280). -/
def execSmin (c : Ctl) (u w : Bool) (d a b : SReg) (s : State) : Host.Outcome State Fault Refusal :=
  s.fixed (.smin c u w d a b) 4 (fun x => toS w d (aluMin (bits w) u (x.su .a w a) (x.su .b w b)))

/-- SMAX (R268, R280). -/
def execSmax (c : Ctl) (u w : Bool) (d a b : SReg) (s : State) : Host.Outcome State Fault Refusal :=
  s.fixed (.smax c u w d a b) 4 (fun x => toS w d (aluMax (bits w) u (x.su .a w a) (x.su .b w b)))

/-- SCMP (R281). -/
def execScmp (c : Ctl) (cc : CmpI) (u w : Bool) (d : ScmpDst) (a b : SReg) (s : State) : Host.Outcome State Fault Refusal :=
  s.fixed (.scmp c cc u w d a b) 4 (fun x =>
    let r := aluCmp (bits w) cc u (x.su .a w a) (x.su .b w b)
    match d with
    | .s d => toS false d (if r then 1 else 0)
    | .p d => x.toP d (fun _ => r))

/-- SSEL (R281). -/
def execSsel (c : Ctl) (w : Bool) (d a b e : SReg) (s : State) : Host.Outcome State Fault Refusal :=
  s.fixed (.ssel c w d a b e) 4 (fun x => toS w d (if x.su .c false e ≠ 0 then x.su .a w a else x.su .b w b))

/-- SDIVU (R282): its flag covers it. -/
def execSdivu (c : Ctl) (rem w : Bool) (d a b : SReg) (s : State) : Host.Outcome State Fault Refusal :=
  s.covered (.sdivu c rem w d a b) (fun x => { res := toS w d (aluDiv (bits w) rem (x.su .a w a) (x.su .b w b)) })

end Sys2Proof.Machine
end

