-- ==== Sys2Proof/Machine/VectorInt.lean ====
section
/-! DEFINITION. The vector moves and the vector integer instructions (10 R226, 12 R263 to R270). Every form is of fixed
latency. VMUL and VMAD may carry a residue check (R266, R283 to R285). -/

namespace Sys2Proof.Machine

open Sys2Proof

/-- VMOV (R226). -/
def execVmov (c : Ctl) (x2 : Bool) (d : VReg) (a : Src) (s : State) : Host.Outcome State Fault Refusal :=
  s.fixed (.vmov c x2 d a) 4 (fun x => if x2 then x.toV2 d (fun l => x.src2 .a a l) else x.toV d (x.u .a a))

/-- VIMM (R226). -/
def execVimm (c : Ctl) (d : VReg) (v : Word) (s : State) : Host.Outcome State Fault Refusal :=
  s.fixed (.vimm c d v) 4 (fun x => x.toV d (fun _ => v.toNat))

/-- VADD (R265). -/
def execVadd (c : Ctl) (m : Sat) (d : VReg) (a b : Src) (s : State) : Host.Outcome State Fault Refusal :=
  s.fixed (.vadd c m d a b) 4 (fun x => x.toV d (fun l => aluAdd 32 m (x.u .a a l) (x.u .b b l)))

/-- VSUB (R265). -/
def execVsub (c : Ctl) (m : Sat) (d : VReg) (a b : Src) (s : State) : Host.Outcome State Fault Refusal :=
  s.fixed (.vsub c m d a b) 4 (fun x => x.toV d (fun l => aluSub 32 m (x.u .a a l) (x.u .b b l)))

/-- VADDC (R265): the sum and the carry. -/
def execVaddc (c : Ctl) (sub : Bool) (d : VReg) (pO : PReg) (a b : Src) (pI : Option PReg) (s : State) :
    Host.Outcome State Fault Refusal :=
  s.fixed (.vaddc c sub d pO a b pI) 4 (fun x =>
    let e := fun l => aluAddc sub (x.u .a a l) (x.u .b b l) (match pI with | some p => x.p .c p.val l | none => sub)
    x.toV d e ++ x.toP pO (fun l => decide (2 ^ 32 ≤ e l)))

/-- The values that VMUL and VMAD check in a lane: the full product, and its sum with the third source (R284). -/
def intMulChecks (a b : Nat) : List Checked := [{ value := (a : Int) * b, residue := (a % 3) * (b % 3) % 3 }]
def intMadChecks (a b c : Nat) : List Checked :=
  intMulChecks a b ++ [{ value := (a : Int) * b + c, residue := ((a % 3) * (b % 3) % 3 + c % 3) % 3 }]
def vmulVals (a b : Src) : Ctx → Nat → List Checked := fun x l => intMulChecks (x.u .a a l) (x.u .b b l)
def vmadVals (a b e : Src) : Ctx → Nat → List Checked := fun x l => intMadChecks (x.u .a a l) (x.u .b b l) (x.u .c e l)

/-- VMUL (R266). -/
def execVmul (c : Ctl) (rc : Bool) (d : VReg) (a b : Src) (s : State) : Host.Outcome State Fault Refusal :=
  s.run (.vmul c rc d a b) (checkedBody (.vmul c rc d a b) (some rc) 6 (vmulVals a b)
    (fixedBody 6 (fun x => x.toV d (fun l => aluMul 32 (x.u .a a l) (x.u .b b l)))))

/-- VMULH (R266). -/
def execVmulh (c : Ctl) (u : Bool) (d : VReg) (a b : Src) (s : State) : Host.Outcome State Fault Refusal :=
  s.fixed (.vmulh c u d a b) 6 (fun x => x.toV d (fun l => aluMulh 32 u (x.u .a a l) (x.u .b b l)))

/-- VMAD (R266). -/
def execVmad (c : Ctl) (rc : Bool) (d : VReg) (a b e : Src) (s : State) : Host.Outcome State Fault Refusal :=
  s.run (.vmad c rc d a b e) (checkedBody (.vmad c rc d a b e) (some rc) 6 (vmadVals a b e)
    (fixedBody 6 (fun x => x.toV d (fun l => aluMad 32 (x.u .a a l) (x.u .b b l) (x.u .c e l)))))

/-- VAND (R267). -/
def execVand (c : Ctl) (d : VReg) (a b : Src) (s : State) : Host.Outcome State Fault Refusal :=
  s.fixed (.vand c d a b) 4 (fun x => x.toV d (fun l => x.u .a a l &&& x.u .b b l))

/-- VOR (R267). -/
def execVor (c : Ctl) (d : VReg) (a b : Src) (s : State) : Host.Outcome State Fault Refusal :=
  s.fixed (.vor c d a b) 4 (fun x => x.toV d (fun l => x.u .a a l ||| x.u .b b l))

/-- VXOR (R267). -/
def execVxor (c : Ctl) (d : VReg) (a b : Src) (s : State) : Host.Outcome State Fault Refusal :=
  s.fixed (.vxor c d a b) 4 (fun x => x.toV d (fun l => x.u .a a l ^^^ x.u .b b l))

/-- VNOT (R267). -/
def execVnot (c : Ctl) (d : VReg) (a : Src) (s : State) : Host.Outcome State Fault Refusal :=
  s.fixed (.vnot c d a) 4 (fun x => x.toV d (fun l => aluNot 32 (x.u .a a l)))

/-- VSHL (R267). -/
def execVshl (c : Ctl) (d : VReg) (a b : Src) (s : State) : Host.Outcome State Fault Refusal :=
  s.fixed (.vshl c d a b) 4 (fun x => x.toV d (fun l => aluShl 32 (x.u .a a l) (x.u .b b l)))

/-- VSHR (R267). -/
def execVshr (c : Ctl) (d : VReg) (a b : Src) (s : State) : Host.Outcome State Fault Refusal :=
  s.fixed (.vshr c d a b) 4 (fun x => x.toV d (fun l => aluShr 32 (x.u .a a l) (x.u .b b l)))

/-- VSAR (R267). -/
def execVsar (c : Ctl) (d : VReg) (a b : Src) (s : State) : Host.Outcome State Fault Refusal :=
  s.fixed (.vsar c d a b) 4 (fun x => x.toV d (fun l => aluSar 32 (x.u .a a l) (x.u .b b l)))

/-- VMIN (R268). -/
def execVmin (c : Ctl) (u : Bool) (d : VReg) (a b : Src) (s : State) : Host.Outcome State Fault Refusal :=
  s.fixed (.vmin c u d a b) 4 (fun x => x.toV d (fun l => aluMin 32 u (x.u .a a l) (x.u .b b l)))

/-- VMAX (R268). -/
def execVmax (c : Ctl) (u : Bool) (d : VReg) (a b : Src) (s : State) : Host.Outcome State Fault Refusal :=
  s.fixed (.vmax c u d a b) 4 (fun x => x.toV d (fun l => aluMax 32 u (x.u .a a l) (x.u .b b l)))

/-- VABS (R268). -/
def execVabs (c : Ctl) (sat : Bool) (d : VReg) (a : Src) (s : State) : Host.Outcome State Fault Refusal :=
  s.fixed (.vabs c sat d a) 4 (fun x => x.toV d (fun l => aluAbs sat (x.u .a a l)))

/-- VNEG (R268). -/
def execVneg (c : Ctl) (sat : Bool) (d : VReg) (a : Src) (s : State) : Host.Outcome State Fault Refusal :=
  s.fixed (.vneg c sat d a) 4 (fun x => x.toV d (fun l => aluNeg sat (x.u .a a l)))

/-- VCLZ (R268). -/
def execVclz (c : Ctl) (d : VReg) (a : Src) (s : State) : Host.Outcome State Fault Refusal :=
  s.fixed (.vclz c d a) 4 (fun x => x.toV d (fun l => aluClz (x.u .a a l)))

/-- VPOPC (R268). -/
def execVpopc (c : Ctl) (d : VReg) (a : Src) (s : State) : Host.Outcome State Fault Refusal :=
  s.fixed (.vpopc c d a) 4 (fun x => x.toV d (fun l => aluPopc (x.u .a a l)))

/-- VBFE (R269). -/
def execVbfe (c : Ctl) (sgn : Bool) (d : VReg) (a b : Src) (s : State) : Host.Outcome State Fault Refusal :=
  s.fixed (.vbfe c sgn d a b) 4 (fun x => x.toV d (fun l => aluBfe sgn (x.u .a a l) (x.u .b b l)))

/-- VBFI (R269). -/
def execVbfi (c : Ctl) (d : VReg) (a b e : Src) (s : State) : Host.Outcome State Fault Refusal :=
  s.fixed (.vbfi c d a b e) 4 (fun x => x.toV d (fun l => aluBfi (x.u .a a l) (x.u .b b l) (x.u .c e l)))

/-- VSEL (R270). -/
def execVsel (c : Ctl) (d : VReg) (a b : Src) (p : PReg) (s : State) : Host.Outcome State Fault Refusal :=
  s.fixed (.vsel c d a b p) 4 (fun x => x.toV d (fun l => if x.p .c p.val l then x.u .a a l else x.u .b b l))

/-- VCMP (R270). -/
def execVcmp (c : Ctl) (cc : CmpI) (u : Bool) (d : PReg) (a b : Src) (s : State) : Host.Outcome State Fault Refusal :=
  s.fixed (.vcmp c cc u d a b) 4 (fun x => x.toP d (fun l => aluCmp 32 cc u (x.u .a a l) (x.u .b b l)))

end Sys2Proof.Machine
end

