-- ==== Sys2Proof/Machine/Dispatch.lean ====
section
/-! DEFINITION. One arm for each constructor of Instr, each a direct call of its meaning. -/

namespace Sys2Proof.Machine

open Sys2Proof

def exec (i : Instr) (s : State) : Host.Outcome State Fault Refusal :=
  match i with
  | .nop c => Sys2Proof.Machine.execNop c s
  | .exit c => Sys2Proof.Machine.execExit c s
  | .bra c t => Sys2Proof.Machine.execBra c t s
  | .brc c inv p t => Sys2Proof.Machine.execBrc c inv p t s
  | .brx c a => Sys2Proof.Machine.execBrx c a s
  | .call c t => Sys2Proof.Machine.execCall c t s
  | .callx c a => Sys2Proof.Machine.execCallx c a s
  | .ret c => Sys2Proof.Machine.execRet c s
  | .join c op k => Sys2Proof.Machine.execJoin c op k s
  | .jwait c k => Sys2Proof.Machine.execJwait c k s
  | .reform c a mask => Sys2Proof.Machine.execReform c a mask s
  | .reorder c sgn a mask => Sys2Proof.Machine.execReorder c sgn a mask s
  | .gatherComplete g => Sys2Proof.Machine.execGatherComplete g s
  | .reformDraw b pos => Sys2Proof.Machine.execReformDraw b pos s
  | .smov c x2 d a => Sys2Proof.Machine.execSmov c x2 d a s
  | .simm c d x => Sys2Proof.Machine.execSimm c d x s
  | .sadd c m w d a b => Sys2Proof.Machine.execSadd c m w d a b s
  | .ssub c m w d a b => Sys2Proof.Machine.execSsub c m w d a b s
  | .smul c d a b => Sys2Proof.Machine.execSmul c d a b s
  | .smulh c u d a b => Sys2Proof.Machine.execSmulh c u d a b s
  | .smad c d a b e => Sys2Proof.Machine.execSmad c d a b e s
  | .sand c w d a b => Sys2Proof.Machine.execSand c w d a b s
  | .sor c w d a b => Sys2Proof.Machine.execSor c w d a b s
  | .sxor c w d a b => Sys2Proof.Machine.execSxor c w d a b s
  | .snot c w d a => Sys2Proof.Machine.execSnot c w d a s
  | .sshl c w d a b => Sys2Proof.Machine.execSshl c w d a b s
  | .sshr c w d a b => Sys2Proof.Machine.execSshr c w d a b s
  | .ssar c w d a b => Sys2Proof.Machine.execSsar c w d a b s
  | .smin c u w d a b => Sys2Proof.Machine.execSmin c u w d a b s
  | .smax c u w d a b => Sys2Proof.Machine.execSmax c u w d a b s
  | .scmp c cc u w d a b => Sys2Proof.Machine.execScmp c cc u w d a b s
  | .ssel c w d a b e => Sys2Proof.Machine.execSsel c w d a b e s
  | .sdivu c rem w d a b => Sys2Proof.Machine.execSdivu c rem w d a b s
  | .vmov c x2 d a => Sys2Proof.Machine.execVmov c x2 d a s
  | .vimm c d x => Sys2Proof.Machine.execVimm c d x s
  | .vadd c m d a b => Sys2Proof.Machine.execVadd c m d a b s
  | .vsub c m d a b => Sys2Proof.Machine.execVsub c m d a b s
  | .vaddc c sub d pO a b pI => Sys2Proof.Machine.execVaddc c sub d pO a b pI s
  | .vmul c rc d a b => Sys2Proof.Machine.execVmul c rc d a b s
  | .vmulh c u d a b => Sys2Proof.Machine.execVmulh c u d a b s
  | .vmad c rc d a b e => Sys2Proof.Machine.execVmad c rc d a b e s
  | .vand c d a b => Sys2Proof.Machine.execVand c d a b s
  | .vor c d a b => Sys2Proof.Machine.execVor c d a b s
  | .vxor c d a b => Sys2Proof.Machine.execVxor c d a b s
  | .vnot c d a => Sys2Proof.Machine.execVnot c d a s
  | .vshl c d a b => Sys2Proof.Machine.execVshl c d a b s
  | .vshr c d a b => Sys2Proof.Machine.execVshr c d a b s
  | .vsar c d a b => Sys2Proof.Machine.execVsar c d a b s
  | .vmin c u d a b => Sys2Proof.Machine.execVmin c u d a b s
  | .vmax c u d a b => Sys2Proof.Machine.execVmax c u d a b s
  | .vabs c sat d a => Sys2Proof.Machine.execVabs c sat d a s
  | .vneg c sat d a => Sys2Proof.Machine.execVneg c sat d a s
  | .vclz c d a => Sys2Proof.Machine.execVclz c d a s
  | .vpopc c d a => Sys2Proof.Machine.execVpopc c d a s
  | .vbfe c sgn d a b => Sys2Proof.Machine.execVbfe c sgn d a b s
  | .vbfi c d a b e => Sys2Proof.Machine.execVbfi c d a b e s
  | .vsel c d a b p => Sys2Proof.Machine.execVsel c d a b p s
  | .vcmp c cc u d a b => Sys2Proof.Machine.execVcmp c cc u d a b s
  | .vfadd c f rm rc d a b => Sys2Proof.Machine.execVfadd c f rm rc d a b s
  | .vfsub c f rm d a b => Sys2Proof.Machine.execVfsub c f rm d a b s
  | .vfmul c f rm rc d a b => Sys2Proof.Machine.execVfmul c f rm rc d a b s
  | .vfma c f rm nab nc rc d a b e => Sys2Proof.Machine.execVfma c f rm nab nc rc d a b e s
  | .vfmin c f d a b => Sys2Proof.Machine.execVfmin c f d a b s
  | .vfmax c f d a b => Sys2Proof.Machine.execVfmax c f d a b s
  | .vfcmp c f cc d a b => Sys2Proof.Machine.execVfcmp c f cc d a b s
  | .vrcp c rm d a => Sys2Proof.Machine.execVrcp c rm d a s
  | .vrsq c rm d a => Sys2Proof.Machine.execVrsq c rm d a s
  | .vsqrt c f rm d a => Sys2Proof.Machine.execVsqrt c f rm d a s
  | .vexp2 c d a => Sys2Proof.Machine.execVexp2 c d a s
  | .vlog2 c d a => Sys2Proof.Machine.execVlog2 c d a s
  | .vsin c d a => Sys2Proof.Machine.execVsin c d a s
  | .vcos c d a => Sys2Proof.Machine.execVcos c d a s
  | .vldexp c f rm d a b => Sys2Proof.Machine.execVldexp c f rm d a b s
  | .vcvt c dst src rm nosat d a => Sys2Proof.Machine.execVcvt c dst src rm nosat d a s
  | .vpack c f => Sys2Proof.Machine.execVpack c f s
  | .vunpk c f => Sys2Proof.Machine.execVunpk c f s
  | .vrnd c f rm d a => Sys2Proof.Machine.execVrnd c f rm d a s
  | .vclass c f d a => Sys2Proof.Machine.execVclass c f d a s
  | .v2s c l d a => Sys2Proof.Machine.execV2s c l d a s
  | .s2v c l d a => Sys2Proof.Machine.execS2v c l d a s
  | .vlane c l d a => Sys2Proof.Machine.execVlane c l d a s
  | .vshfl c x w d a => Sys2Proof.Machine.execVshfl c x w d a s
  | .vrot c w d a k => Sys2Proof.Machine.execVrot c w d a k s
  | .vballot c d p => Sys2Proof.Machine.execVballot c d p s
  | .vredu c op w d a => Sys2Proof.Machine.execVredu c op w d a s
  | .vscan c op excl w d a => Sys2Proof.Machine.execVscan c op excl w d a s
  | .pand c ia ib d a b => Sys2Proof.Machine.execPand c ia ib d a b s
  | .por c ia ib d a b => Sys2Proof.Machine.execPor c ia ib d a b s
  | .pxor c ia ib d a b => Sys2Proof.Machine.execPxor c ia ib d a b s
  | .pnot c d a => Sys2Proof.Machine.execPnot c d a s
  | .pmov c f => Sys2Proof.Machine.execPmov c f s
  | .pcnt c f => Sys2Proof.Machine.execPcnt c f s
  | .ld c n raw h d p i0 => Sys2Proof.Machine.execLd c n raw h d p i0 s
  | .st c n raw nosat h p i0 x => Sys2Proof.Machine.execSt c n raw nosat h p i0 x s
  | .atom c op d p i0 x => Sys2Proof.Machine.execAtom c op d p i0 x s
  | .atomf c op d p i0 x => Sys2Proof.Machine.execAtomf c op d p i0 x s
  | .waita c cmp d p i0 x timeout => Sys2Proof.Machine.execWaita c cmp d p i0 x timeout s
  | .waitaRetest g lane => Sys2Proof.Machine.execWaitaRetest g lane s
  | .pref c l rng p i0 => Sys2Proof.Machine.execPref c l rng p i0 s
  | .cmo c op l p => Sys2Proof.Machine.execCmo c op l p s
  | .locq c d p i0 => Sys2Proof.Machine.execLocq c d p i0 s
  | .pmake c d a => Sys2Proof.Machine.execPmake c d a s
  | .psub c d p x => Sys2Proof.Machine.execPsub c d p x s
  | .padv c d p x => Sys2Proof.Machine.execPadv c d p x s
  | .pget c f d p => Sys2Proof.Machine.execPget c f d p s
  | .psetf c d p x => Sys2Proof.Machine.execPsetf c d p x s
  | .pclass c k d p => Sys2Proof.Machine.execPclass c k d p s
  | .pchk c st0 n d p i0 => Sys2Proof.Machine.execPchk c st0 n d p i0 s
  | .narrow c x1 d p => Sys2Proof.Machine.execNarrow c x1 d p s
  | .widen c x1 d p => Sys2Proof.Machine.execWiden c x1 d p s
  | .cpyLd c x => Sys2Proof.Machine.execCpyLd c x s
  | .cpySt c x => Sys2Proof.Machine.execCpySt c x s
  | .cpyrd c op x => Sys2Proof.Machine.execCpyrd c op x s
  | .copyChunkDone id k => Sys2Proof.Machine.execCopyChunkDone id k s
  | .copyNotifyWrite id => Sys2Proof.Machine.execCopyNotifyWrite id s
  | .copyFault id k => Sys2Proof.Machine.execCopyFault id k s
  | .heldCopyApply b => Sys2Proof.Machine.execHeldCopyApply b s
  | .ctest c d p i0 m => Sys2Proof.Machine.execCtest c d p i0 m s
  | .cwait c d p i0 m timeout => Sys2Proof.Machine.execCwait c d p i0 m timeout s
  | .enq c k d q v => Sys2Proof.Machine.execEnq c k d q v s
  | .deq c k d q => Sys2Proof.Machine.execDeq c k d q s
  | .deqWake g lane => Sys2Proof.Machine.execDeqWake g lane s
  | .mloop c x => Sys2Proof.Machine.execMloop c x s
  | .mloopStep core quad => Sys2Proof.Machine.execMloopStep core quad s
  | .mloopSuspend core quad => Sys2Proof.Machine.execMloopSuspend core quad s
  | .mzero c d => Sys2Proof.Machine.execMzero c d s
  | .mload c d p i0 r => Sys2Proof.Machine.execMload c d p i0 r s
  | .quadAccessFault core quad => Sys2Proof.Machine.execQuadAccessFault core quad s
  | .mdrainReg c d a => Sys2Proof.Machine.execMdrainReg c d a s
  | .mdrainMem c slot rm nosat p a i0 r => Sys2Proof.Machine.execMdrainMem c slot rm nosat p a i0 r s
  | .mdrainAdd c a t => Sys2Proof.Machine.execMdrainAdd c a t s
  | .remoteTileAdd id => Sys2Proof.Machine.execRemoteTileAdd id s
  | .tadd c d a b x => Sys2Proof.Machine.execTadd c d a b x s
  | .tscale c d a x => Sys2Proof.Machine.execTscale c d a x s
  | .mstat c d a => Sys2Proof.Machine.execMstat c d a s
  | .aflush c f => Sys2Proof.Machine.execAflush c f s
  | .apref c f => Sys2Proof.Machine.execApref c f s
  | .astat c f => Sys2Proof.Machine.execAstat c f s
  | .adapterChunkFill g op => Sys2Proof.Machine.execAdapterChunkFill g op s
  | .adapterRowReplay g op => Sys2Proof.Machine.execAdapterRowReplay g op s
  | .mpub c d m1 => Sys2Proof.Machine.execMpub c d m1 s
  | .lineageCorrection core tag => Sys2Proof.Machine.execLineageCorrection core tag s
  | .correctionAdd id => Sys2Proof.Machine.execCorrectionAdd id s
  | .lineageSettle core tag => Sys2Proof.Machine.execLineageSettle core tag s
  | .settle c f => Sys2Proof.Machine.execSettle c f s
  | .linq c d a => Sys2Proof.Machine.execLinq c d a s
  | .coll c op ch pL aD aS n => Sys2Proof.Machine.execColl c op ch pL aD aS n s
  | .collReduce ch others => Sys2Proof.Machine.execCollReduce ch others s
  | .collAbort ch why => Sys2Proof.Machine.execCollAbort ch why s
  | .nbr c dim nw d o => Sys2Proof.Machine.execNbr c dim nw d o s
  | .rank c x d => Sys2Proof.Machine.execRank c x d s
  | .bar c => Sys2Proof.Machine.execBar c s
  | .cbar c => Sys2Proof.Machine.execCbar c s
  | .spawn c d pL r => Sys2Proof.Machine.execSpawn c d pL r s
  | .cjoin c d => Sys2Proof.Machine.execCjoin c d s
  | .cjoinRelease b => Sys2Proof.Machine.execCjoinRelease b s
  | .sleep c n => Sys2Proof.Machine.execSleep c n s
  | .sleepWake g lane => Sys2Proof.Machine.execSleepWake g lane s
  | .yield c => Sys2Proof.Machine.execYield c s
  | .trap c code => Sys2Proof.Machine.execTrap c code s
  | .eret c => Sys2Proof.Machine.execEret c s
  | .bkpt c code => Sys2Proof.Machine.execBkpt c code s
  | .sread c n d => Sys2Proof.Machine.execSread c n d s
  | .swrite c n a => Sys2Proof.Machine.execSwrite c n a s
  | .mark c code a => Sys2Proof.Machine.execMark c code a s
  | .clk c d => Sys2Proof.Machine.execClk c d s
  | .ckpt c d => Sys2Proof.Machine.execCkpt c d s
  | .flagCompletion g op => Sys2Proof.Machine.execFlagCompletion g op s
  | .takeTrap g lane => Sys2Proof.Machine.execTakeTrap g lane s
  | .instructionFetchFill die line => Sys2Proof.Machine.execInstructionFetchFill die line s
  | .l1Fill core sector => Sys2Proof.Machine.execL1Fill core sector s
  | .cacheEviction u line => Sys2Proof.Machine.execCacheEviction u line s
  | .memoryRead vif dpa grain => Sys2Proof.Machine.execMemoryRead vif dpa grain s
  | .memoryWrite vif sector => Sys2Proof.Machine.execMemoryWrite vif sector s
  | .patrolRead sector => Sys2Proof.Machine.execPatrolRead sector s
  | .refresh die chan bank => Sys2Proof.Machine.execRefresh die chan bank s
  | .remapSramRepair die chan second => Sys2Proof.Machine.execRemapSramRepair die chan second s
  | .remapTableReload die chan => Sys2Proof.Machine.execRemapTableReload die chan s
  | .emergencyRetirement die chan => Sys2Proof.Machine.execEmergencyRetirement die chan s
  | .channelRetirementSwitch die chan => Sys2Proof.Machine.execChannelRetirementSwitch die chan s
  | .keyRotationRequest vif => Sys2Proof.Machine.execKeyRotationRequest vif s
  | .keyRotationComplete vif => Sys2Proof.Machine.execKeyRotationComplete vif s
  | .translationWalk core vif ctx va kind => Sys2Proof.Machine.execTranslationWalk core vif ctx va kind s
  | .faultResponse vif tag ans => Sys2Proof.Machine.execFaultResponse vif tag ans s
  | .invalidationCommand vif ctx lo hi => Sys2Proof.Machine.execInvalidationCommand vif ctx lo hi s
  | .snoopInvalidate die sector => Sys2Proof.Machine.execSnoopInvalidate die sector s
  | .snoopFilterFree port region => Sys2Proof.Machine.execSnoopFilterFree port region s
  | .linkFailure link => Sys2Proof.Machine.execLinkFailure link s
  | .dieSplit => Sys2Proof.Machine.execDieSplit s
  | .orderedAtomicLogApply launch => Sys2Proof.Machine.execOrderedAtomicLogApply launch s
  | .peerRequest r => Sys2Proof.Machine.execPeerRequest r s
  | .peerResponse id ans => Sys2Proof.Machine.execPeerResponse id ans s
  | .peerTimeout id => Sys2Proof.Machine.execPeerTimeout id s
  | .packetDrop r => Sys2Proof.Machine.execPacketDrop r s
  | .peerCancel src id => Sys2Proof.Machine.execPeerCancel src id s
  | .denordPortFailure port => Sys2Proof.Machine.execDenordPortFailure port s
  | .membershipTableWrite vif entry w => Sys2Proof.Machine.execMembershipTableWrite vif entry w s
  | .launchDoorbell vif queue entries => Sys2Proof.Machine.execLaunchDoorbell vif queue entries s
  | .launchStart vif queue => Sys2Proof.Machine.execLaunchStart vif queue s
  | .blockPlacement b => Sys2Proof.Machine.execBlockPlacement b s
  | .launchCompletion launch => Sys2Proof.Machine.execLaunchCompletion launch s
  | .terminateLaunch launch => Sys2Proof.Machine.execTerminateLaunch launch s
  | .blockEviction b => Sys2Proof.Machine.execBlockEviction b s
  | .wakeConditionTest b => Sys2Proof.Machine.execWakeConditionTest b s
  | .blockResumption b => Sys2Proof.Machine.execBlockResumption b s
  | .interfaceWeightSet by_ vif weight => Sys2Proof.Machine.execInterfaceWeightSet by_ vif weight s
  | .watchdogLimitSet by_ vif ms => Sys2Proof.Machine.execWatchdogLimitSet by_ vif ms s
  | .watchdogExpiry vif => Sys2Proof.Machine.execWatchdogExpiry vif s
  | .breakpointStop g lane => Sys2Proof.Machine.execBreakpointStop g lane s
  | .stepStop g lane => Sys2Proof.Machine.execStepStop g lane s
  | .watchpointStop g lane => Sys2Proof.Machine.execWatchpointStop g lane s
  | .debugAttach vif => Sys2Proof.Machine.execDebugAttach vif s
  | .debugResume g => Sys2Proof.Machine.execDebugResume g s
  | .traceRecordWrite vif => Sys2Proof.Machine.execTraceRecordWrite vif s
  | .laneCycleCount launch core part => Sys2Proof.Machine.execLaneCycleCount launch core part s
  | .laneCycleRecordEnable launch bins => Sys2Proof.Machine.execLaneCycleRecordEnable launch bins s
  | .traceRingSet vif base slots kinds => Sys2Proof.Machine.execTraceRingSet vif base slots kinds s
  | .hostMemRead addr n => Sys2Proof.Machine.execHostMemRead addr n s
  | .hostMemWrite addr bytes => Sys2Proof.Machine.execHostMemWrite addr bytes s
  | .featureAcceptWrite vif x => Sys2Proof.Machine.execFeatureAcceptWrite vif x s
  | .launchQueueCreate vif queue k ctx => Sys2Proof.Machine.execLaunchQueueCreate vif queue k ctx s
  | .virtualMeshSet by_ vif x y w h => Sys2Proof.Machine.execVirtualMeshSet by_ vif x y w h s
  | .savePoolGrant by_ vif base len => Sys2Proof.Machine.execSavePoolGrant by_ vif base len s
  | .checkpointSetRegister vif desc => Sys2Proof.Machine.execCheckpointSetRegister vif desc s
  | .checkpointRequest vif => Sys2Proof.Machine.execCheckpointRequest vif s
  | .checkpointGranuleCopy vif granule => Sys2Proof.Machine.execCheckpointGranuleCopy vif granule s
  | .checkpointComplete vif => Sys2Proof.Machine.execCheckpointComplete vif s
  | .patrolPeriodSet hours => Sys2Proof.Machine.execPatrolPeriodSet hours s
  | .coldReset => Sys2Proof.Machine.execColdReset s
  | .deviceReset => Sys2Proof.Machine.execDeviceReset s
  | .interfaceReset vif => Sys2Proof.Machine.execInterfaceReset vif s
  | .firmwareImageLoad img => Sys2Proof.Machine.execFirmwareImageLoad img s
  | .raiseFusedMinimum by_ => Sys2Proof.Machine.execRaiseFusedMinimum by_ s
  | .powerLimitSet by_ watts core lo hi => Sys2Proof.Machine.execPowerLimitSet by_ watts core lo hi s
  | .dvfsPredict core => Sys2Proof.Machine.execDvfsPredict core s
  | .powerLimitThrottle => Sys2Proof.Machine.execPowerLimitThrottle s
  | .registerWrite r x => Sys2Proof.Machine.execRegisterWrite r x s
  | .hostAccessResponse id denied => Sys2Proof.Machine.execHostAccessResponse id denied s
  | .patrolRekeyPassedSector sector => Sys2Proof.Machine.execPatrolRekeyPassedSector sector s

end Sys2Proof.Machine
end

