-- ==== Sys2Proof/Machine/Due.lean ====
section
/-! DEFINITION. The events that the part's own agents owe at a moment, in no order the spec gives: the step makes one of them or
issues. What comes from outside the package, or when the device likes, stands in the agenda instead. -/

namespace Sys2Proof.Machine

open Sys2Proof

/-- The lowest lanes of a group's fragments that a test accepts. -/
def Group.fragsWhere (g : Group) (p : Frag → Bool) : List Nat := (g.frags.filter p).map (fun f => lowest f.lanes)

/-- Completions, traps, stops, wakes and tests of one resident group. -/
def State.dueGroup (s : State) (g : Group) : List Instr :=
  let trap := fun (watch : Bool) => g.fragsWhere (fun f => g.mayTake f && (match f.firstTrap with | some t => (t.cause == .watch) == watch | none => false))
  let test := fun (f : Frag) => match f.wait with
    | .test t => !f.stopped && (match s.entryCtx g f t.entry with | some x => t.due s (x.remote t.ptr) | none => false)
    | _ => false
  let deq := fun (f : Frag) => match f.wait with | .deq _ key _ _ order _ _ => (s.deqReady g key order).isSome | _ => false
  let sleep := fun (f : Frag) => match f.wait with | .sleep t => decide (t ≤ s.time) | _ => false
  (g.pend.filter (fun p => p.tags.isEmpty && (s.flushed g p).isSome)).map (fun p => Instr.flagCompletion g.ref p.entry.seq) ++
  (trap false).map (fun l => Instr.takeTrap g.ref l) ++ (trap true).map (fun l => Instr.watchpointStop g.ref l) ++
  (if s.reformReady g ∨ s.reorderReady g.ref.b g.core then [.gatherComplete g.ref] else []) ++
  (g.fragsWhere test).map (fun l => Instr.waitaRetest g.ref l) ++ (g.fragsWhere deq).map (fun l => Instr.deqWake g.ref l) ++
  (g.fragsWhere sleep).map (fun l => Instr.sleepWake g.ref l) ++
  (g.fragsWhere (fun f => (s.bpDue g f).isSome && s.quiet g)).map (fun l => Instr.breakpointStop g.ref l) ++
  (g.fragsWhere (fun f => f.stepDue s g)).map (fun l => Instr.stepStop g.ref l) ++
  (g.pend.filterMap (fun p => match p.doing with
    | .response id => (match s.request? id with
      | some r => r.answer.map (fun a => Instr.peerResponse id a)
      | none => none)
    | _ => none))

/-- What the engines owe a copy. -/
def State.dueCopy (s : State) (c : Copy) : List Instr :=
  let chunk := fun (k : Nat) =>
    if !c.idle k then []
    else if c.moved.contains k then (if c.ordered s ∨ s.unstarted c.bitmapAt.b then [] else [Instr.copyChunkDone c.id k])
    else if c.op.stores ∧ s.unstarted c.tileAt.b then []
    else if c.remote s then [Instr.copyChunkDone c.id k]
    else
      match (c.locate s true (c.inRange k)).1.2 with
      | .faults _ => [Instr.copyFault c.id k]
      | _ => [Instr.copyChunkDone c.id k]
  (List.range c.chunks).flatMap chunk ++
  (match c.notify with
    | some n => if c.done.length = c.chunks ∧ !c.ordered s ∧ !s.unstarted n.at_.b then [Instr.copyNotifyWrite c.id] else []
    | none => []) ++
  (if !c.held.isEmpty ∧ !s.unstarted c.tileAt.b then [Instr.heldCopyApply c.tileAt.b] else [])

/-- What a quad owes. -/
def State.dueQuad (s : State) (q : Quad) : List Instr :=
  (if (s.mloopWork q.core q.quad).isSome then [Instr.mloopStep q.core q.quad] else []) ++
  (if (s.loopStop q.core q.quad).isSome then [Instr.mloopSuspend q.core q.quad] else []) ++
  (if (s.quadStop q.core q.quad).isSome ∨ (s.placed q.core q.quad).isSome then [Instr.quadAccessFault q.core q.quad] else []) ++
  q.queue.flatMap (fun (o : TileOp) =>
    match o.mjob, s.opCtx o with
    | some j, some x =>
      let gang : GangRef := ⟨o.g.b, o.gang⟩
      (if (s.fillNext x o j).isSome then [Instr.adapterChunkFill gang o.id] else []) ++
      (match o.nextRow j with
        | some r => (match s.replayRow x o j r with | .ok _ => [Instr.adapterRowReplay gang o.id] | .error _ => [])
        | none => [])
    | _, _ => [])

/-- A tile add can land, or be refused. -/
def State.lands (s : State) (a : TileAdd) : Bool := !a.out && (a.rank.isSome || match s.landAdd a with | .waits => false | _ => true)

/-- What lineages and tile adds owe. -/
def State.dueTiles (s : State) : List Instr :=
  s.lineages.flatMap (fun (l : Lineage) =>
    (if l.settled then [Instr.lineageSettle l.core l.tag] else [Instr.lineageCorrection l.core l.tag]) ++
    (l.spurs.filterMap (fun p => match p.op with
      | .remote a => if (s.secondDue a.id).isSome then some (Instr.correctionAdd a.id) else none
      | _ => none))) ++
  (s.tileAdds.filter s.lands).map (fun a => match a.kind with | .second _ => Instr.correctionAdd a.id | _ => Instr.remoteTileAdd a.id)

/-- What the command processor owes a block. -/
def State.dueBlock (s : State) (b : Block) : List Instr :=
  match b.place with
  | .resident =>
    (if s.evictable b then [Instr.blockEviction b.ref] else []) ++ (if s.cjoinReady b then [Instr.cjoinRelease b.ref] else []) ++
    ((List.range b.cores.length).filter (fun p => (s.drawBin b (b.cores.getD p 64)).isSome && (s.drawSlot b.ref (b.cores.getD p 64)).isSome)).map
      (fun p => Instr.reformDraw b.ref p)
  | .evicted false => [.wakeConditionTest b.ref]
  | _ => []

/-- What the command processor owes a launch. -/
def State.dueLaunch (s : State) (l : Launch) : List Instr :=
  (if s.logDue l then [Instr.orderedAtomicLogApply l.id] else []) ++ (if s.completes l then [Instr.launchCompletion l.id] else [])

/-- The idle clocks that a lane-cycle record may count. -/
def State.dueIdle (s : State) : List Instr :=
  ((s.groups.map (fun (g : Group) => (g.core, g.part))).eraseDups).filterMap (fun (p : Nat × Nat) =>
    match s.counted p.1 p.2 with
    | some g => (match s.launch? g.ref.b.launch with
      | some l => if l.laneRec.isSome then some (Instr.laneCycleCount l.id p.1 p.2) else none
      | none => none)
    | none => none)

/-- What is owed to an interface. -/
def State.dueVif (s : State) (i : Nat) (v : Vif) : List Instr :=
  (v.queues.filter (fun q => q.running.isNone && !q.entries.isEmpty)).map (fun q => Instr.launchStart i q.q) ++
  (if v.wdExpired s.time then [Instr.watchdogExpiry i] else []) ++ (if v.trace.isEmpty then [] else [Instr.traceRecordWrite i]) ++
  (if v.hasPrev ∧ !s.carriesOld i then [Instr.keyRotationComplete i] else []) ++
  (match v.ckpt with
    | some c =>
      (match c.cut with
        | some k => if k.todo.isEmpty ∧ k.out.isEmpty then [Instr.checkpointComplete i] else k.todo.map (fun g => Instr.checkpointGranuleCopy i g)
        | none => []) ++ c.passed.map Instr.patrolRekeyPassedSector
    | none => [])

/-- What the fabric owes: timeouts, and the instances of teams of one (R355, R363, R364). -/
def State.dueFabric (s : State) : List Instr :=
  (s.requests.filter (fun r => !r.host && r.answer.isNone && decide (10000000 ≤ s.time - r.at_))).map (fun r => Instr.peerTimeout r.id) ++
  s.colls.flatMap (fun (c : CollReq) =>
    (if 100000000 ≤ s.time - c.at_ then [Instr.collAbort c.ch .time] else []) ++
    (match s.launch? c.g.b.launch with | some l => if l.team = 1 then [Instr.collReduce c.ch []] else [] | none => []))

/-- What comes before any other move: a split of the ring takes its effect (R140), a channel whose tables have failed reloads them (R93), and a
cache's set or a snoop filter that holds more than it can makes room (R126, R136, R143), and a block that must make room for one that waits
is evicted (R405, R430). -/
def State.pressing (s : State) : Option Instr :=
  if !s.cutOff.all s.lostDies.contains then some .dieSplit
  else
    match s.tablesLost, s.overfull, s.overfiltered with
    | some (die, c), _, _ => some (.remapTableReload die c)
    | none, some (u, line), _ => some (.cacheEviction u line)
    | none, none, some (p, r) => some (.snoopFilterFree p r)
    | none, none, none => s.mustEvict.map .blockEviction

/-- One SRAM copy of a channel's tables has failed: it is repaired from its twin (R93). -/
def Chan.repair (x : Chan) : Option Bool :=
  match x.copyA, x.copyB with
  | some _, none => some true
  | none, some _ => some false
  | _, _ => none

/-- The due events. -/
def State.due (s : State) : List Instr :=
  s.groups.flatMap s.dueGroup ++ s.copies.flatMap s.dueCopy ++ s.quads.flatMap s.dueQuad ++ s.dueTiles ++ s.blocks.flatMap s.dueBlock ++
  s.launches.flatMap s.dueLaunch ++ s.vifs.flatMap (fun x => s.dueVif x.1 x.2) ++ s.dueFabric ++ s.dueIdle ++
  (match s.turn with
    | some (b, _, _) => [if (s.block? b).isSome then Instr.blockResumption b else Instr.blockPlacement b]
    | none => []) ++
  ((s.mshrs.map (·.core)).eraseDups).flatMap (fun c => (s.missesOf c).flatMap (fun m => (if s.missBare m then [2 * m.line] else m.secs).map (Instr.l1Fill c))) ++
  s.snoopHeads.map (fun x => Instr.snoopInvalidate x.die x.sector) ++
  s.chans.flatMap (fun x => (x.2.postponed.filter (fun b => decide (8 ≤ b.2))).map (fun b => Instr.refresh (x.1 / 64) (x.1 % 64) b.1)) ++
  (s.invals.filter (fun c => !s.usesOld c.1 c.2.1 c.2.2.1 c.2.2.2)).map (fun c => Instr.invalidationCommand c.1 c.2.1 c.2.2.1 c.2.2.2) ++
  s.chans.filterMap (fun x => x.2.repair.map (Instr.remapSramRepair (x.1 / 64) (x.1 % 64)))

end Sys2Proof.Machine
end

