-- ==== Sys2Proof/Machine/Step.lean ====
section
/-! DEFINITION. One step of the machine: the next move of the agenda, or one of the moves that are open: an event that is
due, or the issue of a partition. -/

namespace Sys2Proof.Machine

open Sys2Proof

/-- The start of a step: its number, the time it takes (R433), the watchdogs (R431), what has become a blocking point (R334), and
the tests at the writes of the last step (R404). -/
def State.begin (s : State) : State :=
  ({ s with tick := s.tick + 1, time := s.time + Config.elapse s.tick, cur := none } : State).watchdogs.closeLong.wakeWritten

/-- The partitions that hold an eligible group (R396). -/
def State.partitions (s : State) : List (Nat × Nat) :=
  ((s.groups.map (fun (g : Group) => (g.core, g.part))).eraseDups).filter (fun p => !(s.eligibleGroups p.1 p.2).isEmpty)

/-- The moves open to the machine. -/
def State.moves (s : State) : List Move := s.due.map Move.event ++ s.partitions.map (fun p => Move.issue p.1 p.2)

/-- Makes a move. An instruction word executes only where a fragment issues it. -/
def State.take (s : State) : Move → Host.Outcome State Fault Refusal
  | .event i => if i.ctl.isSome then .next s else exec i s
  | .issue core part =>
    match s.issue core part with
    | none => .next s
    | some (.done t) => .next { t with cur := none }
    | some (.run i t) => exec i t
  | .harm h => .next (s.harmed h)

/-- One step. Where nothing is open the machine waits. -/
def step (s : State) : Host.Outcome State Fault Refusal :=
  let s1 := s.begin
  match s1.pressing with
  | some i => exec i s1
  | none =>
  match s1.agenda with
  | m :: rest => State.take { s1 with agenda := rest } m
  | [] =>
    match s1.moves with
    | [] => .next s1
    | [m] => s1.take m
    | m :: ms => s1.take ((m :: ms).getD (Config.pick s1.tick % (ms.length + 1)) m)

/-- The launch that `withFetchWord` places: a version-3 kernel of the largest allocation. -/
def fetchLaunch : Launch :=
  { id := 1, vif := 0, ctx := 0
    hdr := { version := 3, vgran := 48, tiles := 16, scratch := 1024, fmtmask := 255, adir := true, tdims := 4, codelen := 512, entry := 64 }
    image := pFix (BitVec.ofNat 128 (3 * 2 ^ 114 + 576 * 2 ^ 64)), slots := List.replicate 8 { fmt := 0x08, scale := 0, sptr := 0 }
    extents := [1, 1, 1, 1], placed := 1 }

/-- The group that `withFetchWord` places: 64 threads inside the kernel's first clause, at the word at offset 72. -/
def fetchGroup : Group :=
  { ref := ⟨⟨1, 0⟩, 0⟩, core := 0, part := 0, threads := (List.range 64).map some
    frags := [{ lanes := allLanes, pc := 72, clause := some { head := 64, stop := 576, flagA := some 0, flagB := some 1, yld := false } }] }

/-- The state with an instruction's words where the next step fetches: the bits of w, the bits above nbits zero, in the
first line of the image of a launch on core 0, whose interface has accepted every feature (a launch needs an accepted interface,
R450), and the partition's issue as the next move. -/
def State.withFetchWord (s : State) (nbits w : Nat) : State :=
  let line : ILine := { core := 0, vif := 0, ctx := 0, line := 0, bytes := List.replicate 72 0 ++ leBytes 56 (w % 2 ^ nbits) }
  { ((((s.setVif 0 { s.vif 0 with accept := some 8191 }).setLaunch fetchLaunch).setBlock { ref := ⟨1, 0⟩, cores := [0] }).setGroup fetchGroup) with
    ilines := line :: s.ilines.filter (fun x => !(x.core == 0 && x.vif == 0 && x.ctx == 0 && x.line == 0))
    agenda := [.issue 0 0], cur := none }

end Sys2Proof.Machine
end

