-- ==== Sys2Proof/Safety.lean ====
section
/-! DEFINITION. What a safe run is, the invariants that statements use, and the words in which statements say what an
instruction does: that it issues, and what it has left as it was. -/

namespace Sys2Proof

open Sys2Proof.Machine

/-- The memories keep their one form. -/
def MemOk (s : State) : Prop := Memory.wf s.hbm = true ∧ Memory.wf s.host = true

/-- A state from which no run stops: every step answers a next state. -/
def Safe (s : State) : Prop := ∀ k, ∃ t, Host.Core.run core k s = .next t

/-! ### An instruction word that issues -/

/-- An instruction word issues: the step has chosen a fragment, which waits for nothing, and `x` is what the instruction
executes in; its decode checks pass, nothing keeps it back, and a predicate block that covers it leaves it a lane (Table 3-7,
R53, R62, R368, R415), and no check of an earlier instruction of its fragment has failed, whose trap would come first (R285, R416). -/
structure Issues (s : State) (i : Instr) (x : Ctx) : Prop where
  ctx : ∃ y, s.ctx? = some y ∧ x = y.atIssue i
  awake : x.f.wait = .no
  go : x.gate s i = .go
  sound : x.softAhead = false

/-- A group's state beside its registers, its fragments and its work in progress. -/
def SameSpecial (g h : Group) : Prop :=
  h.core = g.core ∧ h.part = g.part ∧ h.threads = g.threads ∧ h.exited = g.exited ∧ h.j = g.j ∧ h.fpstat = g.fpstat ∧
  h.adk = g.adk ∧ h.adn = g.adn ∧ h.thand = g.thand ∧ h.tfp = g.tfp ∧ h.dctl = g.dctl ∧ h.bpc = g.bpc ∧ h.wadr = g.wadr ∧
  h.wctl = g.wctl

/-- A group's registers are those of another: vector, uniform, pointer and predicate registers. -/
def SameRegs (g h : Group) : Prop := h.v = g.v ∧ h.s = g.s ∧ h.a = g.a ∧ h.p = g.p

/-- The fragment of x stands at the word after its instruction, with its lanes, and waits for nothing. -/
def MovedOn (x : Ctx) (g : Group) : Prop :=
  ∃ f, g.frag? x.c.f = some f ∧ f.lanes = x.f.lanes ∧ f.wait = .no ∧ f.pc = if x.c.inj.isSome then x.f.pc else x.c.npc

/-- A launch without its lane-cycle record. -/
def bareLaunch (l : Launch) : Launch := { l with laneRec := none }

/-- Nothing outside a group has changed but the lane-cycle record of a launch: every byte of memory, every cache, every
block's window and tiles, every other group, every interface is as it was. -/
def Outside (s t : State) (r : GRef) : Prop :=
  t = { s with groups := t.groups, launches := t.launches, cur := none } ∧
  (∀ q, q ≠ r → t.group? q = s.group? q) ∧
  ∀ k, (t.launch? k).map bareLaunch = (s.launch? k).map bareLaunch

/-- An instruction of x is done in t, its own change of the group's special registers and flags being that from `x.g` to
`g0`: the named results are in its group's registers, and nothing else has changed (R58, R217). -/
def DoneFrom (s : State) (x : Ctx) (t : State) (g0 : Group) (ws : List Res) : Prop :=
  Outside s t x.c.g ∧ ∃ g, t.group? x.c.g = some g ∧ MovedOn x g ∧ SameRegs (ws.foldl Group.put g0) g ∧ SameSpecial g0 g ∧
    g.flags = g0.flags

/-- A fixed-latency instruction of x is done in t: the named results are in its group's registers, and nothing else has
changed. -/
def Done (s : State) (x : Ctx) (t : State) (ws : List Res) : Prop := DoneFrom s x t x.g ws

/-- A flag-covered instruction of x is under way in t: its operation counts in its flag and will bring the named results,
sticky exceptions and trap; no register has changed (R53, R222). -/
def Started (s : State) (i : Instr) (x : Ctx) (t : State) (ws : List Res) (sticky : BitVec 5) (trap : Option Trap) : Prop :=
  Outside s t x.c.g ∧ ∃ g p, t.group? x.c.g = some g ∧ MovedOn x g ∧ SameRegs x.g g ∧ SameSpecial x.g g ∧
    g.flags = (x.g.countIn (x.flag i)).flags ∧ g.pend = x.g.pend ++ [p] ∧
    p.res = ws ∧ p.sticky = sticky ∧ p.trap = trap ∧ p.doing = .ready ∧ p.entry = x.entry i

/-- A fixed-latency instruction: wherever it issues, the machine goes on with it done, its results those of `f`. -/
def Yields (i : Instr) (f : Ctx → List Res) : Prop :=
  ∀ s x, Issues s i x → ∃ t, exec i s = .next t ∧ Done s x t (f x)

/-- What each lane of a floating instruction comes to. -/
abbrev LaneOps := Ctx → Nat → FRes

/-- The number that a lane comes to. -/
def laneBits (x : Ctx) (f : LaneOps) (l : Nat) : Nat := (f x l).bits

/-- A residue check that fails (R285): the instruction is under way in t with the SOFTERR trap that it will end in, for the lanes
struck, and no result; `q` is what the check came to and the state after it. -/
def SoftError (i : Instr) (s : State) (x : Ctx) (q : Lanes × State) : Prop :=
  q.1 ≠ 0 → ∃ t u, exec i s = .next t ∧ u.cause = .softerr ∧ u.lanes = q.1 ∧ u.prec = false ∧ Started q.2 i x t [] 0 (some u)

/-- What a lane's residue check compares (R284): each value with its residue. -/
abbrev LaneChecks := Ctx → Nat → List Checked

/-- A fixed-latency instruction that may be checked (R283, R285), `vals` being the values that are compared: where its check passes it
is done, with the results of `f`; where it fails it will end in SOFTERR. -/
def CheckedYields (i : Instr) (rc : Bool) (vals : LaneChecks) (f : Ctx → List Res) : Prop :=
  ∀ s x, Issues s i x →
    let q := x.check (some rc) (vals x) s
    (q.1 = 0 → ∃ t, exec i s = .next t ∧ Done q.2 x t (f x)) ∧ SoftError i s x q

/-- A fixed-latency floating instruction (R258, R262, R285): where it issues, its residue check passes if it has one, and no lane
raises an enabled exception, it is done, with the raised exceptions set in sr.fpstat; where a lane raises one, it traps FPE at
issue and writes nothing; where its check fails, it will end in SOFTERR. -/
def FloatYields (i : Instr) (rc : Option Bool) (f : LaneOps) (w : Ctx → (Nat → Nat) → List Res)
    (vals : LaneChecks := fun _ _ => []) : Prop :=
  ∀ s x, Issues s i x →
    let e := excAll (x.perRow (f x))
    let q := x.check rc (vals x) s
    (q.1 = 0 → e &&& x.fpen = 0 → ∃ t, exec i s = .next t ∧
      ∃ r, (∀ l, x.act.getLsbD l = true → r l = laneBits x f l) ∧ DoneFrom q.2 x t (x.g.stick e) (w x r)) ∧
    (q.1 = 0 → e &&& x.fpen ≠ 0 → ∃ u, u.cause = .fpe ∧ u.fpx = e ∧ u.lanes = excLanes x.fpen (x.perRow (f x)) ∧
      exec i s = .next (x.fail s u)) ∧ SoftError i s x q

/-- A flag-covered floating instruction (R258, R262, R285): where it issues it is under way, with its results and exceptions, or,
where its residue check fails or a lane raises an enabled exception, with the SOFTERR or the FPE trap that it will end in and no
result. -/
def FloatBegins (i : Instr) (rc : Option Bool) (f : LaneOps) (w : Ctx → (Nat → Nat) → List Res)
    (vals : LaneChecks := fun _ _ => []) : Prop :=
  ∀ s x, Issues s i x →
    let e := excAll (x.perRow (f x))
    let q := x.check rc (vals x) s
    (q.1 = 0 → e &&& x.fpen = 0 → ∃ t, exec i s = .next t ∧
      ∃ r, (∀ l, x.act.getLsbD l = true → r l = laneBits x f l) ∧ Started q.2 i x t (w x r) e none) ∧
    (q.1 = 0 → e &&& x.fpen ≠ 0 → ∃ t u, exec i s = .next t ∧ u.cause = .fpe ∧ u.fpx = e ∧
      u.lanes = excLanes x.fpen (x.perRow (f x)) ∧ Started q.2 i x t [] 0 (some u)) ∧ SoftError i s x q

/-- A flag-covered instruction on registers: wherever it issues, the machine goes on with it under way, its results and
sticky exceptions those of `f`. -/
def Begins (i : Instr) (f : Ctx → List Res × BitVec 5) : Prop :=
  ∀ s x, Issues s i x → ∃ t, exec i s = .next t ∧ Started s i x t (f x).1 (f x).2 none

/-- The lanes of x's fragment stand each at its own pc and wait for nothing. -/
def LanesAt (x : Ctx) (g : Group) (pc : Nat → Nat) : Prop :=
  ∀ l, l < 64 → x.f.lanes.getLsbD l = true → ∃ f, g.frag? l = some f ∧ f.wait = .no ∧ f.pc = pc l

/-- The group's fragments share no lane with x's, which holds its active set, and x's instruction is no entry that runs again. -/
def Apart (x : Ctx) : Prop :=
  (∀ f ∈ x.g.frags, f = x.f ∨ f.lanes &&& x.f.lanes = 0) ∧ x.act &&& ~~~x.f.lanes = 0 ∧ x.c.inj = none

/-- The check of branch targets (R65): the targets that fail, those whose words cannot be fetched, and the state after it, in
which caches may hold those words. -/
def targetCheck (s : State) (x : Ctx) (take : Lanes) (to_ : Nat → Nat) : (List Nat × List (Nat × Fetched)) × State :=
  (s.setGroup x.g).targets x.g.core x.l (((lanesOf take).map to_).eraseDups)

/-- A branch of some lanes (R65, R66, R366, R371): where every target passes its check, those lanes stand at their targets, the
rest of the fragment at the next word, and registers take the named results and nothing else; where a target fails, the
instruction traps BADTGT, with the failing lanes and the target of the lowest, and nothing moves; where the word of a target cannot be
read, those lanes trap ACCESS or MEMERR; and where pages are missing, the fragment sleeps on the faults of the lanes whose targets lie in
them, with nothing moved. -/
def Branches (i : Instr) (take : Ctx → Lanes) (to_ : Ctx → Nat → Nat) (ws : Ctx → List Res) : Prop :=
  ∀ s x, Issues s i x → Apart x →
    let q := targetCheck s x (take x) (to_ x)
    let bad := mkLanes (fun l => (take x).getLsbD l && q.1.1.contains (to_ x l))
    let ends := fun (p : Fetched → Bool) => targetLanes (take x) (to_ x) q.1.2 p
    let missing := ∃ y ∈ q.1.2, ∃ va c, y.2 = .fault va c
    (bad = 0 → q.1.2 = [] → ∃ t g, exec i s = .next t ∧ Outside q.2 t x.c.g ∧ t.group? x.c.g = some g ∧
      LanesAt x g (fun l => if (take x).getLsbD l then to_ x l else x.c.npc) ∧
      SameRegs ((ws x).foldl Group.put x.g) g ∧ SameSpecial x.g g ∧ g.flags = x.g.flags) ∧
    (bad ≠ 0 → ∃ u, u.cause = .badtgt ∧ u.lanes = bad ∧ u.info = BitVec.ofNat 64 (to_ x (lowest bad)) ∧
      exec i s = .next (x.fail s u)) ∧
    (bad = 0 → ¬missing → ends Fetched.isRefused ≠ 0 → ∃ u, u.cause = .access ∧ u.lanes = ends Fetched.isRefused ∧
      u.info = BitVec.ofNat 64 (pBase x.l.image + to_ x (lowest (ends Fetched.isRefused))) ∧ exec i s = .next (x.fail s u)) ∧
    (bad = 0 → ¬missing → ends Fetched.isRefused = 0 → ends Fetched.isPoison ≠ 0 → ∃ u, u.cause = .memerr ∧
      u.lanes = ends Fetched.isPoison ∧ exec i s = .next (x.fail s u)) ∧
    (bad = 0 → missing → ∃ t g f tags, exec i s = .next t ∧ t.group? x.c.g = some g ∧ g.frag? x.c.f = some f ∧
      f.lanes = x.f.lanes ∧ f.pc = x.f.pc ∧ f.clause = x.f.clause ∧ f.pfx = x.f.pfx ∧
      f.wait = .fault tags 0 false ((q.1.2.findSome? (fun y => match y.2 with | .fault va _ => some va | _ => none)).getD 0) none ∧
      tags ≠ [] ∧ tags.foldl (fun (m : Lanes) y => m ||| y.2) 0 = ends (fun y => match y with | .fault .. => true | _ => false) ∧
      SameRegs x.g g)

/-! ### Traps -/

/-- A trap of the fragment that holds a lane finds a handler (R415 to R419): no debugger is attached, no fragment of the group is
in handler mode, and the handler offset passes R65 once the frame is written. -/
def Handled (s : State) (r : GRef) (lane : Nat) (u : Trap) (later : List Entry := []) : Prop :=
  ∃ g f l, s.group? r = some g ∧ g.frag? lane = some f ∧ s.launch? r.b.launch = some l ∧ (s.vif l.vif).debugger = false ∧
    g.frags.all (fun f => !f.handler) = true ∧ g.thand ≠ 0 ∧
    (((s.makeFrame g (f.stands u) { u with after := false } later).1.trapTrace g f { u with after := false } 3).target g.core l g.thand.toNat).1 = .good

/-- In t the fragment that held a lane in s has entered its handler (R415, R421): it has its lanes, stands at the handler offset
outside any clause and prefix, in handler mode, its frame holds the trap and the word that the trap is reported at (R67), with the clause
and the prefix that govern it; the registers stand and the latches are empty. -/
def EntersHandler (s t : State) (r : GRef) (lane : Nat) (u : Trap) : Prop :=
  ∃ g f h e fr, s.group? r = some g ∧ g.frag? lane = some f ∧ t.group? r = some h ∧ h.frag? lane = some e ∧
    e.lanes = f.lanes ∧ e.pc = g.thand.toNat ∧ e.handler = true ∧ e.wait = .no ∧ e.clause = none ∧ e.pfx = none ∧
    e.frame = some fr ∧ fr.trap.cause = u.cause ∧ fr.trap.lanes = u.lanes ∧ fr.trap.info = u.info ∧ fr.trap.tpc = u.tpc ∧
    fr.pc = (f.stands u).pc ∧ fr.frag = f.lanes ∧ fr.pfx = (f.stands u).pfx ∧ fr.clause = (f.stands u).clause ∧ fr.time = s.time ∧
    SameRegs g h ∧ h.latch = []

/-- In t the fragment that held a lane in s is stopped for the debugger (R441): its lanes and registers stand, and its frame
holds the trap and where it stood, or the word that the trap is reported at. -/
def StopsFor (s t : State) (r : GRef) (lane : Nat) (cause : Cause) (at_ : Option FragAt := none) : Prop :=
  ∃ g f h e fr, s.group? r = some g ∧ g.frag? lane = some f ∧ t.group? r = some h ∧ h.frag? lane = some e ∧
    e.lanes = f.lanes ∧ e.stopped = true ∧ e.frame = some fr ∧ fr.trap.cause = cause ∧
    fr.pc = (match at_ with | some z => z.pc | none => f.pc) ∧ SameRegs g h

/-- A debugger is attached to the interface of a group's launch. -/
def Debugged (s : State) (r : GRef) : Prop := ∃ l, s.launch? r.b.launch = some l ∧ (s.vif l.vif).debugger = true

/-! ### Accesses to memory -/

/-- A trap at issue (R414): nothing of the instruction's own effect happens, and its trap is taken with the cause, the lanes, the
information and the PC of the instruction; where an earlier instruction of its fragment will end in a trap, that one comes first (R416). -/
def TrapsAtIssue (i : Instr) (s : State) (x : Ctx) (c : Cause) (lanes : Lanes) (info : Nat) : Prop :=
  ∃ u, u.cause = c ∧ u.lanes = lanes ∧ u.info = BitVec.ofNat 64 info ∧ u.tpc = x.c.pc ∧ u.prec = true ∧
    exec i s = .next (x.fail s u)

/-- An instruction of x is under way in t, everything outside its group being as in u: its operation counts in its flag, and no
register has changed (R53, R222). -/
def Underway (u : State) (i : Instr) (x : Ctx) (t : State) (P : Pend → Prop) : Prop :=
  Outside u t x.c.g ∧ ∃ g p, t.group? x.c.g = some g ∧ MovedOn x g ∧ SameRegs x.g g ∧ SameSpecial x.g g ∧
    g.flags = (x.g.countIn (x.flag i)).flags ∧ g.pend = x.g.pend ++ [p] ∧ p.entry = x.entry i ∧ p.frag = x.f.lanes ∧ P p

/-- A fragment sleeps at the next word with its lanes; registers stand. -/
def Sleeps (x : Ctx) (t : State) (w : Wait) : Prop :=
  ∃ g f, t.group? x.c.g = some g ∧ g.frag? x.c.f = some f ∧ f.lanes = x.f.lanes ∧ f.pc = x.c.npc ∧ f.wait = w ∧ SameRegs x.g g

/-- Where the bytes of the elements lie. -/
def foundAt (fs : List (Elem × Found)) : List (Elem × List Loc) :=
  fs.filterMap (fun e => match e.2 with | .at_ ls => some (e.1, ls) | _ => none)

/-- Every byte of every element has been found. -/
def AllFound (fs : List (Elem × Found)) : Prop := ∀ e ∈ fs, ∃ ls, e.2 = .at_ ls

/-- The checks of a memory instruction (Table 5-4, R101, R102, R156): the first that fails traps. -/
def Checked (i : Instr) (ptr : Ctx → PtrBits) (accepts : Ctx → Bool) (writes : Bool) (ix : Idx) (n : Nat) : Prop :=
  ∀ s x, Issues s i x →
    let p := ptr x
    let k := fun l => x.idx ix l
    let eb := ebits (pFmt p)
    let peerOk := pPeer p = false ∨ (s.feature x.l.vif 6 = true ∧ pBase p / 2 ^ 45 < x.l.team)
    let out := mkLanes (fun l => x.act.getLsbD l && !inBounds p (k l) n)
    let odd := mkLanes (fun l => x.act.getLsbD l && decide (eb % 8 = 0) && elemByte p (k l) % (eb / 8) != 0)
    let beyond := mkLanes (fun l => x.act.getLsbD l && !(x.elems p ix n [l]).all (fun e => x.inWindow p e.byte (e.bytes eb)))
    (pValid p = false → TrapsAtIssue i s x .bounds x.act (wrap 64 (k (lowest x.act)))) ∧
    (pValid p = true →
      (¬(accepts x = true ∧ peerOk) → TrapsAtIssue i s x .access x.act 0) ∧
      (accepts x = true → peerOk →
        (unitOk x.g.core x.b p = false → TrapsAtIssue i s x .scope x.act (pUnit p)) ∧
        (unitOk x.g.core x.b p = true →
          (writes = true → pClass p = 1 → TrapsAtIssue i s x .cls x.act 0) ∧
          (¬(writes = true ∧ pClass p = 1) →
            (out ≠ 0 → TrapsAtIssue i s x .bounds out (wrap 64 (k (lowest out)))) ∧
            (out = 0 → odd ≠ 0 → TrapsAtIssue i s x .align odd (elemByte p (k (lowest odd)))) ∧
            (out = 0 → odd = 0 → beyond ≠ 0 → TrapsAtIssue i s x .access beyond 0) ∧
            (out = 0 → odd = 0 → beyond = 0 →
              x.memChecks (s.setGroup x.g) p (accepts x) writes ix n = .ok ())))))

/-- What keeps an access from its bytes (R120, R124, R85): a page of another kind traps ACCESS at issue, and what the walks have set in
the tables stays; a fault puts the fragment to sleep, its instruction in its replay queue; a poisoned table entry ends the access in
MEMERR. `q` is what was found. -/
def Kept (i : Instr) (s : State) (x : Ctx) (q : List (Elem × Found) × State) : Prop :=
  let mis := lanesWhere q.1 (fun f => f == .mismatch)
  (mis ≠ 0 → ∃ u, u.cause = .access ∧ u.lanes = mis ∧ u.info = 0 ∧ u.tpc = x.c.pc ∧ u.prec = true ∧ exec i s = .next (x.fail q.2 u)) ∧
  (mis = 0 → (∃ e ∈ q.1, ∃ va c, e.2 = .fault va c) → x.c.inj = none → ∃ t g f tags, exec i s = .next t ∧ t.group? x.c.g = some g ∧
    g.frag? x.c.f = some f ∧ f.lanes = x.f.lanes ∧ f.wait = .fault tags 0 false 0 ∧ tags ≠ [] ∧
    f.inject = x.entry i :: x.f.inject ∧ SameRegs x.g g ∧ t.blocks = q.2.blocks ∧ t.hbm = q.2.hbm ∧ t.caches = q.2.caches) ∧
  (mis = 0 → (∀ e ∈ q.1, ∀ va c, e.2 ≠ .fault va c) → (∃ e ∈ q.1, ∃ k, e.2 = .poison k) →
    ∃ t, exec i s = .next t ∧ Underway q.2 i x t (fun p => p.res = [] ∧ ∃ u, p.trap = some u ∧ u.cause = .memerr))

/-- A sector as a core sees it, through its caches (R126, R127): its bytes, none where it is poison. -/
def seesSector (s : State) (core vif sec : Nat) : Option (List Byte) :=
  let r := (State.readLevel (corePath core sec) vif sec (List.range 32) s).1
  if r.2 then none else some r.1

/-- A byte of memory as a core sees it. -/
def sees (s : State) (core vif k : Nat) : Option Byte := (seesSector s core vif (k / 32)).map (fun bs => bs.getD (k % 32) 0)

/-- Two pointers agree in format, space, class, scope, swizzle and unit (Table 5-1). -/
def SameKind (p q : PtrBits) : Prop :=
  pFmt q = pFmt p ∧ pSpace q = pSpace p ∧ pClass q = pClass p ∧ pScope q = pScope p ∧ pSwz q = pSwz p ∧ pUnit q = pUnit p

/-- A derivation of a pointer (R100, R107 to R110): wherever it issues and `ok` holds, it is done, its pointer register holding a
pointer that stands to the source as `rel` says, its valid bit computed; otherwise it traps as `trap` says. -/
def Derives (i : Instr) (d : AReg) (src : Ctx → PtrBits) (ok : Ctx → Prop) (rel : Ctx → PtrBits → Prop)
    (trap : State → Ctx → Prop) : Prop :=
  ∀ s x, Issues s i x →
    (pValid (src x) = true → ok x → ∃ t q, exec i s = .next t ∧ Done s x t [.a d.val q] ∧ rel x q ∧ pValid q = pWf q) ∧
    (pValid (src x) = false → TrapsAtIssue i s x .bounds x.act 0) ∧
    (pValid (src x) = true → ¬ok x → trap s x)

/-- A tile instruction of x has issued (R297, R300): its fragment has moved on, no register and no byte of device memory has
changed, and its operation counts in its flag where it sets one. -/
def Issued (i : Instr) (s : State) (x : Ctx) (t : State) : Prop :=
  t.hbm = s.hbm ∧ ∃ g, t.group? x.c.g = some g ∧ MovedOn x g ∧ SameRegs x.g g ∧ SameSpecial x.g g ∧
    g.flags = (x.g.countIn (x.flag i)).flags ∧ (i.setsFlag = true → ∃ p ∈ g.pend, p.entry = x.entry i)

/-- A result in the active lanes of a vector register, and in those of a register pair. -/
def vec (x : Ctx) (d : VReg) (f : Nat → Word) : List Res := [.v d.val x.act (mkRow f)]
def vec2 (x : Ctx) (d : VReg) (f g : Nat → Word) : List Res := [.v d.val x.act (mkRow f), .v (d.val + 1) x.act (mkRow g)]
/-- A truth in the active lanes of a predicate. -/
def prd (x : Ctx) (d : PReg) (f : Nat → Bool) : List Res := [.p d.val x.act (mkLanes f)]
/-- A number in a uniform register, or in a pair, the low word first (R214). -/
def uni (w : Bool) (d : SReg) (n : Nat) : List Res :=
  if w then [.s d.val (BitVec.ofNat 32 n), .s (d.val + 1) (BitVec.ofNat 32 (n / 2 ^ 32))] else [.s d.val (BitVec.ofNat 32 n)]

end Sys2Proof
end

