-- ==== Sys2Proof/Certificates/Slice0/Obligations.lean ====
section
/-! DEFINITION. The statements for the provers. Each says what the spec's rules say of an instruction or of the machine; its
docstring names the rules. -/

open Sys2Proof Sys2Proof.Machine

/-! ### Vector integer instructions -/

/-- VADD, VSUB and VADDC (R265): wrapped, saturated as signed or as unsigned, and the sum with its carry; VMUL, VMULH and VMAD
(R266), of which VMUL and VMAD may be checked (R283): a check that passes changes no result, one that fails ends the instruction in
SOFTERR (R285).
The model's own choices it rests on are in log entry 44. -/
def Obligations.VectorArithmetic : Prop :=
  (∀ (c : Ctl) (d : VReg) (a b : Src),
     Yields (.vadd c .wrap d a b) (fun x => vec x d (fun l => x.src .a a 0 l + x.src .b b 0 l)) ∧
     Yields (.vadd c .sats d a b) (fun x => vec x d (fun l => BitVec.ofInt 32
       (min (max ((x.src .a a 0 l).toInt + (x.src .b b 0 l).toInt) (-2147483648)) 2147483647))) ∧
     Yields (.vadd c .satu d a b) (fun x => vec x d (fun l => BitVec.ofNat 32
       (min ((x.src .a a 0 l).toNat + (x.src .b b 0 l).toNat) 4294967295))) ∧
     Yields (.vsub c .wrap d a b) (fun x => vec x d (fun l => x.src .a a 0 l - x.src .b b 0 l)) ∧
     Yields (.vsub c .sats d a b) (fun x => vec x d (fun l => BitVec.ofInt 32
       (min (max ((x.src .a a 0 l).toInt - (x.src .b b 0 l).toInt) (-2147483648)) 2147483647))) ∧
     Yields (.vsub c .satu d a b) (fun x => vec x d (fun l => BitVec.ofNat 32
       ((x.src .a a 0 l).toNat - (x.src .b b 0 l).toNat))) ∧
     ∀ (sub : Bool) (pO : PReg) (pI : Option PReg),
       Yields (.vaddc c sub d pO a b pI) (fun x =>
         let carry := fun l => (match pI with | none => sub | some p => x.p .c p.val l).toNat
         let other := fun l => if sub then ~~~(x.src .b b 0 l) else x.src .b b 0 l
         vec x d (fun l => x.src .a a 0 l + other l + BitVec.ofNat 32 (carry l)) ++
           prd x pO (fun l => decide (4294967296 ≤ (x.src .a a 0 l).toNat + (other l).toNat + carry l)))) ∧
  (∀ (c : Ctl) (rc : Bool) (d : VReg) (a b e : Src),
     CheckedYields (.vmul c rc d a b) rc (vmulVals a b) (fun x => vec x d (fun l => x.src .a a 0 l * x.src .b b 0 l)) ∧
     Yields (.vmulh c true d a b) (fun x => vec x d (fun l => BitVec.ofNat 32
       ((x.src .a a 0 l).toNat * (x.src .b b 0 l).toNat / 4294967296))) ∧
     Yields (.vmulh c false d a b) (fun x => vec x d (fun l => BitVec.ofInt 32
       ((x.src .a a 0 l).toInt * (x.src .b b 0 l).toInt / 4294967296))) ∧
     CheckedYields (.vmad c rc d a b e) rc (vmadVals a b e) (fun x => vec x d (fun l => x.src .a a 0 l * x.src .b b 0 l + x.src .c e 0 l)))

/-- VAND, VOR, VXOR, VNOT and the shifts, whose count is taken whole (R267), and the bit fields VBFE and VBFI (R269). -/
def Obligations.VectorBits : Prop :=
  (∀ (c : Ctl) (d : VReg) (a b : Src),
     Yields (.vand c d a b) (fun x => vec x d (fun l => x.src .a a 0 l &&& x.src .b b 0 l)) ∧
     Yields (.vor c d a b) (fun x => vec x d (fun l => x.src .a a 0 l ||| x.src .b b 0 l)) ∧
     Yields (.vxor c d a b) (fun x => vec x d (fun l => x.src .a a 0 l ^^^ x.src .b b 0 l)) ∧
     Yields (.vnot c d a) (fun x => vec x d (fun l => ~~~(x.src .a a 0 l))) ∧
     Yields (.vshl c d a b) (fun x => vec x d (fun l =>
       let n := (x.src .b b 0 l).toNat
       if 32 ≤ n then 0 else x.src .a a 0 l <<< n)) ∧
     Yields (.vshr c d a b) (fun x => vec x d (fun l =>
       let n := (x.src .b b 0 l).toNat
       if 32 ≤ n then 0 else x.src .a a 0 l >>> n)) ∧
     Yields (.vsar c d a b) (fun x => vec x d (fun l =>
       let v := x.src .a a 0 l
       let n := (x.src .b b 0 l).toNat
       if 32 ≤ n then (if v.toInt < 0 then BitVec.allOnes 32 else 0) else BitVec.ofInt 32 (v.toInt / 2 ^ n)))) ∧
  (∀ (c : Ctl) (d : VReg) (a b e : Src),
     let pos := fun (k : Word) => k.toNat % 256
     let w := fun (k : Word) => k.toNat / 256 % 256
     let w' := fun (k : Word) => min (w k) (32 - pos k)
     (∀ sgn : Bool, Yields (.vbfe c sgn d a b) (fun x => vec x d (fun l =>
       let k := x.src .b b 0 l
       if 32 ≤ pos k ∨ w k = 0 then 0
       else
         let f := (x.src .a a 0 l).toNat / 2 ^ pos k % 2 ^ w' k
         if sgn ∧ 2 ^ (w' k - 1) ≤ f then BitVec.ofInt 32 ((f : Int) - 2 ^ w' k) else BitVec.ofNat 32 f))) ∧
     Yields (.vbfi c d a b e) (fun x => vec x d (fun l =>
       let k := x.src .c e 0 l
       let m := BitVec.ofNat 32 ((2 ^ w' k - 1) * 2 ^ pos k)
       if 32 ≤ pos k ∨ w k = 0 then x.src .a a 0 l
       else (x.src .a a 0 l &&& ~~~m) ||| ((x.src .b b 0 l <<< pos k) &&& m))))

/-- VMIN, VMAX, VABS, VNEG, VCLZ and VPOPC (R268), VSEL, VCMP (R270), VMOV and VIMM (R226). -/
def Obligations.VectorSelection : Prop :=
  (∀ (c : Ctl) (d : VReg) (a b : Src),
     Yields (.vmin c false d a b) (fun x => vec x d (fun l =>
       if (x.src .a a 0 l).toInt ≤ (x.src .b b 0 l).toInt then x.src .a a 0 l else x.src .b b 0 l)) ∧
     Yields (.vmin c true d a b) (fun x => vec x d (fun l =>
       if (x.src .a a 0 l).toNat ≤ (x.src .b b 0 l).toNat then x.src .a a 0 l else x.src .b b 0 l)) ∧
     Yields (.vmax c false d a b) (fun x => vec x d (fun l =>
       if (x.src .a a 0 l).toInt ≤ (x.src .b b 0 l).toInt then x.src .b b 0 l else x.src .a a 0 l)) ∧
     Yields (.vmax c true d a b) (fun x => vec x d (fun l =>
       if (x.src .a a 0 l).toNat ≤ (x.src .b b 0 l).toNat then x.src .b b 0 l else x.src .a a 0 l)) ∧
     (∀ sat : Bool,
       Yields (.vneg c sat d a) (fun x => vec x d (fun l =>
         if x.src .a a 0 l = 0x80000000 then (if sat then 0x7FFFFFFF else 0x80000000) else -(x.src .a a 0 l))) ∧
       Yields (.vabs c sat d a) (fun x => vec x d (fun l =>
         if x.src .a a 0 l = 0x80000000 then (if sat then 0x7FFFFFFF else 0x80000000)
         else if (x.src .a a 0 l).toInt < 0 then -(x.src .a a 0 l) else x.src .a a 0 l))) ∧
     Yields (.vclz c d a) (fun x => vec x d (fun l =>
       if x.src .a a 0 l = 0 then 32 else BitVec.ofNat 32 (31 - Nat.log2 (x.src .a a 0 l).toNat))) ∧
     Yields (.vpopc c d a) (fun x => vec x d (fun l =>
       BitVec.ofNat 32 ((List.range 32).filter (fun k => (x.src .a a 0 l).getLsbD k)).length))) ∧
  (∀ (c : Ctl) (d : VReg) (a b : Src) (p : PReg) (v : Word),
     Yields (.vsel c d a b p) (fun x => vec x d (fun l => if x.p .c p.val l then x.src .a a 0 l else x.src .b b 0 l)) ∧
     (∀ (cc : CmpI) (u : Bool), Yields (.vcmp c cc u p a b) (fun x => prd x p (fun l =>
       let m := x.src .a a 0 l
       let n := x.src .b b 0 l
       let y : Int := if u then m.toNat else m.toInt
       let z : Int := if u then n.toNat else n.toInt
       match cc with
       | .eq => y == z | .ne => y != z | .lt => decide (y < z) | .le => decide (y ≤ z) | .gt => decide (z < y)
       | .ge => decide (z ≤ y)))) ∧
     Yields (.vmov c false d a) (fun x => vec x d (fun l => x.src .a a 0 l)) ∧
     Yields (.vmov c true d a) (fun x => vec2 x d (fun l => x.src .a a 0 l) (fun l => x.src .a a 1 l)) ∧
     Yields (.vimm c d v) (fun x => vec x d (fun _ => v)))

/-! ### Scalar instructions -/

/-- The scalar arithmetic, logic and shifts at 32 and 64 bits (R280, R281), and the moves (R226). -/
def Obligations.ScalarOperations : Prop :=
  (∀ (c : Ctl) (w : Bool) (d a b e : SReg) (v : Word),
     let n := if w then 64 else 32
     let half : Int := if w then 9223372036854775808 else 2147483648
     let sg := fun (k : Nat) => if (k : Int) < half then (k : Int) else (k : Int) - 2 * half
     Yields (.sadd c .wrap w d a b) (fun x => uni w d (x.su .a w a + x.su .b w b)) ∧
     Yields (.sadd c .satu w d a b) (fun x => uni w d (min (x.su .a w a + x.su .b w b) (2 ^ n - 1))) ∧
     Yields (.sadd c .sats w d a b) (fun x => uni w d
       ((min (max (sg (x.su .a w a) + sg (x.su .b w b)) (-half)) (half - 1)) % (2 * half)).toNat) ∧
     Yields (.ssub c .wrap w d a b) (fun x => uni w d (2 ^ n + x.su .a w a - x.su .b w b)) ∧
     Yields (.ssub c .satu w d a b) (fun x => uni w d (x.su .a w a - x.su .b w b)) ∧
     Yields (.ssub c .sats w d a b) (fun x => uni w d
       ((min (max (sg (x.su .a w a) - sg (x.su .b w b)) (-half)) (half - 1)) % (2 * half)).toNat) ∧
     Yields (.smul c d a b) (fun x => uni false d (x.su .a false a * x.su .b false b)) ∧
     Yields (.smulh c true d a b) (fun x => uni false d (x.su .a false a * x.su .b false b / 4294967296)) ∧
     Yields (.smulh c false d a b) (fun x => [.s d.val (BitVec.ofInt 32
       ((x.s .a a.val 0).toInt * (x.s .b b.val 0).toInt / 4294967296))]) ∧
     Yields (.smad c d a b e) (fun x => uni false d (x.su .a false a * x.su .b false b + x.su .c false e)) ∧
     Yields (.smov c w d a) (fun x => uni w d (x.su .a w a)) ∧
     Yields (.simm c d v) (fun _ => [.s d.val v])) ∧
  (∀ (c : Ctl) (w : Bool) (d a b : SReg),
     let n := if w then 64 else 32
     Yields (.sand c w d a b) (fun x => uni w d (x.su .a w a &&& x.su .b w b)) ∧
     Yields (.sor c w d a b) (fun x => uni w d (x.su .a w a ||| x.su .b w b)) ∧
     Yields (.sxor c w d a b) (fun x => uni w d (x.su .a w a ^^^ x.su .b w b)) ∧
     Yields (.snot c w d a) (fun x => uni w d (2 ^ n - 1 - x.su .a w a)) ∧
     Yields (.sshl c w d a b) (fun x => uni w d (if n ≤ x.su .b false b then 0 else x.su .a w a * 2 ^ x.su .b false b)) ∧
     Yields (.sshr c w d a b) (fun x => uni w d (if n ≤ x.su .b false b then 0 else x.su .a w a / 2 ^ x.su .b false b)) ∧
     Yields (.ssar c w d a b) (fun x => uni w d
       (let v := x.su .a w a
        let k := x.su .b false b
        if v < 2 ^ (n - 1) then (if n ≤ k then 0 else v / 2 ^ k)
        else (if n ≤ k then 2 ^ n - 1 else 2 ^ n - 1 - (2 ^ n - 1 - v) / 2 ^ k))))

/-- SMIN, SMAX (R280), SCMP, SSEL (R281) and SDIVU (R282), whose divisor of 0 gives all ones or the dividend. -/
def Obligations.ScalarSelectAndDivide : Prop :=
  ∀ (c : Ctl) (u w : Bool) (d a b e : SReg),
    let half : Int := if w then 9223372036854775808 else 2147483648
    let rd := fun (k : Nat) => if u ∨ (k : Int) < half then (k : Int) else (k : Int) - 2 * half
    Yields (.smin c u w d a b) (fun x => uni w d (if rd (x.su .a w a) ≤ rd (x.su .b w b) then x.su .a w a else x.su .b w b)) ∧
    Yields (.smax c u w d a b) (fun x => uni w d (if rd (x.su .a w a) ≤ rd (x.su .b w b) then x.su .b w b else x.su .a w a)) ∧
    (∀ cc : CmpI,
      let r := fun (x : Ctx) =>
        let y := rd (x.su .a w a)
        let z := rd (x.su .b w b)
        match cc with
        | .eq => y == z | .ne => y != z | .lt => decide (y < z) | .le => decide (y ≤ z) | .gt => decide (z < y)
        | .ge => decide (z ≤ y)
      Yields (.scmp c cc u w (.s d) a b) (fun x => [.s d.val (if r x then 1 else 0)]) ∧
      ∀ p : PReg, Yields (.scmp c cc u w (.p p) a b) (fun x => prd x p (fun _ => r x))) ∧
    Yields (.ssel c w d a b e) (fun x => uni w d (if x.s .c e.val 0 ≠ 0 then x.su .a w a else x.su .b w b)) ∧
    ∀ rem : Bool, Begins (.sdivu c rem w d a b) (fun x =>
      (uni w d (if x.su .b w b = 0 then (if rem then x.su .a w a else (if w then 2 ^ 64 - 1 else 2 ^ 32 - 1))
        else (if rem then x.su .a w a % x.su .b w b else x.su .a w a / x.su .b w b)), 0))

/-! ### Floating instructions -/

/-- VFADD, VFSUB, VFMUL, VFMA, VFMIN, VFMAX, VLDEXP and VFCMP in both formats (R273 to R275, R278): fixed latency at 32 bits,
covered by their flag at 64. VFADD, VFMUL and VFMA may be checked (R283, R285).
The model's own choices it rests on are in log entries 43, 44. -/
def Obligations.FloatArithmetic : Prop :=
  ∀ (c : Ctl) (rm : Rm) (rc nab nc : Bool) (cc : CmpF) (d : VReg) (p : PReg) (a b e : Src),
    let one := fun (x : Ctx) r => vec x d (fun l => BitVec.ofNat 32 (r l))
    let two := fun (x : Ctx) r => vec2 x d (fun l => BitVec.ofNat 32 (r l)) (fun l => BitVec.ofNat 32 (r l / 2 ^ 32))
    let truth := fun (x : Ctx) (r : Nat → Nat) => prd x p (fun l => r l == 1)
    let cmp := fun (F : FloatFmt) (fl : Bool) m n =>
      ({ bits := if (F.cmp cc fl m n).1 then 1 else 0, exc := (F.cmp cc fl m n).2 } : FRes)
    FloatYields (.vfadd c .f32 rm rc d a b) (some rc) (fun x l => fp32.add rm x.l.flush false (x.u .a a l) (x.u .b b l)) one (addVals .f32 a b) ∧
    FloatYields (.vfsub c .f32 rm d a b) none (fun x l => fp32.add rm x.l.flush true (x.u .a a l) (x.u .b b l)) one ∧
    FloatYields (.vfmul c .f32 rm rc d a b) (some rc) (fun x l => fp32.mul rm x.l.flush (x.u .a a l) (x.u .b b l)) one (mulVals .f32 a b) ∧
    FloatYields (.vfma c .f32 rm nab nc rc d a b e) (some rc)
      (fun x l => fp32.fma rm x.l.flush nab nc (x.u .a a l) (x.u .b b l) (x.u .c e l)) one (fmaVals .f32 nab nc a b e) ∧
    FloatYields (.vfmin c .f32 d a b) none (fun x l => fp32.minMax x.l.flush false (x.u .a a l) (x.u .b b l)) one ∧
    FloatYields (.vfmax c .f32 d a b) none (fun x l => fp32.minMax x.l.flush true (x.u .a a l) (x.u .b b l)) one ∧
    FloatYields (.vldexp c .f32 rm d a b) none (fun x l => fp32.ldexp rm x.l.flush (x.u .a a l) (x.src .b b 0 l).toInt) one ∧
    FloatYields (.vfcmp c .f32 cc p a b) none (fun x l => cmp fp32 x.l.flush (x.u .a a l) (x.u .b b l)) truth ∧
    FloatBegins (.vfadd c .f64 rm rc d a b) (some rc) (fun x l => fp64.add rm x.l.flush false (x.src2 .a a l) (x.src2 .b b l)) two (addVals .f64 a b) ∧
    FloatBegins (.vfsub c .f64 rm d a b) none (fun x l => fp64.add rm x.l.flush true (x.src2 .a a l) (x.src2 .b b l)) two ∧
    FloatBegins (.vfmul c .f64 rm rc d a b) (some rc) (fun x l => fp64.mul rm x.l.flush (x.src2 .a a l) (x.src2 .b b l)) two (mulVals .f64 a b) ∧
    FloatBegins (.vfma c .f64 rm nab nc rc d a b e) (some rc)
      (fun x l => fp64.fma rm x.l.flush nab nc (x.src2 .a a l) (x.src2 .b b l) (x.src2 .c e l)) two (fmaVals .f64 nab nc a b e) ∧
    FloatBegins (.vfmin c .f64 d a b) none (fun x l => fp64.minMax x.l.flush false (x.src2 .a a l) (x.src2 .b b l)) two ∧
    FloatBegins (.vfmax c .f64 d a b) none (fun x l => fp64.minMax x.l.flush true (x.src2 .a a l) (x.src2 .b b l)) two ∧
    FloatBegins (.vldexp c .f64 rm d a b) none (fun x l => fp64.ldexp rm x.l.flush (x.src2 .a a l) (x.src .b b 0 l).toInt) two ∧
    FloatBegins (.vfcmp c .f64 cc p a b) none (fun x l => cmp fp64 x.l.flush (x.src2 .a a l) (x.src2 .b b l)) truth

/-- VRCP, VRSQ, VSQRT, VEXP2, VLOG2, VSIN and VCOS (R276, R277), covered by their flag in both formats.
The model's own choices it rests on are in log entries 40, 41, 43. -/
def Obligations.FloatTranscendentals : Prop :=
  ∀ (c : Ctl) (rm : Rm) (d : VReg) (a : Src),
    let one := fun (x : Ctx) r => vec x d (fun l => BitVec.ofNat 32 (r l))
    let two := fun (x : Ctx) r => vec2 x d (fun l => BitVec.ofNat 32 (r l)) (fun l => BitVec.ofNat 32 (r l / 2 ^ 32))
    FloatBegins (.vrcp c rm d a) none (fun x l => fp32.rcp rm x.l.flush (x.u .a a l)) one ∧
    FloatBegins (.vrsq c rm d a) none (fun x l => fp32.rsq rm x.l.flush (x.u .a a l)) one ∧
    FloatBegins (.vsqrt c .f32 rm d a) none (fun x l => fp32.sqrt rm x.l.flush (x.u .a a l)) one ∧
    FloatBegins (.vsqrt c .f64 rm d a) none (fun x l => fp64.sqrt rm x.l.flush (x.src2 .a a l)) two ∧
    FloatBegins (.vexp2 c d a) none (fun x l => vexp2 x.l.flush (x.pick l) (x.u .a a l)) one ∧
    FloatBegins (.vlog2 c d a) none (fun x l => vlog2 x.l.flush (x.pick l) (x.u .a a l)) one ∧
    FloatBegins (.vsin c d a) none (fun x l => vsin x.l.flush (x.pick l) (x.u .a a l)) one ∧
    FloatBegins (.vcos c d a) none (fun x l => vcos x.l.flush (x.pick l) (x.u .a a l)) one

/-- The special operands of the arithmetic, in both formats and every mode of rounding and flush (R258 to R260, R273, R276). -/
def Obligations.FloatSpecialOperands : Prop :=
  ∀ (rm : Rm) (flush : Bool),
    -- infinities: of one sign they add, of two signs they are invalid; zero times infinity is invalid
    fp32.add rm flush false 0x7F800000 0x7F800000 = { bits := 0x7F800000, exc := 0 } ∧
    fp32.add rm flush false 0x7F800000 0xFF800000 = { bits := 0x7FC00000, exc := 1 } ∧
    fp32.add rm flush true 0x7F800000 0x7F800000 = { bits := 0x7FC00000, exc := 1 } ∧
    fp32.mul rm flush 0 0x7F800000 = { bits := 0x7FC00000, exc := 1 } ∧
    fp64.mul rm flush 0x7FF0000000000000 0 = { bits := 0x7FF8000000000000, exc := 1 } ∧
    -- a zero divides by zero, a negative number has no root, and the root of −0 is −0
    fp32.rcp rm flush 0 = { bits := 0x7F800000, exc := 2 } ∧
    fp32.rcp rm flush 0x80000000 = { bits := 0xFF800000, exc := 2 } ∧
    fp32.sqrt rm flush 0xBF800000 = { bits := 0x7FC00000, exc := 1 } ∧
    fp32.sqrt rm flush 0x80000000 = { bits := 0x80000000, exc := 0 } ∧
    -- 1 + 1, 3 · 0.5 and the root of 4 are exact
    fp32.add rm flush false 0x3F800000 0x3F800000 = { bits := 0x40000000, exc := 0 } ∧
    fp32.mul rm flush 0x40400000 0x3F000000 = { bits := 0x3FC00000, exc := 0 } ∧
    fp32.sqrt rm flush 0x40800000 = { bits := 0x40000000, exc := 0 }

/-! ### Conversions -/

/-- VCVT, VPACK, VUNPK, VRND and VCLASS (R245, R247 to R254) move converted elements and raise nothing: which element goes
where, what conversion makes it, and the class bits of Table 11-9. -/
def Obligations.Conversions : Prop :=
  ∀ (c : Ctl) (rm : Rm) (nosat bf : Bool) (d : VReg) (a b : VSrc),
    let wide := fun (x : Ctx) (n : Nat) (f : Nat → Nat) =>
      if n = 64 then vec2 x d (fun l => BitVec.ofNat 32 (f l)) (fun l => BitVec.ofNat 32 (f l / 2 ^ 32))
      else vec x d (fun l => BitVec.ofNat 32 (f l))
    let half : NumFmt := .flt (if bf then bf16 else fp16)
    (∀ dst src : CvtFmt, Yields (.vcvt c dst src rm nosat d a) (fun x => wide x (numFmt dst).width (fun l =>
      cvt (numFmt dst) (numFmt src) rm nosat x.l.flush (x.elem .a a.r (numFmt src).width l)))) ∧
    Yields (.vpack c (.h2 bf rm nosat d a b)) (fun x => vec x d (fun l => BitVec.ofNat 32
      (cvt half (.flt fp32) rm nosat x.l.flush (x.v .a a.r.val 0 l).toNat +
        65536 * cvt half (.flt fp32) rm nosat x.l.flush (x.v .b b.r.val 0 l).toNat))) ∧
    (∀ k : B4Fmt, Yields (.vpack c (.b4 k rm nosat d a)) (fun x => vec x d (fun l => BitVec.ofNat 32
      (((List.range 4).map (fun i =>
        2 ^ (8 * i) * cvt (b4Fmt k) (b4Reg k) rm nosat x.l.flush (x.v .a a.r.val i l).toNat)).sum)))) ∧
    (∀ (e : SReg) (k : Slot), Yields (.vpack c (.blk rm nosat d e a k)) (fun x =>
      let block := fun g => packBlk (x.slot k) rm nosat x.l.flush ((List.range 32).map (fun i =>
        if x.act.getLsbD (32 * g + i) then (x.v .a a.r.val 0 (32 * g + i)).toNat else 0))
      vec x d (fun l => BitVec.ofNat 32 ((if l < 32 then (block 0).2 else (block 1).2).getD (l % 32) 0)) ++
        [.s e.val (BitVec.ofNat 32 ((block 0).1 + 256 * (block 1).1))])) ∧
    Yields (.vunpk c (.h2 bf d a)) (fun x => vec2 x d
      (fun l => BitVec.ofNat 32 (cvt (.flt fp32) half .rne true x.l.flush (x.v .a a.r.val 0 l).toNat))
      (fun l => BitVec.ofNat 32 (cvt (.flt fp32) half .rne true x.l.flush ((x.v .a a.r.val 0 l).toNat / 65536)))) ∧
    (∀ k : B4Fmt, Yields (.vunpk c (.b4 k d a)) (fun x => (List.range 4).map (fun i =>
      Res.v (d.val + i) x.act (mkRow (fun l => BitVec.ofNat 32
        (cvt (b4Reg k) (b4Fmt k) .rne true x.l.flush ((x.v .a a.r.val 0 l).toNat / 2 ^ (8 * i)))))))) ∧
    (∀ (e : SReg) (k : Slot), Yields (.vunpk c (.blk d a e k)) (fun x => vec x d (fun l => BitVec.ofNat 32
      (unpackBlk (x.slot k) x.l.flush (x.v .a a.r.val 0 l).toNat ((x.s .b e.val 0).toNat / 2 ^ (8 * (l / 32)) % 256))))) ∧
    Yields (.vrnd c .f32 rm d a) (fun x => vec x d (fun l => BitVec.ofNat 32 (rnd fp32 rm x.l.flush (x.v .a a.r.val 0 l).toNat))) ∧
    Yields (.vrnd c .f64 rm d a) (fun x => wide x 64 (fun l => rnd fp64 rm x.l.flush (x.elem .a a.r 64 l))) ∧
    ∀ k : ClassFmt, Yields (.vclass c k d a) (fun x => vec x d (fun l =>
      let F := classFmt k
      let e := x.elem .a a.r (F.eb + F.mb + 1) l % 2 ^ (F.eb + F.mb + 1)
      match F.value e with
      | .nan _ q => if q then 512 else 256
      | .inf s => if s then 1 else 128
      | .num s m _ =>
        if m = 0 then (if s then 8 else 16)
        else if F.subnormal e then (if s then 4 else 32)
        else (if s then 2 else 64)))

/-! ### Lanes and predicates -/

/-- V2S, S2V and VLANE (R228), VSHFL and VROT (R229), VBALLOT (R230): an absent lane supplies 0, and only active lanes are
written (R227). -/
def Obligations.LaneExchange : Prop :=
  ∀ (c : Ctl) (k : LaneSel) (d : VReg) (sd sa : SReg) (a i : VSrc) (w : Seg) (n : Dist6) (p : PReg),
    let lane := fun (x : Ctx) => match k with
      | .imm j => j.val | .reg r _ => (x.s .b r.val 0).toNat % 64 | .first => lowest x.act
    let W := match w with | .w64 => 64 | .w2 => 2 | .w4 => 4 | .w8 => 8 | .w16 => 16 | .w32 => 32
    let far := fun (x : Ctx) => match n with | .reg r => (x.s .b r.val 0).toNat % 64 | .imm j => j.val
    let get := fun (x : Ctx) l => if (x.g.threads.getD l none).isSome ∧ l < 64 then x.v .a a.r.val 0 l else 0
    Yields (.v2s c k sd a) (fun x => [.s sd.val (get x (lane x))]) ∧
    Yields (.s2v c k d sa) (fun x => [.v d.val (x.act &&& oneLane (lane x)) (mkRow (fun _ => x.s .a sa.val 0))]) ∧
    Yields (.vlane c k d a) (fun x => vec x d (fun _ => get x (lane x))) ∧
    Yields (.vshfl c (.idx i) w d a) (fun x => vec x d (fun l => get x (W * (l / W) + (x.v .b i.r.val 0 l).toNat % W))) ∧
    Yields (.vshfl c (.by .xor n) w d a) (fun x => vec x d (fun l =>
      get x (W * (l / W) + ((l - W * (l / W)) ^^^ (far x % W))))) ∧
    Yields (.vshfl c (.by .up n) w d a) (fun x => vec x d (fun l =>
      get x (if l < W * (l / W) + far x then l else l - far x))) ∧
    Yields (.vshfl c (.by .down n) w d a) (fun x => vec x d (fun l =>
      get x (if W * (l / W) + W ≤ l + far x then l else l + far x))) ∧
    Yields (.vrot c w d a n) (fun x => vec x d (fun l => get x (W * (l / W) + (l % W + far x) % W))) ∧
    Yields (.vballot c sd p) (fun x => uni true sd (x.act &&& mkLanes (fun l => x.p .a p.val l)).toNat)

/-- VREDU and VSCAN (R231): the integer, logical and minimum forms are done at once, a uniform destination taking the value of
segment 0; the .fadd forms are under way, or end in the FPE of an enabled exception of a step. The .add of a segment is the sum of
its active lanes modulo 2^32 (Table 10-8). -/
def Obligations.LaneReductions : Prop :=
  (∀ (c : Ctl) (op : RedOp) (excl : Bool) (w : Seg) (d : VReg) (sd : SReg) (a : VSrc),
     let W := match w with | .w64 => 64 | .w2 => 2 | .w4 => 4 | .w8 => 8 | .w16 => 16 | .w32 => 32
     let one := fun (x : Ctx) r => vec x d (fun l => BitVec.ofNat 32 (r l))
     (op ≠ .fadd →
       Yields (.vredu c op w (.v d) a) (fun x => vec x d (fun l => BitVec.ofNat 32 ((x.redu op W a).getD (l / W) (0, 0)).1)) ∧
       Yields (.vredu c op w (.s sd) a) (fun x => [.s sd.val (BitVec.ofNat 32 ((x.redu op W a).getD 0 (0, 0)).1)]) ∧
       Yields (.vscan c op excl w d a) (fun x => vec x d (fun l => BitVec.ofNat 32 ((x.scan op excl W a).getD l { bits := 0 }).bits))) ∧
     FloatBegins (.vscan c .fadd excl w d a) none (fun x l => (x.scan .fadd excl W a).getD l { bits := 0 }) one ∧
     ∀ (y : Reg) (s : State) (x : Ctx), Issues s (.vredu c .fadd w y a) x →
       let r := fun l => (x.redu .fadd W a).getD (l / W) (0, 0)
       let e := (lanesOf x.act).foldl (fun (e : BitVec 5) l => e ||| (r l).2) 0
       let ws := match y with | .v v => vec x v (fun l => BitVec.ofNat 32 (r l).1) | .s v => [Res.s v.val (BitVec.ofNat 32 (r 0).1)]
       ∃ t, exec (.vredu c .fadd w y a) s = .next t ∧
         ((e &&& x.fpen = 0 ∧ Started s (.vredu c .fadd w y a) x t ws e none) ∨
           (e &&& x.fpen ≠ 0 ∧ ∃ u, u.cause = .fpe ∧ u.fpx = e ∧ Started s (.vredu c .fadd w y a) x t [] 0 (some u)))) ∧
  (∀ (x : Ctx) (a : VSrc) (k b0 : Nat),
     (redTree .add x.l.flush k (x.segment .add a (2 ^ k) b0)).1 % 2 ^ 32 =
       (((List.range (2 ^ k)).filter (fun i => x.act.getLsbD (b0 + i))).map
         (fun i => (x.v .a a.r.val 0 (b0 + i)).toNat)).sum % 2 ^ 32)

/-- PAND, POR, PXOR, PNOT, PMOV and PCNT (R232). -/
def Obligations.PredicateInstructions : Prop :=
  ∀ (c : Ctl) (ia ib : Bool) (d a b : PReg) (s : SReg) (v : VReg) (u : VSrc),
    let A := fun (x : Ctx) l => x.p .a a.val l
    let A' := fun (x : Ctx) l => A x l != ia
    let B' := fun (x : Ctx) l => x.p .b b.val l != ib
    Yields (.pand c ia ib d a b) (fun x => prd x d (fun l => A' x l && B' x l)) ∧
    Yields (.por c ia ib d a b) (fun x => prd x d (fun l => A' x l || B' x l)) ∧
    Yields (.pxor c ia ib d a b) (fun x => prd x d (fun l => A' x l != B' x l)) ∧
    Yields (.pnot c d a) (fun x => prd x d (fun l => !A x l)) ∧
    Yields (.pmov c (.pp d a)) (fun x => prd x d (A x)) ∧
    Yields (.pmov c (.ps d s)) (fun x => prd x d (fun l =>
      if l < 32 then (x.s .a s.val 0).getLsbD l else (x.s .a s.val 1).getLsbD (l - 32))) ∧
    Yields (.pmov c (.sp s a)) (fun x => uni true s (x.act &&& mkLanes (A x)).toNat) ∧
    Yields (.pmov c (.pv d u)) (fun x => prd x d (fun l => x.v .a u.r.val 0 l != 0)) ∧
    Yields (.pmov c (.vp v a)) (fun x => vec x v (fun l => if A x l then 1 else 0)) ∧
    Yields (.pcnt c (.count s a)) (fun x => [.s s.val (BitVec.ofNat 32 (popCount (x.act &&& mkLanes (A x))))]) ∧
    Yields (.pcnt c (.below v a)) (fun x => vec x v (fun l => BitVec.ofNat 32
      ((List.range (min l 64)).filter (fun k => x.act.getLsbD k && A x k)).length))

/-! ### The register files -/

/-- A register's new value (R217, R218): a vector write changes the named lanes of its register and nothing else; p0 is true in
every lane and discards writes; a lane with no thread reads 0 in p1 to p7; a predicate write changes the named lanes. -/
def Obligations.RegisterWrites : Prop :=
  ∀ (g : Group) (r q l : Nat) (m : Lanes), l < 64 →
    (∀ vals : Row, (g.put (.v r m vals)).vcell q l = if q = r ∧ m.getLsbD l then Row.at vals l else g.vcell q l) ∧
    (sortedKeys g.s = true → ∀ v : Word, (g.put (.s r v)).scell q = if q = r then v else g.scell q) ∧
    (sortedKeys g.a = true → ∀ v : PtrBits, (g.put (.a r v)).acell q = if q = r then v else g.acell q) ∧
    (g.pcell 0).getLsbD l = true ∧
    (q ≠ 0 → g.threads.getD l none = none → (g.pcell q).getLsbD l = false) ∧
    (sortedKeys g.p = true → ∀ bits : Lanes,
      ((g.put (.p r m bits)).pcell q).getLsbD l =
        if q = r ∧ r ≠ 0 ∧ m.getLsbD l ∧ (g.threads.getD l none).isSome then bits.getLsbD l else (g.pcell q).getLsbD l) ∧
    ∀ vals : Row, (g.put (.v r m vals)).s = g.s ∧ (g.put (.v r m vals)).a = g.a ∧ (g.put (.v r m vals)).p = g.p

/-- A fixed-latency write of a uniform register (R58): until its latency has run out a read gives the old value or the new
one, and from then on the new one.
The model's own choices it rests on are in log entries 7, 8. -/
def Obligations.FixedLatencyReads : Prop :=
  ∀ (g : Group) (lat n t k r : Nat) (v : Word), g.young = [] → g.pend = [] → sortedKeys g.s = true →
    ((((g.write lat (.s r v)).elapse n).readS t k r = v ∨ ((g.write lat (.s r v)).elapse n).readS t k r = g.scell r)) ∧
    (lat ≤ n → ((g.write lat (.s r v)).elapse n).readS t k r = v) ∧
    ∀ q, q ≠ r → ((g.write lat (.s r v)).elapse n).readS t k q = g.readS t k q

/-- FLAG_COMPLETION (R53, R222): an operation that ends in no trap and that no other write has raced puts its results into the
registers of its group, in every lane whose thread has not exited since the operation began (R56), sets its sticky exceptions and takes its count out of its flag;
no other register changes.
The model's own choices it rests on are in log entry 7. -/
def Obligations.FlagCompletionWrites : Prop :=
  ∀ (s : State) (r : GRef) (op : Nat) (g : Group) (p : Pend) (f : Frag),
    s.group? r = some g → g.op? op = some p → p.doing = .ready → p.trap = none → p.watch = none → (∀ m ∈ p.raced, m = 0) →
    g.frags.find? (fun f => g.owns f p) = some f → g.retired = false →
    let inLive := fun (w : Res) => match w with
      | .v n m vals => Res.v n (m &&& ~~~(g.exited &&& ~~~p.gone)) vals
      | .p n m bits => Res.p n (m &&& ~~~(g.exited &&& ~~~p.gone)) bits
      | w => w
    ∃ t h, exec (.flagCompletion r op) s = .next t ∧ t.group? r = some h ∧ SameRegs ((p.res.map inLive).foldl Group.put g) h ∧
      h.flags = (g.countOut p.entry.flag).flags ∧ h.fpstat = g.fpstat ||| p.sticky.setWidth 32 ∧ h.frags = g.frags ∧
      t.hbm = s.hbm ∧ t.host = s.host ∧ t.caches = s.caches ∧ t.blocks = s.blocks

/-! ### Control flow -/

/-- NOP (R378), BRA, BRC, BRX (R371), CALL, CALLX (R372) and RET (R373), which traps NORET where a lane's link slot is 0.
The model's own choices it rests on are in log entry 137. -/
def Obligations.Branching : Prop :=
  ∀ (c : Ctl) (inv : Bool) (p : PReg) (t : Word) (a : Src),
    let link := fun (x : Ctx) => [Res.v 383 x.act (mkRow (fun _ => BitVec.ofNat 32 x.c.after))]
    let lk := fun (x : Ctx) l => (x.v .a 383 0 l).toNat
    Yields (.nop c) (fun _ => []) ∧
    Branches (.bra c t) (fun x => x.act) (fun _ _ => t.toNat) (fun _ => []) ∧
    Branches (.brc c inv p t) (fun x => x.act &&& mkLanes (fun l => x.p .a p.val l != inv)) (fun _ _ => t.toNat) (fun _ => []) ∧
    Branches (.brx c a) (fun x => x.act) (fun x l => (x.src .a a 0 l).toNat) (fun _ => []) ∧
    Branches (.call c t) (fun x => x.act) (fun _ _ => t.toNat) link ∧
    Branches (.callx c a) (fun x => x.act) (fun x l => (x.src .a a 0 l).toNat) link ∧
    ∀ s x, Issues s (.ret c) x → Apart x →
      let zero := mkLanes (fun l => x.act.getLsbD l && lk x l == 0)
      let q := targetCheck s x x.act (lk x)
      (zero ≠ 0 → ∃ u, u.cause = .noret ∧ u.lanes = zero ∧ exec (.ret c) s = .next (x.fail s u)) ∧
      (zero = 0 → q.1 = ([], []) → ∃ u g, exec (.ret c) s = .next u ∧ Outside q.2 u x.c.g ∧ u.group? x.c.g = some g ∧
        LanesAt x g (fun l => if x.act.getLsbD l then lk x l else x.c.npc) ∧ SameRegs x.g g)

/-- EXIT (R377): the active lanes are no longer live, and the group's registers keep their values while it lasts. -/
def Obligations.ExitRetiresLanes : Prop :=
  ∀ (c : Ctl) (s : State) (x : Ctx), Issues s (.exit c) x → x.c.inj = none →
    ∃ t, exec (.exit c) s = .next t ∧
      ∀ g, t.group? x.c.g = some g → g.exited = x.g.exited ||| x.act ∧ g.live &&& x.act = 0 ∧ SameRegs x.g g

/-- JOIN and JWAIT (R374, R375): the expected mask; a wait on a register that is not live does nothing, on a live one the
fragment arrives and waits, and where every expected live lane has arrived, the arrived lanes go on as one fragment at the
next word and the register is live no more. -/
def Obligations.RejoinMasks : Prop :=
  ∀ (c : Ctl) (op : JoinOp) (k : JReg) (s : State) (x : Ctx), sortedKeys x.g.j = true → x.c.inj = none →
    (Issues s (.join c op k) x → (x.g.rejoin k.val).wpc = none →
      ∃ t g, exec (.join c op k) s = .next t ∧ Outside s t x.c.g ∧ t.group? x.c.g = some g ∧ MovedOn x g ∧ SameRegs x.g g ∧
        (g.rejoin k.val).expected = (match op with | .set => x.act | .or => (x.g.rejoin k.val).expected ||| x.act | .clr => 0) ∧
        (g.rejoin k.val).arrived = (x.g.rejoin k.val).arrived ∧ ∀ j, j ≠ k.val → g.rejoin j = x.g.rejoin j) ∧
    (Issues s (.jwait c k) x → (x.g.rejoin k.val).live = false →
      ∃ t, exec (.jwait c k) s = .next t ∧ Done s x t []) ∧
    (Issues s (.jwait c k) x → (x.g.rejoin k.val).live = true →
      ((x.g.rejoin k.val).wpc = none ∨ (x.g.rejoin k.val).wpc = some x.c.pc) →
      let arrived := (x.g.rejoin k.val).arrived ||| x.f.lanes
      ((x.g.rejoin k.val).expected &&& x.g.live &&& ~~~arrived ≠ 0 →
        (∃ f ∈ x.g.frags, f.lanes.getLsbD x.c.f = false ∧ f.jwaiting = false) →
        ∃ t g f, exec (.jwait c k) s = .next t ∧ Outside s t x.c.g ∧ t.group? x.c.g = some g ∧ g.frag? x.c.f = some f ∧
          f.wait = .jwait k ∧ f.lanes = x.f.lanes ∧ (g.rejoin k.val).arrived = arrived ∧ (g.rejoin k.val).wpc = some x.c.pc ∧
          SameRegs x.g g) ∧
      ((x.g.rejoin k.val).expected &&& x.g.live &&& ~~~arrived = 0 →
        ∃ t g f, exec (.jwait c k) s = .next t ∧ Outside s t x.c.g ∧ t.group? x.c.g = some g ∧ g.frag? x.c.f = some f ∧
          f.wait = .no ∧ f.lanes = arrived ∧ f.pc = x.c.pc + 8 ∧ (g.rejoin k.val).live = false ∧ SameRegs x.g g)) ∧
    (Issues s (.jwait c k) x → (x.g.rejoin k.val).live = true → (x.g.rejoin k.val).wpc ≠ none →
      (x.g.rejoin k.val).wpc ≠ some x.c.pc → ∃ u, u.cause = .illegal ∧ exec (.jwait c k) s = .next (x.fail s u))

/-- REFORM and REORDER (R379, R380, R383) while no rejoin register is live: the fragment waits with its targets, or with its key
register; a live rejoin register traps JLIVE with the mask of those that are.
The model's own choices it rests on are in log entry 129. -/
def Obligations.GathersWait : Prop :=
  ∀ (c : Ctl) (sgn : Bool) (a : Src) (v : VSrc) (mask : BitVec 48) (s : State) (x : Ctx), x.c.inj = none →
    let to_ := fun l => (x.src .a a 0 l).toNat
    (Issues s (.reform c a mask) x → x.g.liveMask = 0 → (targetCheck s x x.f.lanes to_).1 = ([], []) →
      ∃ t g f, exec (.reform c a mask) s = .next t ∧ Outside (targetCheck s x x.f.lanes to_).2 t x.c.g ∧
        t.group? x.c.g = some g ∧ g.frag? x.c.f = some f ∧ f.lanes = x.f.lanes ∧
        f.wait = .reform ((List.range 64).map to_) mask ∧ SameRegs x.g g) ∧
    (Issues s (.reorder c sgn v mask) x → x.g.liveMask = 0 →
      ((s.setGroup x.g).onCore x.c.g.b x.g.core).any (fun g => g.frags.any (fun f => f.reordersElse x.c.pc)) = false →
      ∃ t g f, exec (.reorder c sgn v mask) s = .next t ∧ Outside s t x.c.g ∧ t.group? x.c.g = some g ∧
        g.frag? x.c.f = some f ∧ f.lanes = x.f.lanes ∧ f.wait = .reorder x.c.pc x.c.npc sgn v.r.val mask ∧ SameRegs x.g g) ∧
    (x.g.liveMask ≠ 0 → ∃ u, u.cause = .jlive ∧ u.lanes = x.f.lanes ∧ u.info = BitVec.ofNat 64 x.g.liveMask ∧
      (Issues s (.reform c a mask) x → exec (.reform c a mask) s = .next (x.fail s u)) ∧
      (Issues s (.reorder c sgn v mask) x → exec (.reorder c sgn v mask) s = .next (x.fail s u)))

/-- GATHER_COMPLETE of a REFORM (R379, R380) and of a REORDER (R383), and REFORM_DRAW (R381): a REFORM leaves the group's slot vacant
and every live thread in the bin of its target on its core; a REORDER sorts the live threads of the block on the core by key, then by
index, into the slots that hold one, each group one fragment at the word after its extension word; a draw takes up to 64 threads of a
ready bin, in the order of their index, into a vacant slot, each in its lane from 0 up, at the bin's target.
The model's own choices it rests on are in log entries 80, 81, 161. -/
def Obligations.ReformFilesAndDraws : Prop :=
  (∀ (s : State) (r : GRef) (g : Group) (b : Block), s.group? r = some g → s.block? r.b = some b → s.reformReady g = true →
    ∃ t h y, exec (.gatherComplete r) s = .next t ∧ t.group? r = some h ∧ h.frags = [] ∧ h.threads = List.replicate 64 none ∧
      t.block? r.b = some y ∧
      ∀ (l : Nat) (f : Frag) (ts : List Nat) (m : BitVec 48), g.live.getLsbD l = true → l < 64 → g.frag? l = some f →
        f.wait = .reform ts m →
        ∃ z ∈ y.bins, z.core = g.core ∧ z.target = ts.getD l 0 ∧ ∃ d ∈ z.threads, d.thread = g.threadAt l ∧ d.lk = g.vcell 383 l) ∧
  (∀ (s : State) (r : GRef) (g : Group), s.group? r = some g → s.reformReady g = false → s.reorderReady r.b g.core = true →
    s.groups.Pairwise (fun a b => a.ref ≠ b.ref) →
    let gs := s.liveOn r.b g.core
    (∀ h ∈ gs, ∀ l, h.live.getLsbD l = true → h.frag? l ≠ none) →
    let key := fun (h : Group) (l : Nat) => match (h.frag? l).map (·.wait) with
      | some (.reorder _ _ sgn k _) => if sgn then (h.vcell k l).toInt else ((h.vcell k l).toNat : Int)
      | _ => 0
    ∃ (t : State) (xs : List (Int × Nat × Word)), exec (.gatherComplete r) s = .next t ∧
      xs.Perm (gs.flatMap (fun h => (lanesOf h.live).map (fun l => (key h l, h.threadAt l, h.vcell 383 l)))) ∧
      xs.Pairwise (fun a b => a.1 < b.1 ∨ (a.1 = b.1 ∧ a.2.1 ≤ b.2.1)) ∧ (∀ q, (∀ h ∈ gs, h.ref ≠ q) → t.group? q = s.group? q) ∧
      ∀ (i : Nat) (h : Group), gs[i]? = some h → let mine := (xs.drop (64 * i)).take 64
        ∃ e, t.group? h.ref = some e ∧ e.threads = (List.range 64).map (fun l => (mine[l]?).map (·.2.1)) ∧ (mine = [] → e.frags = []) ∧
          (∀ l x, l < 64 → mine[l]? = some x → e.vcell 383 l = x.2.2) ∧
          (mine ≠ [] → ∃ f, e.frags = [f] ∧ f.wait = .no ∧ f.lanes = mkLanes (fun l => decide (l < mine.length)) ∧
            ∀ d q n sgn k m, h.frags.head? = some d → d.wait = .reorder q n sgn k m → f.pc = n)) ∧
  ∀ (s : State) (r : BRef) (pos : Nat) (b : Block) (z : Bin) (g : Group), s.block? r = some b →
    s.drawBin b (b.cores.getD pos 64) = some z → s.drawSlot r (b.cores.getD pos 64) = some g →
    let ts := (sortBy (fun (p q : Filed) => decide (p.thread ≤ q.thread)) z.threads).take 64
    ∃ t h, exec (.reformDraw r pos) s = .next t ∧ t.group? g.ref = some h ∧
      h.threads = (List.range 64).map (fun l => (ts[l]?).map (·.thread)) ∧
      (∃ f, h.frags = [f] ∧ f.pc = z.target ∧ f.wait = .no ∧ f.lanes = mkLanes (fun l => decide (l < ts.length))) ∧
      ∀ l, l < ts.length → l < 64 → h.vcell 383 l = (ts.getD l default).lk

/-! ### System registers, waits and traps -/

/-- SREAD of every system register, CLK, and SWRITE of those that a program may write (R223, R427, R438 to R440, Tables 10-6, 14-2,
23-5 and 26-5): each under its number, into uniform or vector registers; the sticky bits of what is outstanding are in a read of
sr.fpstat or not; SWRITE of a debug register with a reserved bit set traps ILLEGAL.
The model's own choices it rests on are in log entry 90. -/
def Obligations.SystemRegisters : Prop :=
  ∀ (c : Ctl) (n : Fin 512) (r : SReg) (v : VReg) (a : SReg),
    (∀ e ∈ ([(0x002, 1, fun x => x.c.g.k), (0x003, 1, fun x => x.c.g.k / 4), (0x004, 1, fun x => x.c.g.k % 4),
        (0x005, 1, fun x => x.c.g.b.block), (0x006, 1, fun x => x.c.g.b.launch), (0x007, 1, fun x => x.l.nblk),
        (0x008, 1, fun x => x.l.thr), (0x009, 1, fun x => x.g.core), (0x00A, 1, fun x => clusterOf x.g.core), (0x00B, 1, fun x => dieOf x.g.core),
        (0x00C, 1, fun x => x.g.part), (0x00D, 1, fun x => x.l.vif), (0x010, 1, fun x => x.g.fpRead x.t),
        (0x011, 1, fun x => let h := x.g.frags.any (fun f => f.handler)
          (if h then 1 else 0) + 2 * (if h && x.g.frags.any (fun f => !f.handler && !f.traps.isEmpty) then 1 else 0)),
        (0x00E, 2, fun x => x.act.toNat), (0x00F, 2, fun x => x.g.live.toNat), (0x012, 4, fun x => x.g.tfp.toNat),
        (0x013, 1, fun x => x.g.thand.toNat), (0x018, 1, fun x => x.g.adk.toNat), (0x019, 1, fun x => x.g.adn.toNat),
        (0x020, 1, fun x => x.g.dctl.toNat)] ++
        (List.range 4).map (fun k => (0x021 + k, 1, fun x => (sgetD x.g.bpc k 0).toNat)) ++
        (List.range 2).map (fun k => (0x025 + k, 2, fun x => (sgetD x.g.wadr k 0).toNat)) ++
        (List.range 2).map (fun k => (0x027 + k, 1, fun x => (sgetD x.g.wctl k 0).toNat)) : List (Nat × Nat × (Ctx → Nat))),
      n.val = e.1 → Yields (.sread c n (.s r)) (fun x =>
          (List.range e.2.1).map (fun k => Res.s (r.val + k) (BitVec.ofNat 32 (e.2.2 x / 2 ^ (32 * k))))) ∧
        Yields (.sread c n (.v v)) (fun x =>
          (List.range e.2.1).map (fun k => Res.v (v.val + k) x.act (mkRow (fun _ => BitVec.ofNat 32 (e.2.2 x / 2 ^ (32 * k))))))) ∧
    (∀ (g : Group) (t k : Nat), k < 5 → (g.fpstat.getLsbD k = true → (g.fpRead t).testBit k = true) ∧
      ((g.fpRead t).testBit k = true → g.fpstat.getLsbD k = true ∨ ∃ p ∈ g.pend, p.sticky.getLsbD k = true)) ∧
    (n.val = 0x000 → Yields (.sread c n (.v v)) (fun x => vec x v (fun l => BitVec.ofNat 32 l))) ∧
    (n.val = 0x001 → Yields (.sread c n (.v v)) (fun x => vec x v (fun l => BitVec.ofNat 32 (x.g.threadAt l)))) ∧
    (∀ s x, Issues s (.clk c (.s r)) x → ∃ t, exec (.clk c (.s r)) s = .next t ∧
      Done s x t [.s r.val (BitVec.ofNat 32 s.time), .s (r.val + 1) (BitVec.ofNat 32 (s.time / 2 ^ 32))]) ∧
    ∀ s x, Issues s (.swrite c n a) x →
      let w := x.s .a a.val 0
      let to_ := fun (g : Group) => ∃ t, exec (.swrite c n a) s = .next t ∧ DoneFrom s x t g []
      let illegal := ∃ u, u.cause = .illegal ∧ exec (.swrite c n a) s = .next (x.fail s u)
      (n.val = 0x010 → to_ { x.g with fpstat := w &&& 31 }) ∧
      (n.val = 0x013 → to_ { x.g with thand := w }) ∧
      (n.val = 0x018 → to_ { x.g with adk := w }) ∧
      (n.val = 0x019 → to_ { x.g with adn := w }) ∧
      (n.val = 0x020 → if w.toNat < 4 then to_ { x.g with dctl := w } else illegal) ∧
      (∀ k, k < 4 → n.val = 0x021 + k → if w.toNat / 2 % 4 = 0 then to_ { x.g with bpc := sput 0 x.g.bpc k w } else illegal) ∧
      ∀ k, k < 2 →
        (n.val = 0x025 + k → to_ { x.g with wadr := sput 0 x.g.wadr k (BitVec.ofNat 64 (w.toNat + 2 ^ 32 * (x.s .a a.val 1).toNat)) }) ∧
        (n.val = 0x027 + k → if w.toNat / 4 % 2 ^ 14 = 0 then to_ { x.g with wctl := sput 0 x.g.wctl k w } else illegal)

/-- MARK with a uniform operand (R437 to R439): where the ring takes kind 1, one record with the thread of the lowest active
lane, the PC, the code and the value; registers stand. -/
def Obligations.MarkWritesARecord : Prop :=
  ∀ (c : Ctl) (code : BitVec 16) (r : SReg) (s : State) (x : Ctx), Issues s (.mark c code (.s r)) x →
    (s.vif x.l.vif).ringSlots ≠ 0 → (s.vif x.l.vif).ringKinds.testBit 1 = true →
    ∃ t g, exec (.mark c code (.s r)) s = .next t ∧ t.group? x.c.g = some g ∧ MovedOn x g ∧ SameRegs x.g g ∧
      (t.vif x.l.vif).trace = (s.vif x.l.vif).trace ++
        [{ time := s.time, source := x.g.core, kind := 1, name := threadName x.c.g.b (x.g.threadAt (lowest x.act)), pc := x.c.pc
           payload := 2 ^ 32 * code.toNat + (x.s .a r.val 0).toNat }] ∧
      t.hbm = s.hbm ∧ t.host = s.host ∧ t.caches = s.caches ∧ t.blocks = s.blocks

/-- SLEEP and YIELD (R412) and the end of a sleep: the fragment sleeps until its time and no earlier; SLEEP 0 and YIELD let
another group go first.
The model's own choices it rests on are in log entry 5. -/
def Obligations.SleepAndYield : Prop :=
  ∀ (c : Ctl) (n : SOrImm) (s : State) (x : Ctx), x.c.inj = none →
    let k := match n with | .reg r => (x.s .a r.val 0).toNat | .imm w => w.toNat
    (Issues s (.sleep c n) x → k = 0 → ∃ t g, exec (.sleep c n) s = .next t ∧ Done s x t [] ∧ t.group? x.c.g = some g ∧
      g.yielded = true) ∧
    (Issues s (.yield c) x → ∃ t g, exec (.yield c) s = .next t ∧ Done s x t [] ∧ t.group? x.c.g = some g ∧
      g.yielded = true) ∧
    (Issues s (.sleep c n) x → k ≠ 0 → ∃ t g f, exec (.sleep c n) s = .next t ∧ Outside s t x.c.g ∧ t.group? x.c.g = some g ∧
      SameRegs x.g g ∧ g.frag? x.c.f = some f ∧ f.lanes = x.f.lanes ∧ f.pc = x.c.npc ∧ f.wait = .sleep (s.time + k)) ∧
    ∀ (r : GRef) (lane until_ : Nat) (g : Group) (f : Frag), s.group? r = some g → g.frag? lane = some f →
      f.wait = .sleep until_ →
      (until_ ≤ s.time → ∃ t h e, exec (.sleepWake r lane) s = .next t ∧ t.group? r = some h ∧ h.frag? lane = some e ∧
        e.wait = .no ∧ e.pc = f.pc ∧ e.lanes = f.lanes ∧ SameRegs g h) ∧
      (s.time < until_ → exec (.sleepWake r lane) s = .next s)

/-- BAR and CBAR (R407, R408): a fragment that arrives before the others waits at the next word with its lanes; the last to
arrive at a BAR lets every fragment of its block go on.
The model's own choices it rests on are in log entry 84. -/
def Obligations.Barriers : Prop :=
  ∀ (c : Ctl) (s : State) (x : Ctx), x.c.inj = none →
    let waits := fun (i : Instr) (w : Wait) => ∃ t g f, exec i s = .next t ∧ t.group? x.c.g = some g ∧ SameRegs x.g g ∧
      g.frag? x.c.f = some f ∧ f.lanes = x.f.lanes ∧ f.pc = x.c.npc ∧ f.wait = w
    let other := ∃ g ∈ s.groups, g.ref.b = x.c.g.b ∧ g.ref ≠ x.c.g ∧ g.frags.any (fun f => !f.atBar && !f.atCbar && !f.jwaiting)
    (Issues s (.bar c) x → other → waits (.bar c) .bar) ∧
    (Issues s (.cbar c) x → other → (∃ l ∈ s.liveBlocks x.c.g.b.launch, l.ref = x.c.g.b) → waits (.cbar c) .cbar) ∧
    (Issues s (.bar c) x →
      (∀ g ∈ s.groups, g.ref.b = x.c.g.b → g.ref ≠ x.c.g → g.frags.all Frag.atBar) →
      (∀ f ∈ x.g.frags, f.lanes.getLsbD x.c.f = true ∨ f.atBar = true) →
      s.groups.Pairwise (fun g h => g.ref ≠ h.ref) → x.b.saved = [] → x.b.binned = false →
      ∃ t, exec (.bar c) s = .next t ∧ ∀ g ∈ t.groups, g.ref.b = x.c.g.b → g.frags.any Frag.atBar = false)

/-- Taking a trap (R415, R418, R421): the fragment enters its handler; with a handler offset of 0 there is none, and the launch
is ended with status 0x02, every block of it exited.
The model's own choices it rests on are in log entry 103. -/
def Obligations.TrapEntry : Prop :=
  ∀ (s : State) (r : GRef) (lane : Nat) (u : Trap),
    (Handled s r lane u → EntersHandler s (s.takeTrap r lane u) r lane u) ∧
    ∀ (g : Group) (f : Frag) (l : Launch), s.group? r = some g → g.frag? lane = some f → s.launch? r.b.launch = some l →
      (s.vif l.vif).debugger = false → g.frags.all (fun f => !f.handler) = true → g.thand = 0 → l.ending = false →
      s.blocks.Pairwise (fun a b => a.ref ≠ b.ref) →
      let t := s.takeTrap r lane u
      (∃ m, t.launch? r.b.launch = some m ∧ m.ending = true ∧ m.status = 2) ∧ t.liveBlocks r.b.launch = []

/-- TRAP and BKPT (R414, R426): each traps at issue with its code, its active lanes and, as the saved PC, the next word; and the
events of a trap that waits to be taken (R416).
The model's own choices it rests on are in log entries 10, 100. -/
def Obligations.SoftwareTraps : Prop :=
  (∀ (c : Ctl) (code : BitVec 16) (s : State) (x : Ctx) (g : Group) (f : Frag), x.c.inj = none → x.boundAhead = false →
    s.group? x.c.g = some g → g.frag? x.c.f = some f →
    let s0 := s.setGroup (g.setFrag x.c.f { f.advance x.c.npc with stepped := true, last := g.seq })
    let traps := fun (i : Instr) (k : Cause) => ∃ u, u.cause = k ∧ u.lanes = x.act ∧ u.info = BitVec.ofNat 64 code.toNat ∧
      u.tpc = x.c.pc ∧ (Handled s0 x.c.g x.c.f u → ∃ t, exec i s = .next t ∧ EntersHandler s0 t x.c.g x.c.f u ∧
        ∃ h e fr, t.group? x.c.g = some h ∧ h.frag? x.c.f = some e ∧ e.frame = some fr ∧ fr.pc = x.c.npc)
    (Issues s (.trap c code) x → traps (.trap c code) .trapi) ∧ (Issues s (.bkpt c code) x → traps (.bkpt c code) .bkpt)) ∧
  ∀ (s : State) (r : GRef) (lane : Nat) (g : Group) (f : Frag) (u : Trap), s.group? r = some g → g.frag? lane = some f →
    f.firstTrap = some u → g.mayTake f = true → f.wait = .no →
    let s0 := s.setGroup (g.leave { f with traps := f.traps.erase u })
    Handled s0 r lane u →
    (u.cause ≠ .watch → ∃ t, exec (.takeTrap r lane) s = .next t ∧ EntersHandler s0 t r lane u) ∧
    (u.cause = .watch → ∃ t, exec (.watchpointStop r lane) s = .next t ∧ EntersHandler s0 t r lane u)

/-- The header of a trap frame (R421, Table 23-2), as the number it is: each field at its bits, the prefix fields where the saved PC lies
inside a prefix range, and the index of the entry that trapped where one did. -/
def Obligations.FrameHeader : Prop :=
  ∀ (fr : Frame) (group : Nat), fr.pc < 2 ^ 32 → fr.trap.tpc < 2 ^ 32 → group < 2 ^ 10 → fr.trap.rank < 2 ^ 12 →
    fr.entries.length ≤ 16 → (∀ p, fr.pfx = some p → p.pos < 8 ∧ 1 ≤ p.len ∧ p.len ≤ 8) →
    let h := fr.bits group
    field h 0 64 = fr.trap.lanes.toNat ∧ field h 64 64 = fr.frag.toNat ∧ field h 128 64 = fr.sibs.toNat ∧
    field h 256 64 = fr.trap.info.toNat ∧ field h 320 32 = fr.pc ∧ field h 352 32 = fr.trap.tpc ∧
    field h 384 8 = fr.trap.cause.code ∧ (field h 392 1 = 1 ↔ fr.trap.prec = true) ∧ (field h 393 1 = 1 ↔ fr.trap.eng = true) ∧
    (fr.pfx = none → field h 394 1 = 0) ∧
    (∀ p, fr.pfx = some p → field h 192 64 = p.mask.toNat ∧ field h 394 1 = 1 ∧ field h 395 3 = p.pos ∧ field h 398 3 + 1 = p.len ∧
      field h 401 8 = p.pattern.toNat) ∧
    field h 412 5 = fr.trap.fpx.toNat ∧ field h 417 5 = fr.entries.length ∧
    ((∀ e ∈ fr.entries, fr.trap.entry ≠ some e.seq) → field h 426 1 = 0) ∧
    (∀ pre e post, fr.entries = pre ++ e :: post → fr.trap.entry = some e.seq → (∀ y ∈ pre, y.seq ≠ e.seq) →
      field h 422 4 = pre.length ∧ field h 426 1 = 1) ∧
    field h 440 10 = group ∧ field h 450 12 = fr.trap.rank ∧ field h 512 64 = fr.time % 2 ^ 64 ∧ headerReserved (h % 2 ^ 576) = false ∧ (fr.time < 2 ^ 64 → h < 2 ^ 576)

/-- ERET (R423, R424): the fragment leaves handler mode at the PC that its frame holds in memory, with the prefix state of its
trap and what it slept on, its entries to be issued again but for those with skip set. The PC that the trap saved must lie among the code
words, and one that the handler put in its place must be a branch target (R65): otherwise it is a double trap, which ends the launch;
where its word's page is missing, the fragment sleeps on a fault in its handler.
The model's own choices it rests on are in log entries 39, 103. -/
def Obligations.ReturnFromTrap : Prop :=
  ∀ (c : Ctl) (s : State) (x : Ctx) (fr : Frame), Issues s (.eret c) x → x.c.inj = none →
    x.g.frags.find? (fun f => f.handler) = some x.f → x.f.frame = some fr →
    let q := (s.setGroup x.g).readFrame x.g x.l.vif x.l.ctx fr
    let pc := field q.1 320 32
    x.f.lanes = fr.frag &&& ~~~x.g.exited → headerReserved q.1 = false → field q.1 417 5 ≤ 16 →
    let k := if pc = fr.pc then ((if x.l.inCode pc then .good else .bad), q.2.2) else q.2.2.target x.g.core x.l pc
    (k.1 = .good → (∀ e ∈ q.2.1, e.mtx = false) → q.2.2.group? x.c.g = some x.g → (∀ j, fr.wait ≠ .jwait j) →
      ∃ t g f, exec (.eret c) s = .next t ∧ t.group? x.c.g = some g ∧ g.frag? x.c.f = some f ∧ f.lanes = x.f.lanes ∧ f.pc = pc ∧
        f.handler = false ∧ f.frame = none ∧ (f.wait = fr.wait ∨ ((fr.wait = .bar ∨ fr.wait = .cbar) ∧ f.wait = .no)) ∧ f.pfx = fr.pfx ∧
        f.inject = q.2.1.filter (fun e => !e.skip) ∧ SameRegs x.g g) ∧
    ((k.1 = .bad ∨ k.1 = .stop .refused ∨ ∃ va, k.1 = .stop (.poison va)) → x.l.ending = false →
      ∃ t l, exec (.eret c) s = .next t ∧ t.launch? x.c.g.b.launch = some l ∧ l.ending = true ∧ l.status = 2) ∧
    ∀ va n, k.1 = .stop (.fault va n) → ∃ t g f tag, exec (.eret c) s = .next t ∧ t.group? x.c.g = some g ∧ g.frag? x.c.f = some f ∧
      f.wait = .fault [(tag, x.f.lanes)] 0 false va none ∧ f.pc = x.f.pc ∧ f.handler = true ∧ f.frame = some fr ∧ SameRegs x.g g

/-- The debugger (R441 to R444): it attaches where the feature is accepted; a step, a breakpoint and a watchpoint stop their
fragment for it; and a stopped fragment that it resumes is stopped no more.
The model's own choices it rests on are in log entries 105, 106, 168. -/
def Obligations.DebuggerStops : Prop :=
  (∀ (s : State) (v : Nat), s.feature v 11 = true →
    ∃ t, exec (.debugAttach v) s = .next t ∧ (t.vif v).debugger = true ∧ t.groups = s.groups ∧ t.hbm = s.hbm) ∧
  (∀ (s : State) (r : GRef) (lane : Nat) (g : Group) (f : Frag), s.group? r = some g → g.frag? lane = some f →
    (f.stepDue s g = true → Debugged s r → ∃ t, exec (.stepStop r lane) s = .next t ∧ StopsFor s t r lane .step) ∧
    (∀ u, f.firstTrap = some u → u.cause = .watch → g.mayTake f = true → f.wait = .no → Debugged s r →
      ∃ t, exec (.watchpointStop r lane) s = .next t ∧
        StopsFor (s.setGroup (g.leave { f with traps := f.traps.erase u })) t r lane .watch u.at_) ∧
    (∀ k s1, s.bpDue g f = some (k, s1) → s.quiet g = true → Debugged s1 r → (∃ g1 f1, s1.group? r = some g1 ∧ g1.frag? lane = some f1) →
      ∃ t, exec (.breakpointStop r lane) s = .next t ∧ StopsFor s1 t r lane .bkpt)) ∧
  ∀ (s u : State) (r : GRef) (g : Group) (f f1 : Frag) (l : Launch), s.group? r = some g →
    g.frags.filter (fun f => f.stopped) = [f] → g.frag? (lowest f.lanes) = some f → s.launch? r.b.launch = some l →
    -- what a stop still asked of the siblings is asked no more (R444)
    let g1 := { g with frags := g.frags.map (fun f => { f with allStop := false }) }
    (s.setGroup g1).unstop g1 l f = some (u, f1) →
    (f1.stopped = false → ∃ t h e, exec (.debugResume r) s = .next t ∧ t.group? r = some h ∧ h.frag? (lowest f.lanes) = some e ∧
      e.stopped = false ∧ e.lanes = f.lanes ∧ SameRegs g h) ∧
    (f1.stopped = true → exec (.debugResume r) s = .next u)


/-! ### Memory instructions -/

/-- The checks of LD, ST, ATOM, ATOMF, WAITA, CTEST and CWAIT on their pointer (R101, R102, R155, R156, R163, R166, R169, R188, Table
5-4), in their order.
The model's own choices it rests on are in log entry 46. -/
def Obligations.PointerChecks : Prop :=
  ∀ (c : Ctl) (n : Cnt) (raw nosat : Bool) (h : Hint) (d : Reg) (od : Option Reg) (p : AReg) (i : Idx) (v : Src) (op : AtomOp)
    (fop : AtomfOp) (cmp : WaitCmp) (pd : PReg) (sv : SReg) (tm : Word),
    let ptr := fun (x : Ctx) => x.a .a p.val
    Checked (.ld c n raw h d p i) ptr (fun x => dataSpace (ptr x) && ldFmt (pFmt (ptr x)) raw) false i n.elems ∧
    Checked (.st c n raw nosat h p i v) ptr (fun x => dataSpace (ptr x) && stFmt (pFmt (ptr x)) raw) true i n.elems ∧
    Checked (.atom c op od p i v) ptr
      (fun x => dataSpace (ptr x) && (pFmt (ptr x) == 4 || pFmt (ptr x) == 5 || pFmt (ptr x) == 6 || pFmt (ptr x) == 7)) true i 1 ∧
    Checked (.atomf c fop od p i v) ptr (fun x => dataSpace (ptr x) && pFmt (ptr x) == 0x0A) true i 1 ∧
    Checked (.waita c cmp pd p i sv tm) ptr (fun x => dataSpace (ptr x) && (pFmt (ptr x) == 4 || pFmt (ptr x) == 5)) false i 1 ∧
    Checked (.ctest c pd p i sv) ptr (fun x => (pOwnScratch (ptr x) || pClScratch (ptr x)) && pFmt (ptr x) == 4) false i 1 ∧
    Checked (.cwait c pd p i sv tm) ptr (fun x => (pOwnScratch (ptr x) || pClScratch (ptr x)) && pFmt (ptr x) == 4) false i 1

/-- What LD and ST make of an element (R160, R161): raw, of each integer format, of E8M0, and of FP16, BF16, E4M3 and E5M2, each by the bits
of its sign, exponent and fraction, a store rounding to nearest even, with the largest finite value, the infinities, the NaNs and the flush
mode of R161; and the new values of ATOM and ATOMF (R163, R166, Table 7-5), at both widths; .cas writes only where the old value is the one
expected. -/
def Obligations.MemoryValues : Prop :=
  (∀ (fmt v : Nat) (flush nosat : Bool),
     ldValue fmt true v = v ∧ stValue fmt true nosat flush v = v % 2 ^ ebits fmt ∧
     (fmt = 0 ∨ fmt = 2 ∨ fmt = 4 ∨ fmt = 5 ∨ fmt = 6 ∨ fmt = 7 ∨ fmt = 0x0A ∨ fmt = 0x0B → ldValue fmt false v = v) ∧
     (v < 256 → BitVec.ofNat 32 (ldValue 1 false v) = (BitVec.ofNat 8 v).signExtend 32) ∧
     (v < 65536 → BitVec.ofNat 32 (ldValue 3 false v) = (BitVec.ofNat 16 v).signExtend 32) ∧
     (0 < v → v < 255 → ldValue 0x20 false v = v * 8388608) ∧ ldValue 0x20 false 0 = 0x00400000 ∧ ldValue 0x20 false 255 = 0x7FC00000 ∧
     (v < 2 ^ 32 → stValue 0 false false flush v = min v 255 ∧ stValue 2 false false flush v = min v 65535 ∧
       stValue 0 false true flush v = v % 256 ∧ stValue 1 false true flush v = v % 256 ∧
       stValue 1 false false flush v = (max (-128) (min 127 (BitVec.ofNat 32 v).toInt) % 256).toNat ∧
       stValue 3 false false flush v = (max (-32768) (min 32767 (BitVec.ofNat 32 v).toInt) % 65536).toNat) ∧
     (fmt = 4 ∨ fmt = 5 ∨ fmt = 6 ∨ fmt = 7 ∨ fmt = 0x0A ∨ fmt = 0x0B → stValue fmt false nosat flush v = v % 2 ^ ebits fmt)) ∧
  -- a narrow format: its code, the widths of its exponent and its fraction, its bias, its largest finite value and its infinity, for E4M3 its NaN
  (∀ z ∈ ([(0x08, 5, 10, 15, 0x7BFF, 0x7C00), (0x09, 8, 7, 127, 0x7F7F, 0x7F80), (0x0C, 4, 3, 7, 0x7E, 0x7F),
      (0x0D, 5, 2, 15, 0x7B, 0x7C)] : List (Nat × Nat × Nat × Nat × Nat × Nat)),
     let fmt := z.1
     let eb := z.2.1
     let mb := z.2.2.1
     let bias := z.2.2.2.1
     let most := z.2.2.2.2.1
     let inf := z.2.2.2.2.2
     (∀ v, v < 2 ^ (eb + mb + 1) →
       let m := v % 2 ^ (eb + mb)
       let e := m / 2 ^ mb
       let f := m % 2 ^ mb
       let is := fun y => ldValue fmt false v = v / 2 ^ (eb + mb) * 2 ^ 31 + y
       (e ≠ 0 → m ≤ most → is ((e + 127 - bias) * 2 ^ 23 + f * 2 ^ (23 - mb))) ∧
       (m = 0 → is 0) ∧
       (e = 0 → f ≠ 0 → if fmt = 0x09 then is (f * 2 ^ 16)
         else is ((Nat.log2 f + 128 - bias - mb) * 2 ^ 23 + (f - 2 ^ Nat.log2 f) * 2 ^ (23 - Nat.log2 f))) ∧
       (fmt ≠ 0x0C → m = inf → is 0x7F800000) ∧
       (most < m → (fmt = 0x0C ∨ m ≠ inf) →
         if fmt = 0x08 ∨ fmt = 0x09 then is (0x7F800000 + (if f < 2 ^ (mb - 1) then f + 2 ^ (mb - 1) else f) * 2 ^ (23 - mb))
         else is 0x7FC00000)) ∧
     ∀ (nosat flush : Bool) (sgn y : Nat), sgn < 2 → y < 2 ^ 31 →
       let e := y / 2 ^ 23
       let rne := fun (v n : Nat) =>
         if 2 ^ n < 2 * (v % 2 ^ n) ∨ (2 ^ n = 2 * (v % 2 ^ n) ∧ v / 2 ^ n % 2 = 1) then v / 2 ^ n + 1 else v / 2 ^ n
       let is := fun k => stValue fmt false nosat flush (sgn * 2 ^ 31 + y) = sgn * 2 ^ (eb + mb) + k
       (0x7F800000 < y → if fmt = 0x08 ∨ fmt = 0x09 then is (inf + 2 ^ (mb - 1) + y % 2 ^ 22 / 2 ^ (23 - mb))
         else if fmt = 0x0C then is 0x7F else is 0x7E) ∧
       (y = 0x7F800000 → if fmt = 0x0C ∧ nosat = false then is most else is inf) ∧
       (y < 0x7F800000 → 128 - bias ≤ e →
         let k := rne (y - (127 - bias) * 2 ^ 23) (23 - mb)
         is (if k ≤ most then k else if nosat then inf else most)) ∧
       (e < 128 - bias →
         let k := if e ≠ 0 then rne (2 ^ 23 + y % 2 ^ 23) (151 - bias - mb - e) else if fmt = 0x09 then rne y 16 else 0
         is (if flush ∧ (e = 0 ∨ k < 2 ^ mb) then 0 else k))) ∧
  (∀ (w old v n : Nat) (sgn flush : Bool), (w = 32 ∨ w = 64) → old < 2 ^ w → v < 2 ^ w → n < 2 ^ w →
     let o := BitVec.ofNat w old
     let y := BitVec.ofNat w v
     let le := fun (a b : BitVec w) => if sgn then decide (a.toInt ≤ b.toInt) else decide (a.toNat ≤ b.toNat)
     let new := fun (op : AtomOp) (r : BitVec w) => atomNew op w sgn old v n = some r.toNat
     new .add (o + y) ∧ new .sub (o - y) ∧ new .min (if le o y then o else y) ∧ new .max (if le o y then y else o) ∧
     new .and (o &&& y) ∧ new .or (o ||| y) ∧ new .xor (o ^^^ y) ∧ new .xchg y ∧
     atomNew .cas w sgn old v n = (if old = v then some n else none) ∧ new .incw (if v ≤ old then 0 else o + 1) ∧
     atomfNew .add flush old v = (let r := (fp32.add .rne flush false old v).bits; if fp32.isNan r then 0x7FC00000 else r) ∧
     atomfNew .min flush old v = (fp32.minMax flush false old v).bits ∧ atomfNew .max flush old v = (fp32.minMax flush true old v).bits)

/-- LD (R160 to R162): past its checks it is under way: with the elements' converted values for its registers, or MEMERR of the
lanes that read poison (R85); through a pointer of the host or of another device, with an access that waits for its response
(R162, R355), before which a synchronising one lets no later access go (R158); or it is kept from its bytes, or waits for a free
miss-status entry (R151). No byte of memory changes.
The model's own choices it rests on are in log entries 29, 31, 33, 148, 151, 167. -/
def Obligations.Loads : Prop :=
  ∀ (c : Ctl) (n : Cnt) (raw : Bool) (h : Hint) (d : Reg) (p : AReg) (i : Idx) (s : State) (x : Ctx),
    let me := Instr.ld c n raw h d p i
    let ptr := x.a .a p.val
    let fmt := pFmt ptr
    let els := x.elems ptr i n.elems (match d with | .s _ => [lowest x.act] | .v _ => lanesOf x.act)
    let s0 := s.setGroup x.g
    let q := x.locate ptr false els s0
    let need := q.2.missing x.g.core ((foundAt q.1).flatMap (·.2))
    let room := q.2.missRoom x.g.core need
    let r := (q.2.takeMisses x.g.core x.l.vif need (h != .na)).readElems (x.via ptr (h == .na)) (foundAt q.1)
    -- a load of host memory takes its entries too, and fills nothing until its response has come
    let u := q.2.takeMisses x.g.core x.l.vif need false
    let acq := if pClass ptr = 2 then some (pScope ptr) else none
    let watch := x.watched s0 ptr true false els
    let rank := pBase ptr / 2 ^ 45
    let accs : List PeerAcc := els.map (fun e => { va := e.byte % 2 ^ 45, op := .load (e.bytes (ebits fmt)) })
    Issues s me x → x.memChecks s0 ptr (dataSpace ptr && ldFmt fmt raw) false i n.elems = .ok () →
    (x.remote ptr = true → 12 ≤ s.portsFailed.length → ∃ t, exec me s = .next t ∧
      Underway s me x t (fun p => p.res = [] ∧ ∃ u, p.trap = some u ∧ u.cause = .fabric ∧ u.rank = rank)) ∧
    (x.remote ptr = true → s.portsFailed.length < 12 → ∃ t, exec me s = .next t ∧
      Underway { s with serial := s.serial + 1, sent := s.sent ++ [.peer s.serial rank x.l.key accs]
                        requests := s.requests ++ [{ id := s.serial, g := x.c.g, seq := x.g.seq, rank, at_ := s.time, host := false, key := x.l.key, accs }] }
        me x t (fun p => p.res = [] ∧ p.trap = none ∧ p.doing = .response s.serial ∧ p.acq = acq)) ∧
    (x.remote ptr = false → Kept me s x q ∧
      (AllFound q.1 → pHost ptr = true → room = true → ∃ t, exec me s = .next t ∧ t.hbm = u.hbm ∧
        ∃ out, Underway { u with serial := u.serial + 1, requests := u.requests ++ [out] } me x t
          (fun p => p.res = [] ∧ p.trap = none ∧ p.doing = .response u.serial ∧ p.watch = watch ∧ p.acq = acq) ∧
          out.id = u.serial ∧ out.g = x.c.g ∧ out.host = true ∧ out.answer = none) ∧
      (AllFound q.1 → room = false → exec me s = .next (x.back s)) ∧
      (AllFound q.1 → pHost ptr = false → room = true →
        let bad := mkLanes (fun l => (els.zip r.1).any (fun y => y.1.lane == l && y.2.isNone))
        ∃ t, exec me s = .next t ∧ t.hbm = s.hbm ∧ t.blocks = s.blocks ∧
          Underway (if pClass ptr = 2 ∧ pGlobal ptr = false then r.2.acquire x.g.core (pScope ptr) else r.2) me x t
            (fun p => p.doing = .ready ∧ p.watch = watch ∧
              (bad = 0 → p.trap = none ∧ p.res = x.ldRes d (if ebits fmt = 64 then 2 else 1) n.elems els
                ((els.zip r.1).map (fun y => ldValue fmt raw (y.1.value (ebits fmt) (y.2.getD []))))) ∧
              (bad ≠ 0 → p.res = [] ∧ ∃ u, p.trap = some u ∧ u.cause = .memerr ∧ u.lanes = bad))))

/-- ST (R148, R160 to R162): past its checks its elements are stored, the higher lane's last, at the addresses that its
pointer and index name, and no other byte of a window changes; registers and flags stand. In cached memory the stored bytes are
those of `CoreStores`. Through a pointer of the host or of another device the access waits for its response.
The model's own choices it rests on are in log entries 29, 32, 33, 151. -/
def Obligations.Stores : Prop :=
  ∀ (c : Ctl) (n : Cnt) (raw nosat : Bool) (h : Hint) (p : AReg) (i : Idx) (v : Src) (s : State) (x : Ctx),
    let me := Instr.st c n raw nosat h p i v
    let ptr := x.a .a p.val
    let fmt := pFmt ptr
    let eb := ebits fmt
    let s0 := s.setGroup x.g
    let vs := x.stVals n raw nosat p i v
    let els := vs.map (·.1)
    let q := x.locate ptr true els s0
    let s2 := if pClass ptr = 2 then q.2.release x.g.core (pScope ptr) else q.2
    let all := ((foundAt q.1).zip vs).map (fun y => (y.1.1, y.1.2, y.2.2))
    let s3 := s2.writeElems (x.via ptr (h == .na)) eb all
    let scratch := pSpace ptr = 1 ∨ pSpace ptr = 2
    let spot := spotOf x.b x.g.core ptr
    let key := fun (e : Elem) (k : Nat) => winKey spot.pos (pSwz ptr) (e.byte + k)
    Issues s me x → x.memChecks s0 ptr (dataSpace ptr && stFmt fmt raw) true i n.elems = .ok () →
    (x.remote ptr = true → s.portsFailed.length < 12 → ∃ t out u, exec me s = .next t ∧
      u = (if pClass ptr = 2 then s0.release x.g.core (pScope ptr) else s0) ∧
      Underway { u with serial := u.serial + 1, requests := u.requests ++ [out], sent := u.sent ++ [.peer u.serial (pBase ptr / 2 ^ 45) x.l.key out.accs] }
        me x t (fun p => p.doing = .response u.serial) ∧ out.host = false ∧ out.id = u.serial ∧
      (eb % 8 = 0 → out.accs = vs.map (fun y => { va := y.1.byte % 2 ^ 45, op := .store (leBytes (eb / 8) y.2) }))) ∧
    (x.remote ptr = false → Kept me s x q ∧
      (AllFound q.1 → pHost ptr = true → ∃ t out, exec me s = .next t ∧
        Underway { s2 with serial := s2.serial + 1, requests := s2.requests ++ [out] } me x t (fun p => p.doing = .response s2.serial) ∧
        out.host = true ∧ out.id = s2.serial ∧ t.hbm = s.hbm) ∧
      (AllFound q.1 → pHost ptr = false → x.watched s0 ptr false true els = none →
        ∃ t, exec me s = .next t ∧ t.hbm = s.hbm ∧ DoneFrom s3 x t x.g []) ∧
      (pHost ptr = false → ∀ a, AllFound q.1 → x.watched s0 ptr false true els = some a →
        ∃ t, exec me s = .next t ∧ Underway s3 me x t (fun p => p.res = [] ∧ p.watch = some a)) ∧
      (scratch → ∃ t, exec me s = .next t ∧
        (∀ b k, (∀ e ∈ els, ∀ j, j < e.bytes eb → b = spot.b → k ≠ key e j) → t.winRead b k = s.winRead b k) ∧
        ∀ pre y post j b, vs = pre ++ y :: post → eb % 8 = 0 → j < eb / 8 → s.block? spot.b = some b → b.place ≠ .exited →
          b.winPoison.contains (key y.1 j / 32) = false → (∀ z ∈ post, ∀ m, m < eb / 8 → key z.1 m ≠ key y.1 j) →
          (∀ m, m < eb / 8 → m ≠ j → key y.1 m ≠ key y.1 j) →
          t.winRead spot.b (key y.1 j) = some (BitVec.ofNat 8 (y.2 / 2 ^ (8 * j)))))

/-- A store to a sector of cached memory as its core then sees memory (R126 to R129, R149): a sector that the core saw before it
still sees, with the stored bytes new, the last of each place, and every other byte as it was, in this sector and in any
other, in states where a sector that owes poison reads as poison.
The model's own choices it rests on are in log entries 20, 21. -/
def Obligations.CoreStores : Prop :=
  ∀ (s : State) (w : Via) (sec : Nat) (bs : List (Nat × Byte)) (sec' : Nat) (old : List Byte),
    (∀ y ∈ bs, y.1 < 32) → s.lostDies.contains (if secIsHost sec then 4 else homeDie sec) = false →
    (∀ c ∈ s.caches, ∀ y ∈ c.bad, y.1 ∈ c.poison) →
    seesSector s w.core w.vif sec' = some old →
    ∃ new, seesSector (s.storeSector w sec bs) w.core w.vif sec' = some new ∧
      ∀ o, o < 32 →
        (sec' ≠ sec ∨ (∀ y ∈ bs, y.1 ≠ o) → new.getD o 0 = old.getD o 0) ∧
        ∀ pre b post, bs = pre ++ (o, b) :: post → (∀ y ∈ post, y.1 ≠ o) → sec' = sec → new.getD o 0 = b

/-- ATOM and ATOMF (R163 to R166): past its checks, where its words are found, the lanes update one after another with a release
before and an acquire after (an ATOM), the old values going to its register at completion and no other register changing; a
poisoned word ends it in MEMERR, its lane and the higher ones left in the entry. On one lane and a word of a window: the word
is the new value, no other window byte changes, and the result is the old value. An access to another device or to the host
waits for its response.
The model's own choices it rests on are in log entries 29, 33, 48. -/
def Obligations.Atomics : Prop :=
  ∀ (c : Ctl) (op : AtomOp) (fop : AtomfOp) (isF : Bool) (d : Option Reg) (p : AReg) (i : Idx) (v : Src) (s : State) (x : Ctx),
    let me := if isF then Instr.atomf c fop d p i v else Instr.atom c op d p i v
    let ptr := x.a .a p.val
    let fmt := pFmt ptr
    let w := if isF ∨ ebits fmt ≠ 64 then 1 else 2
    let val := fun l => x.atomVal i v w l
    let new := fun (l old : Nat) => if isF then some (atomfNew fop x.l.flush old (val l).1)
      else atomNew op (ebits fmt) (fmtSigned fmt) old (val l).1 (val l).2
    let s0 := s.setGroup x.g
    let q := x.locate ptr true (x.elems ptr i 1 (lanesOf x.act)) s0
    -- an access whose point is the L1 fills it through miss-status entries (R151)
    let need := q.2.missingAt x.g.core ptr ((foundAt q.1).flatMap (·.2))
    let room := q.2.missRoom x.g.core need
    let s1 := q.2.takeMisses x.g.core x.l.vif need
    let s2 := if isF = false then s1.release x.g.core (pScope ptr) else s1
    let r := s2.updateLanes (x.via ptr) new (foundAt q.1)
    let s4 := if isF = false then r.2.2.acquire x.g.core (pScope ptr) else r.2.2
    let spot := spotOf x.b x.g.core ptr
    let acq := if isF then none else some (pScope ptr)
    Issues s me x →
    x.memChecks s0 ptr (dataSpace ptr && (if isF then pFmt ptr == 0x0A else (fmt == 4 || fmt == 5 || fmt == 6 || fmt == 7))) true i 1 = .ok () →
    ¬(isF = true ∧ x.l.ord = true ∧ d = none ∧ (pGlobal ptr = true ∨ pHost ptr = true)) →
    (x.remote ptr = true → s.portsFailed.length < 12 → ∃ t out u, exec me s = .next t ∧
      u = (if isF = false then s0.release x.g.core (pScope ptr) else s0) ∧
      Underway { u with serial := u.serial + 1, requests := u.requests ++ [out], sent := u.sent ++ [.peer u.serial (pBase ptr / 2 ^ 45) x.l.key out.accs] }
        me x t (fun p => p.doing = .response u.serial ∧ p.acq = acq) ∧ out.host = false ∧ out.id = u.serial ∧
      out.accs = (x.elems ptr i 1 (lanesOf x.act)).map (fun e =>
        let o : PeerOp := if isF then .atomf fop (BitVec.ofNat 32 (val e.lane).1) x.l.flush
          else .atom op (ebits fmt) (val e.lane).1 (val e.lane).2 (fmtSigned fmt)
        { va := e.byte % 2 ^ 45, op := o })) ∧
    (x.remote ptr = false → Kept me s x q ∧
      (AllFound q.1 → room = false → exec me s = .next (x.back s)) ∧
      (AllFound q.1 → pHost ptr = true → ∃ t out, exec me s = .next t ∧
        Underway { s2 with serial := s2.serial + 1, requests := s2.requests ++ [out] } me x t (fun p => p.doing = .response s2.serial ∧ p.acq = acq) ∧
        out.host = true ∧ out.id = s2.serial) ∧
      (AllFound q.1 → pHost ptr = false → room = true → r.2.1 = [] →
        (d ≠ none → ∃ t, exec me s = .next t ∧ Underway s4 me x t (fun p => p.res = atomRes d w r.1 ∧ p.trap = none ∧ p.doing = .ready)) ∧
        (d = none → x.watched s0 ptr true true (x.elems ptr i 1 (lanesOf x.act)) = none →
          ∃ t, exec me s = .next t ∧ DoneFrom s4 x t x.g [])) ∧
      (AllFound q.1 → pHost ptr = false → room = true → ∀ e es, r.2.1 = e :: es → ∃ t g p u, exec me s = .next t ∧ Outside s4 t x.c.g ∧
        t.group? x.c.g = some g ∧ g.pend = x.g.pend ++ [p] ∧ SameRegs x.g g ∧ p.res = atomRes d w r.1 ∧ p.trap = some u ∧
        u.cause = .memerr ∧ u.lanes = oneLane e.lane ∧
        p.entry = { x.entry me with lanes := mkLanes (fun l => (e :: es).any (fun y => y.lane == l)) }) ∧
      (∀ l b old, pOwnScratch ptr = true ∨ pClScratch ptr = true → x.act = oneLane l → l < 64 → s.block? spot.b = some b → b.place ≠ .exited →
        let a := elemByte ptr (x.idx i l)
        let keys := (List.range (4 * w)).map (fun k => winKey spot.pos (pSwz ptr) (a + k))
        keys.map (fun k => s.winRead spot.b k) = old.map some → keys.Nodup →
        ∃ t g, exec me s = .next t ∧ t.group? x.c.g = some g ∧
          keys.map (fun k => t.winRead spot.b k) = ((match new l (leNat old) with | some y => leBytes (4 * w) y | none => old).map some) ∧
          (∀ b' k', b' ≠ spot.b ∨ k' ∉ keys → t.winRead b' k' = s.winRead b' k') ∧
          (d ≠ none → ∃ p, g.pend = x.g.pend ++ [p] ∧ p.res = atomRes d w [(l, leNat old)])))

/-- ATOMF in the ordered mode (R167, R168): a non-returning one to global or host memory leaves memory as it is and appends to
its block's log one entry for each active lane, in the lanes' order; where neither the 512 entries of the block's core nor the
launch's log area has room, it traps ATOMLOG with nothing logged, the PC at the next word.
The model's own choices it rests on are in log entries 50, 51. -/
def Obligations.OrderedAtomicsLog : Prop :=
  ∀ (c : Ctl) (op : AtomfOp) (p : AReg) (i : Idx) (v : Src) (s : State) (x : Ctx),
    let me := Instr.atomf c op none p i v
    let ptr := x.a .a p.val
    let s0 := s.setGroup x.g
    let els := x.elems ptr i 1 (lanesOf x.act)
    let q := x.locate ptr true els s0
    let over_ := els.length - (512 - (x.b.log.filter (fun e => !e.spilled)).length)
    let area := if pValid x.l.logPtr then pLen x.l.logPtr else 0
    Issues s me x → x.memChecks s0 ptr (dataSpace ptr && pFmt ptr == 0x0A) true i 1 = .ok () → x.l.ord = true →
    pGlobal ptr = true ∨ pHost ptr = true →
    Kept me s x q ∧
    (AllFound q.1 → q.2.atsRefuses x.l.vif ptr = false → x.l.logUsed + 16 * over_ ≤ area → x.l.id = x.c.g.b.launch → ∃ t g b l, exec me s = .next t ∧ t.group? x.c.g = some g ∧ MovedOn x g ∧
      SameRegs x.g g ∧ g.flags = x.g.flags ∧ t.hbm = s.hbm ∧ t.host = q.2.host ∧ t.caches = q.2.caches ∧
      t.block? x.c.g.b = some b ∧ t.launch? x.c.g.b.launch = some l ∧ l.logUsed = x.l.logUsed + 16 * over_ ∧
      ∃ new, b.log = x.b.log ++ new ∧ new.length = els.length ∧
        ∀ (k : Nat) (e : Elem) (y : LogEntry), els[k]? = some e → new[k]? = some y →
          y.thread = x.g.threadAt e.lane ∧ y.va = e.byte ∧ y.op = op ∧ y.v = BitVec.ofNat 32 (x.atomVal i v 1 e.lane).1) ∧
    (AllFound q.1 → q.2.atsRefuses x.l.vif ptr = false → area < x.l.logUsed + 16 * over_ → x.c.inj = none →
      let u := x.trap .atomlog x.act
      let s5 := q.2.setGroup (x.g.setFrag x.c.f (x.f.advance x.c.npc))
      Handled s5 x.c.g x.c.f u [x.entry me] → ∃ t b, exec me s = .next t ∧ EntersHandler s5 t x.c.g x.c.f u ∧
        t.block? x.c.g.b = some b ∧ b.log = x.b.log)

/-- WAITA, CTEST and CWAIT (R169, R170, R188, R189): past its checks a WAITA or a CWAIT sleeps on its test; a CTEST is under way
with what its mask finds. A test that holds wakes its fragment with the predicate true, one past its deadline wakes it with the
predicate false, and another leaves it asleep.
The model's own choices it rests on are in log entries 47, 49, 157, 165. -/
def Obligations.WaitsAndTests : Prop :=
  ∀ (c : Ctl) (cmp : WaitCmp) (d : PReg) (p : AReg) (i : Idx) (v : SReg) (tm : Word) (s : State),
    (∀ x, let ptr := x.a .a p.val
      let test := fun (me : Instr) (cmp : WaitCmp) (all : Bool) (v mask : Word) =>
        ({ ptr, idx := x.idx i (lowest x.act), cmp, all, spot := spotOf x.b x.g.core ptr, v, mask, t0 := s.time, timeout := tm.toNat
           lastTest := s.time, d, act := x.act, entry := x.entry me
           stand := some { pc := x.f.pc, clause := x.f.clause, pfx := x.f.pfx } } : Test)
      let reg := fun k => x.s i.valFld v.val k
      let bits := fun (me : Instr) (x : Ctx) => Issues s me x ∧
        x.memChecks (s.setGroup x.g) (x.a .a p.val) ((pOwnScratch (x.a .a p.val) || pClScratch (x.a .a p.val)) && pFmt (x.a .a p.val) == 4)
          false i 1 = .ok ()
      (Issues s (.waita c cmp d p i v tm) x → x.c.inj = none →
        x.memChecks (s.setGroup x.g) ptr (dataSpace ptr && (pFmt ptr == 4 || pFmt ptr == 5)) false i 1 = .ok () →
        ∃ t, exec (.waita c cmp d p i v tm) s = .next t ∧ t.hbm = s.hbm ∧ t.caches = s.caches ∧ t.blocks = s.blocks ∧
          Sleeps x t (.test (test (.waita c cmp d p i v tm) cmp false (reg 0) (if cmp = .nem then reg 1 else 0)))) ∧
      (bits (.cwait c d p i v tm) x → x.c.inj = none →
        ∃ t, exec (.cwait c d p i v tm) s = .next t ∧ t.hbm = s.hbm ∧ t.caches = s.caches ∧ t.blocks = s.blocks ∧
          Sleeps x t (.test (test (.cwait c d p i v tm) .eq true 0 (reg 0)))) ∧
      (bits (.ctest c d p i v) x → ∀ bs,
        let spot := spotOf x.b x.g.core ptr
        let a := elemByte ptr (x.idx i (lowest x.act))
        (List.range 4).map (fun k => s.winRead spot.b (winKey spot.pos (pSwz ptr) (a + k))) = bs.map some →
        let ok := leNat bs &&& (reg 0).toNat == (reg 0).toNat
        ∃ t, exec (.ctest c d p i v) s = .next t ∧
          Underway (if ok then (s.setGroup x.g).acquireCopied x.g.core spot (winKey spot.pos (pSwz ptr) a) (reg 0).toNat else s.setGroup x.g)
            (.ctest c d p i v) x t
            (fun y => y.res = [.p d.val x.act (if ok then allLanes else 0)] ∧ y.trap = none ∧ y.doing = .ready))) ∧
    ∀ (r : GRef) (lane : Nat) (g : Group) (f : Frag) (t : Test) (x : Ctx) (ls : List Loc) (bs : List Byte),
      s.group? r = some g → g.frag? lane = some f → f.wait = .test t → s.entryCtx g f t.entry = some x → f.stopped = false →
      x.remote t.ptr = false → t.req = none →
      let q := x.find t.ptr false (elemByte t.ptr t.idx) 4 s (some t.spot)
      let need := q.2.missingAt g.core t.ptr ls
      q.1 = .at_ ls → q.2.atsRefuses x.l.vif t.ptr = false → q.2.missRoom g.core need = true →
      -- no earlier write of the group to the host's word is still out (R158)
      s.hostWriteAhead r t.entry.seq (if pHost t.ptr then ls.filterMap (fun l => match l with | .mem k => some k | _ => none) else []) = false →
      ((q.2.takeMisses g.core x.l.vif need).pointRead (x.via t.ptr) ls).1 = some bs →
      x.watched s t.ptr true false [{ lane := lowest t.act, j := 0, bit := elemBit t.ptr t.idx }] = none →
      let m := BitVec.ofNat 32 (leNat bs)
      let holds := if t.all then m &&& t.mask = t.mask else match t.cmp with
        | .eq => m = t.v
        | .ne => m ≠ t.v
        | .nem => m &&& t.mask ≠ t.v &&& t.mask
        | .ge => if pFmt t.ptr = 5 then t.v.toInt ≤ m.toInt else t.v.toNat ≤ m.toNat
      ∃ u h e, exec (.waitaRetest r lane) s = .next u ∧ u.group? r = some h ∧ h.frag? lane = some e ∧ e.lanes = f.lanes ∧ e.pc = f.pc ∧
        (holds → e.wait = .no ∧ SameRegs (g.put (.p t.d.val t.act allLanes)) h) ∧
        (¬holds → t.timeout ≤ s.time - t.t0 → e.wait = .no ∧ SameRegs (g.put (.p t.d.val t.act 0)) h) ∧
        (¬holds → s.time - t.t0 < t.timeout → e.wait = .test { t with lastTest := s.time, tests := t.tests + 1, req := none } ∧
          SameRegs g h)

/-! ### Caches and pointers -/

/-- PREF, CMO and LOCQ (R133, R134, R141, R142, R171). A PREF changes no register, no byte of memory and no window, and one to the
L1 asks for both sectors of its line. A CMO past its checks leaves no sector of its range, but for .cln, in a covered level; .cln
leaves what its core sees as it was, in states where a sector that owes poison reads as poison. LOCQ answers with the nearest level that holds the sector, its home and the page.
The model's own choices it rests on are in log entries 34, 141. -/
def Obligations.CacheInstructions : Prop :=
  ∀ (c : Ctl) (l : PrefLevel) (rng : Bool) (p : AReg) (i : Idx) (op : CmoOp) (lv : CmoLevel) (d ix : SReg) (s : State) (x : Ctx),
    let ptr := x.a .a p.val
    let s0 := s.setGroup x.g
    let pass := pValid ptr = true ∧ (pGlobal ptr = true ∨ pHost ptr = true) ∧ unitOk x.g.core x.b ptr = true
    let find := fun (tgt va : Nat) => (s0.translate { vif := x.l.vif, ctx := x.l.ctx, tgt, write := false, quiet := true }
      (coreTlbs x.g.core) (dieOf x.g.core) va).1
    (Issues s (.pref c l rng p i) x → ∃ t g, exec (.pref c l rng p i) s = .next t ∧ t.group? x.c.g = some g ∧ MovedOn x g ∧
      SameRegs x.g g ∧ SameSpecial x.g g ∧ g.flags = x.g.flags ∧ t.hbm = s.hbm ∧ t.host = s.host ∧ t.blocks = s.blocks ∧
      (l = .l1 → rng = true → pass → 0 < pLen ptr →
        ∀ key lv, find (if pHost ptr then 1 else 0) (pBase ptr) = .ok key lv →
        ∃ m ∈ t.mshrs, m.core = x.g.core ∧ m.vif = x.l.vif ∧ m.line = key / 64 ∧ key / 64 * 2 ∈ m.secs ∧ key / 64 * 2 + 1 ∈ m.secs)) ∧
    (Issues s (.cmo c op lv p) x →
      (pValid ptr = false → TrapsAtIssue (.cmo c op lv p) s x .bounds x.act 0) ∧
      (pValid ptr = true → pGlobal ptr = false → pHost ptr = false → TrapsAtIssue (.cmo c op lv p) s x .access x.act 0) ∧
      (pValid ptr = true → (pGlobal ptr = true ∨ pHost ptr = true) → unitOk x.g.core x.b ptr = false →
        TrapsAtIssue (.cmo c op lv p) s x .scope x.act (pUnit ptr)) ∧
      (pass → ∃ t u, exec (.cmo c op lv p) s = .next t ∧ Underway u (.cmo c op lv p) x t (fun y => y.res = [] ∧ y.trap = none ∧ y.doing = .ready) ∧
        t.blocks = s.blocks ∧ (lv ≠ .l2 → t.hbm = s.hbm) ∧
        (op ≠ .cln → ∀ sec whole, (sec, whole) ∈ x.rangeSectors ptr false s0 →
          ∀ v ∈ (corePath x.g.core sec).take (match lv with | .l1 => 1 | .cl => 2 | .rdc => (corePath x.g.core sec).length - 1 | .l2 => 4),
            (t.cache v).holds sec = false) ∧
        (op = .cln → (∀ c ∈ s.caches, ∀ y ∈ c.bad, y.1 ∈ c.poison) → ∀ sec old, seesSector s x.g.core x.l.vif sec = some old → seesSector t x.g.core x.l.vif sec = some old))) ∧
    (Issues s (.locq c d p ix) x → pass →
      let k := (x.s .b ix.val 0).toInt
      (inBounds ptr k 1 = false → TrapsAtIssue (.locq c d p ix) s x .bounds x.act (wrap 64 k)) ∧
      (inBounds ptr k 1 = true → ∃ t w, exec (.locq c d p ix) s = .next t ∧ Started s (.locq c d p ix) x t [.s d.val (BitVec.ofNat 32 w)] 0 none ∧
        (∀ n, find 2 (elemByte ptr k) = .fault n → w = if n = 4 then 0x300 else 0x200) ∧
        ∀ key pg, find 2 (elemByte ptr k) = .ok key pg →
          let sec := key / 32
          let in_ := fun u => (s.cache u).holds sec
          let nearest := if in_ (.l1 x.g.core) then 1 else if in_ (.cl (clusterOf x.g.core)) then 2 else field w 4 3
          field w 8 2 = (if secIsHost sec then 1 else 0) ∧ field w 10 2 = (match pg with | 1 => 0 | 4 => 1 | 2 => 2 | _ => 3) ∧
          field w 4 3 = nearest ∧
          (field w 3 1 = 1 ↔ ∃ b key pg, b < (elemBit ptr k % 8 + ebits (pFmt ptr) + 7) / 8 ∧ find 2 (elemByte ptr k + b) = .ok key pg ∧
            key / 4 ∈ (s.cache (.l1 x.g.core)).owned) ∧
          (secIsHost sec = false → field w 0 2 = homeDie sec ∧ (field w 2 1 = 1 ↔ homeDie sec ≠ dieOf x.g.core))))

/-- PMAKE, PSUB, PADV, PGET, PSETF, PCLASS and PCHK (R100, R106 to R112): what a derived pointer keeps of its source and what it
changes, and when a derivation traps; PCHK's predicate says whether an access at the index would pass its checks.
The model's own choices it rests on are in log entry 140. -/
def Obligations.PointerDerivations : Prop :=
  ∀ (c : Ctl) (d p : AReg) (a : SReg) (adv : PadvArg) (sub : PsubArg),
    let src := fun (x : Ctx) => x.a .a p.val
    let off := fun (x : Ctx) => match sub with | .reg o _ => x.s2 .b o | .imm o _ => o.toNat
    let len := fun (x : Ctx) => match sub with | .reg _ l => x.s2 .c l | .imm _ l => l.toNat
    let by_ := fun (x : Ctx) => match adv with | .reg o => x.s2 .b o | .imm n => n.toNat
    (∀ s x, Issues s (.pmake c d a) x → ∃ t q, exec (.pmake c d a) s = .next t ∧ Done s x t [.a d.val q] ∧ pValid q = pWf q ∧
      (∀ k, k < 128 → k ≠ 63 → q.getLsbD k = (x.s .a a.val (k / 32)).getLsbD (k % 32))) ∧
    Derives (.psub c d p sub) d src (fun x => off x + len x ≤ pLen (src x))
      (fun x q => SameKind (src x) q ∧ pBase q = (pBase (src x) + off x) % 2 ^ 57 ∧ pLen q = len x)
      (fun s x => TrapsAtIssue (.psub c d p sub) s x .bounds x.act 0) ∧
    Derives (.padv c d p adv) d src (fun x => by_ x ≤ pLen (src x))
      (fun x q => SameKind (src x) q ∧ pBase q = (pBase (src x) + by_ x) % 2 ^ 57 ∧ pLen q = pLen (src x) - by_ x)
      (fun s x => TrapsAtIssue (.padv c d p adv) s x .bounds x.act 0) ∧
    (∀ k : BitVec 6, Derives (.psetf c d p (.code k)) d src (fun _ => True)
      (fun x q => pFmt q = k.toNat ∧ pBase q = pBase (src x) ∧ pLen q = pLen (src x) ∧ pSpace q = pSpace (src x) ∧
        pClass q = pClass (src x) ∧ pScope q = pScope (src x) ∧ pSwz q = pSwz (src x) ∧ pUnit q = pUnit (src x)) (fun _ _ => True)) ∧
    (∀ m : BitVec 3, Derives (.psetf c d p (.swz m)) d src (fun _ => True)
      (fun x q => pSwz q = m.toNat ∧ pFmt q = pFmt (src x) ∧ pBase q = pBase (src x) ∧ pLen q = pLen (src x) ∧ pSpace q = pSpace (src x) ∧
        pClass q = pClass (src x) ∧ pScope q = pScope (src x) ∧ pUnit q = pUnit (src x)) (fun _ _ => True)) ∧
    (∀ k : PClass,
      -- the order of R110: synchronising, private, read-shared
      let code := match k with | .priv => 0 | .rs => 1 | .sync => 2
      let rank := fun (v : Nat) => if v = 2 then 0 else if v = 0 then 1 else 2
      Derives (.pclass c k d p) d src (fun x => rank (pClass (src x)) ≤ rank code)
        (fun x q => pClass q = code ∧ pFmt q = pFmt (src x) ∧ pBase q = pBase (src x) ∧ pLen q = pLen (src x) ∧ pSpace q = pSpace (src x) ∧
          pScope q = pScope (src x) ∧ pSwz q = pSwz (src x) ∧ pUnit q = pUnit (src x))
        (fun s x => TrapsAtIssue (.pclass c k d p) s x .cls x.act 0)) ∧
    Yields (.pget c .quad a p) (fun x => (List.range 4).map (fun k => .s (a.val + k) (BitVec.ofNat 32 ((src x).toNat / 2 ^ (32 * k))))) ∧
    Yields (.pget c .base a p) (fun x => uni true a (pBase (src x))) ∧ Yields (.pget c .len a p) (fun x => uni true a (pLen (src x))) ∧
    Yields (.pget c .form a p) (fun x => [.s a.val (BitVec.ofNat 32 (pFmt (src x)))]) ∧
    Yields (.pget c .attr a p) (fun x => [.s a.val (BitVec.ofNat 32 (pSpace (src x) + 2 ^ 3 * pClass (src x) + 2 ^ 5 * pScope (src x) +
      2 ^ 8 * pSwz (src x) + 2 ^ 11 * pUnit (src x) + if pValid (src x) then 2 ^ 19 else 0))]) ∧
    ∀ (st : Bool) (k : Cnt) (e : PReg) (ix : Src), Yields (.pchk c st k e p ix) (fun x => prd x e (fun l =>
      pValid (src x) && !pLaunchScratch (src x) && unitOk x.g.core x.b (src x) && (!st || pClass (src x) != 1) &&
        inBounds (src x) (x.src .b ix 0 l).toInt k.elems))

/-- NARROW and WIDEN (R113 to R117): past its checks it is under way, its pointer the source's with the new scope and this core's
unit of it. NARROW leaves no sector of the range in an inner level of the old scope on this core's path; WIDEN leaves none dirty
in an inner level of the new scope on the path of any core of the old unit.
The model's own choices it rests on are in log entry 141. -/
def Obligations.ScopeChanges : Prop :=
  ∀ (c : Ctl) (k : NarrowTo) (w : WidenTo) (d p : AReg) (s : State) (x : Ctx),
    let ptr := x.a .a p.val
    let s0 := s.setGroup x.g
    let nTo := match k with | .core => 0 | .cl => 1 | .die => 2
    let wTo := match w with | .cl => 1 | .die => 2 | .pkg => 3 | .pod => 4
    let unit := fun sc => if sc = 0 then x.g.core else if sc = 1 then clusterOf x.g.core else if sc = 2 then dieOf x.g.core else 0
    let pass := pValid ptr = true ∧ (pGlobal ptr = true ∨ pHost ptr = true) ∧ unitOk x.g.core x.b ptr = true
    let ptrTo := fun (q : PtrBits) (sc : Nat) => pScope q = sc ∧ pUnit q = unit sc ∧ pBase q = pBase ptr ∧ pLen q = pLen ptr ∧
      pFmt q = pFmt ptr ∧ pSpace q = pSpace ptr ∧ pClass q = pClass ptr ∧ pSwz q = pSwz ptr ∧ pValid q = pWf q
    let stops := fun (i : Instr) => ∃ u, exec i s = .next (x.fail s u) ∧
      (pValid ptr = false → u.cause = .bounds) ∧ (pValid ptr = true → u.cause = .scope ∧ u.info = BitVec.ofNat 64 (pUnit ptr))
    let does := fun (i : Instr) (sc : Nat) (t : State) => exec i s = .next t ∧ t.hbm = s.hbm ∧ t.blocks = s.blocks ∧
      ∃ u q, ptrTo q sc ∧ Underway u i x t (fun y => y.res = [.a d.val q] ∧ y.trap = none ∧ y.doing = .ready)
    (Issues s (.narrow c k d p) x →
      (pass → nTo < pScope ptr → (pHost ptr = true → 3 ≤ nTo) → ∃ t, does (.narrow c k d p) nTo t ∧
        ∀ sec whole, (sec, whole) ∈ x.rangeSectors ptr true s0 →
          ∀ v ∈ (corePath x.g.core sec).take (innerCount (pScope ptr) (corePath x.g.core sec)), (t.cache v).holds sec = false) ∧
      (¬(pass ∧ nTo < pScope ptr ∧ (pHost ptr = true → 3 ≤ nTo)) → stops (.narrow c k d p))) ∧
    (Issues s (.widen c w d p) x →
      (pass → pScope ptr < wTo → (pHost ptr = true → 3 ≤ wTo) → ∃ t, does (.widen c w d p) wTo t ∧
        ∀ core, (pScope ptr = 0 → core = pUnit ptr) → (pScope ptr = 1 → core ∈ coresOfCluster (pUnit ptr)) →
          (2 ≤ pScope ptr → core < 64 ∧ dieOf core = if pScope ptr = 2 then pUnit ptr else dieOf x.g.core) →
          ∀ sec whole, (sec, whole) ∈ x.rangeSectors ptr true s0 →
            ∀ v ∈ (corePath core sec).take (innerCount wTo (corePath core sec)), (t.cache v).dirty sec = []) ∧
      (¬(pass ∧ pScope ptr < wTo ∧ (pHost ptr = true → 3 ≤ wTo)) → stops (.widen c w d p)))

/-! ### Copies and queues -/

/-- CPY and CPYRD (R172 to R187, Tables 8-3 and 8-4), and the engine's work. With no leader the instruction does nothing; past its
checks it is accepted with what it names, and registers stand. A chunk of a .ld fills the bytes out of range, in its window, and
then has its bit set; with every bit set and none ordered before it the notify word is written or added to, and the copy is over.
A chunk that faults waits on its fault record. Held payload reaches the window of a block that has started.
The model's own choices it rests on are in log entries 53, 54, 58. -/
def Obligations.Copies : Prop :=
  (∀ (c : Ctl) (op : CpyrdOp) (a : CpyArgs) (s : State) (x : Ctx) (i : Instr) (k : CopyOp),
    (i = .cpyLd c a ∧ k = .ld) ∨ (i = .cpySt c a ∧ k = .st) ∨ (i = .cpyrd c op a ∧ k = .rd op) → Issues s i x →
    (x.leader a.pL = none → ∃ t, exec i s = .next t ∧ Done s x t []) ∧
    ∀ lead, x.leader a.pL = some lead →
      let y := x.alone lead
      let r := x.a .a a.aR.val
      let q := x.locate (pSet r 103 6 0) false ((List.range 64).map (fun k => ({ lane := lead, j := k, bit := 8 * (pBase r + k) } : Elem)))
        (s.setGroup x.g)
      let got := q.2.readLocs (x.via r) ((foundAt q.1).flatMap (·.2))
      (pValid r = false → ∃ u, u.cause = .bounds ∧ u.lanes = oneLane lead ∧ exec i s = .next (x.fail s u)) ∧
      (y.checkPtr (s.setGroup x.g) r (pGlobal r || pHost r || pOwnScratch r) false = .ok () → pBase r % 64 ≠ 0 →
        ∃ u, u.cause = .align ∧ u.lanes = oneLane lead ∧ exec i s = .next (x.fail s u)) ∧
      (y.checkPtr (s.setGroup x.g) r (pGlobal r || pHost r || pOwnScratch r) false = .ok () → pBase r % 64 = 0 → 64 ≤ pLen r →
        x.inWindow r (pBase r) 64 = true → AllFound q.1 → q.2.atsRefuses x.l.vif r = false → ∀ bs, got.1 = some bs →
        let lay := layoutOf (leNat bs)
        let coords := (List.range lay.ndim).map (fun k => (x.s .b a.sC.val k).toInt)
        let wf := layoutWf (leNat bs) coords = true ∧ a.sC.val + lay.ndim ≤ 128
        (¬wf → ∃ u, u.cause = .illegal ∧ u.lanes = oneLane lead ∧ exec i s = .next (x.fail s u)) ∧
        (wf → y.tensorChecks got.2 k lay coords = .ok () →
          y.tileChecks got.2 k lay (x.a .d a.aT.val) (x.a .c a.aB.val) (a.notify.map (fun n => x.a .d n.aN.val)) = .ok () →
          ∃ t e, exec i s = .next t ∧
            DoneFrom { got.2 with serial := got.2.serial + 1, copies := got.2.copies ++ [e] } x t x.g [] ∧
            e.id = got.2.serial ∧ e.g = x.c.g ∧ e.lead = lead ∧ e.op = k ∧ e.ord = a.ord ∧ e.lay = lay ∧ e.coords = coords ∧
            e.chunks = (lay.bytes + 511) / 512 ∧ e.cluster = clusterOf x.g.core ∧ e.tile = x.a .d a.aT.val ∧ e.bitmap = x.a .c a.aB.val ∧
            e.moved = [] ∧ e.done = [] ∧ e.into = [] ∧ e.notify.map (·.v) = a.notify.map (fun n => x.s .d n.sV.val 0)))) ∧
  (∀ (s : State) (id k : Nat) (c : Copy), s.copy? id = some c → s.copies.Pairwise (fun a b => a.id ≠ b.id) → c.idle k = true →
    -- a chunk of a .ld lands
    (c.op = .ld → c.moved.contains k = false → c.remote s = false → s.unstarted c.tileAt.b = false →
      (c.locate s false (c.inRange k)).1.2 = .none → (c.locate s false (c.inRange k)).2.atsRefuses c.vif c.lay.tensor = false →
      let at_ := (c.locate s false (c.inRange k)).1.1
      let r := at_.foldl (fun (acc : List (Nat × Option Byte) × State) (y : Nat × Nat) =>
        (acc.1 ++ [(y.1, (c.read acc.2 y.2).1)], (c.read acc.2 y.2).2)) ([], (c.locate s false (c.inRange k)).2)
      let byte := fun (n : Nat) => match c.lay.byteAt c.coords n with
        | .error v => some v | .ok _ => (r.1.find? (fun y => y.1 == n)).bind (·.2)
      ∃ t d, exec (.copyChunkDone id k) s = .next t ∧ t.copy? id = some d ∧ k ∈ d.moved ∧ d.done = c.done ∧ t.groups = s.groups ∧ t.hbm = s.hbm ∧
        ((∀ m ∈ c.bytesOf k, byte m ≠ none) →
          ∀ b j, b ≠ c.tileAt.b ∨ j ∉ (c.bytesOf k).map c.tileKey → t.winRead b j = s.winRead b j) ∧
        ∀ n v b, n ∈ c.bytesOf k → byte n = some v → (∀ m ∈ c.bytesOf k, byte m ≠ none) → ((c.bytesOf k).map c.tileKey).Nodup →
          s.block? c.tileAt.b = some b → b.place ≠ .exited → b.winPoison.contains (c.tileKey n / 32) = false →
          t.winRead c.tileAt.b (c.tileKey n) = some v) ∧
    -- its bit is set
    (c.moved.contains k = true → c.ordered s = false → s.unstarted c.bitmapAt.b = false → ∀ old,
      let keys := (List.range 4).map (fun j => winKey c.bitmapAt.pos (pSwz c.bitmap) (pBase c.bitmap + 4 * (k / 32) + j))
      keys.map (fun j => s.winRead c.bitmapAt.b j) = old.map some → keys.Nodup → (∃ b, s.block? c.bitmapAt.b = some b ∧ b.place ≠ .exited) →
      ∃ t, exec (.copyChunkDone id k) s = .next t ∧
        keys.map (fun j => t.winRead c.bitmapAt.b j) = (leBytes 4 (leNat old ||| 2 ^ (k % 32))).map some ∧
        (∃ m ∈ t.landed, m.b = c.bitmapAt.b ∧ some m.key = keys.head? ∧ m.bit = k % 32 ∧ m.scope = pScope c.lay.tensor ∧ m.secs = c.landed k) ∧
        (c.done.length + 1 = c.chunks → c.notify = none → t.copy? id = none) ∧
        (c.done.length + 1 ≠ c.chunks ∨ c.notify ≠ none → ∃ d, t.copy? id = some d ∧ d.done = k :: c.done)) ∧
    -- it faults
    (c.moved.contains k = false → c.remote s = false → (c.op = .ld ∨ s.unstarted c.tileAt.b = false) →
      ∀ fs, (c.locate s true (c.inRange k)).1.2 = .faults fs → fs ≠ [] →
      ∃ t d, exec (.copyFault id k) s = .next t ∧ t.copy? id = some d ∧ (∃ tag, (k, tag) ∈ d.susp ∧ ∃ f ∈ (t.vif c.vif).faults, f.tag = tag) ∧
        d.moved = c.moved ∧ t.groups = s.groups ∧ t.blocks = s.blocks)) ∧
  (∀ (s : State) (id : Nat) (c : Copy) (n : CopyNotify) (old : List Byte), s.copy? id = some c → c.notify = some n →
    c.done.length = c.chunks → c.ordered s = false → s.unstarted n.at_.b = false →
    let keys := (List.range 4).map (fun j => winKey n.at_.pos (pSwz n.ptr) (pBase n.ptr + j))
    keys.map (fun j => s.winRead n.at_.b j) = old.map some → keys.Nodup → (∃ b, s.block? n.at_.b = some b ∧ b.place ≠ .exited) →
    ∃ t, exec (.copyNotifyWrite id) s = .next t ∧ t.copy? id = none ∧
      keys.map (fun j => t.winRead n.at_.b j) =
        (leBytes 4 (if n.add then (leNat old + n.v.toNat) % 2 ^ 32 else n.v.toNat)).map some) ∧
  (∀ (s : State) (b : BRef), s.unstarted b = false → s.copies.Pairwise (fun a b => a.id ≠ b.id) → ∃ t, exec (.heldCopyApply b) s = .next t ∧
    (∀ c ∈ t.copies, c.tileAt.b = b → c.held = []) ∧ t.copies.length = s.copies.length ∧ t.groups = s.groups ∧ t.hbm = s.hbm) ∧
  -- the elements that CPYRD combines
  ∀ (old v : Nat) (flush : Bool), old < 2 ^ 32 → v < 2 ^ 32 →
    rdNew .add 4 flush old v = (old + v) % 2 ^ 32 ∧ rdNew .min 4 flush old v = min old v ∧ rdNew .max 4 flush old v = max old v ∧
    BitVec.ofNat 32 (rdNew .min 5 flush old v) =
      (if (BitVec.ofNat 32 old).toInt ≤ (BitVec.ofNat 32 v).toInt then BitVec.ofNat 32 old else BitVec.ofNat 32 v) ∧
    rdNew .and 4 flush old v = old &&& v ∧ rdNew .or 4 flush old v = old ||| v ∧
    rdNew .add 0x0A flush old v = atomfNew .add flush old v

/-- ENQ, DEQ and the wake of a DEQ (R193 to R195). Past its checks, an ENQ that finds room writes its entry behind the tail and
moves the tail on, and its predicate will be true; one that finds none changes nothing but its predicate. A DEQ takes the head
entry, or sleeps where the queue is empty or others wait; a sleeping one takes its entry when its turn comes. The header's range
checks trap ACCESS. -/
def Obligations.Queues : Prop :=
  ∀ (c : Ctl) (k : QWords) (pd : PReg) (d : SReg) (aq : AReg) (v : SReg) (s : State) (x : Ctx),
    let p := x.a .a aq.val
    let n := match k with | .w1 => 1 | .w2 => 2 | .w4 => 4
    let s0 := s.setGroup x.g
    let q := x.locate (pSet p 103 6 0) true (x.qElems p 0 64) s0
    let via : Via := { core := x.g.core, vif := x.l.vif, sync := true, scope := 3 }
    let key := match (foundAt q.1).flatMap (·.2) with | .mem a :: _ => a | _ => 0
    let got := q.2.pointRead via ((foundAt q.1).flatMap (·.2))
    let pass := x.checkPtr s0 p (pGlobal p && pScope p == 3 && pFmt p == 4) true = .ok () ∧ pBase p % 64 = 0 ∧ 64 ≤ pLen p ∧ AllFound q.1
    let head := fun (bs : List Byte) => field (leNat bs) 0 32
    let tail := fun (bs : List Byte) => field (leNat bs) 32 32
    let cap := fun (bs : List Byte) => 2 ^ field (leNat bs) 88 8
    let ok := fun (bs : List Byte) => field (leNat bs) 64 24 = 0 ∧ field (leNat bs) 104 408 = 0 ∧ field (leNat bs) 88 8 ≤ 20 ∧
      field (leNat bs) 96 8 = n
    let fits := fun (bs : List Byte) => 64 + cap bs * (4 * n) ≤ pLen p
    let place := fun (bs : List Byte) (j : Nat) => 64 + j % cap bs * (4 * n)
    (∀ i, i = .enq c k pd aq v ∨ i = .deq c k d aq → Issues s i x →
      (pValid p = false → TrapsAtIssue i s x .bounds x.act 0) ∧
      (pass → ∀ bs, got.1 = some bs → ¬ok bs → ∃ u, u.cause = .access ∧ u.lanes = x.act ∧ exec i s = .next (x.fail s u)) ∧
      (pass → ∀ bs, got.1 = some bs → ok bs → ¬fits bs → ∃ u, u.cause = .bounds ∧ u.lanes = x.act ∧ exec i s = .next (x.fail s u))) ∧
    (Issues s (.enq c k pd aq v) x → pass → ∀ bs, got.1 = some bs → ok bs → fits bs →
      (cap bs ≤ (tail bs + 2 ^ 32 - head bs) % 2 ^ 32 → ∃ t, exec (.enq c k pd aq v) s = .next t ∧
        Underway got.2 (.enq c k pd aq v) x t (fun y => y.res = [.p pd.val x.act 0] ∧ y.trap = none)) ∧
      ((tail bs + 2 ^ 32 - head bs) % 2 ^ 32 < cap bs →
        let e := x.locate (pSet p 103 6 0) true (x.qElems p (place bs (tail bs)) (4 * n)) got.2
        AllFound e.1 →
        let to_ := match (foundAt e.1).flatMap (·.2) with | .mem a :: _ => a | _ => 0
        let words := (List.range n).flatMap (fun j => leBytes 4 (x.s .b v.val j).toNat)
        ∃ t, exec (.enq c k pd aq v) s = .next t ∧
          Underway (((e.2.release x.g.core 3).hostStore via to_ words).hostStore via (key + 4) (leBytes 4 ((tail bs + 1) % 2 ^ 32)))
            (.enq c k pd aq v) x t (fun y => y.res = [.p pd.val x.act allLanes] ∧ y.trap = none))) ∧
    (Issues s (.deq c k d aq) x → x.c.inj = none → pass → ∀ bs, got.1 = some bs → ok bs → fits bs →
      (head bs = tail bs ∨ got.2.deqWaiters key ≠ [] → ∃ t e, exec (.deq c k d aq) s = .next t ∧ t.hbm = s.hbm ∧ t.caches = got.2.caches ∧
        Sleeps x t (.deq p key n d s.tick e x.stand) ∧ e = x.entry (.deq c k d aq)) ∧
      (head bs ≠ tail bs → got.2.deqWaiters key = [] →
        let e := x.locate (pSet p 103 6 0) false (x.qElems p (place bs (head bs)) (4 * n)) got.2
        let r := e.2.pointRead via ((foundAt e.1).flatMap (·.2))
        AllFound e.1 → ∀ ws, r.1 = some ws → ∃ t, exec (.deq c k d aq) s = .next t ∧
          DoneFrom ((r.2.hostStore via key (leBytes 4 ((head bs + 1) % 2 ^ 32))).acquire x.g.core 3) x t x.g
            ((List.range n).map (fun j => .s (d.val + j) (BitVec.ofNat 32 (leNat ((ws.drop (4 * j)).take 4))))))) ∧
    ∀ (r : GRef) (lane : Nat) (g : Group) (f : Frag) (key : Nat) (kk o : Nat) (e : Entry) (st : Option FragAt) (h : QHead) (y : Ctx) (ls : List Loc)
      (ws : List Byte), s.group? r = some g → g.frag? lane = some f → f.wait = .deq p key kk d o e st → s.deqReady g key o = some h →
      s.entryCtx g f e = some y → (y.find (pSet p 103 6 0) false (pBase p + h.entry h.head) (4 * h.ew) s).1 = .at_ ls →
      ((y.find (pSet p 103 6 0) false (pBase p + h.entry h.head) (4 * h.ew) s).2.pointRead y.homeVia ls).1 = some ws →
      ∃ t u w, exec (.deqWake r lane) s = .next t ∧ t.group? r = some u ∧ u.frag? lane = some w ∧ w.wait = .no ∧ w.pc = f.pc ∧ w.lanes = f.lanes ∧
        SameRegs (((List.range h.ew).map (fun j => Res.s (d.val + j) (BitVec.ofNat 32 (leNat ((ws.drop (4 * j)).take 4))))).foldl Group.put g) u

/-! ### The matrix unit -/

/-- The tile instructions (R297 to R310, R332, R333, R343, R344). Each that passes its checks issues into its quad's queue, with
registers and memory as they were. Where nothing stands before it in the queue and no lineage is live, it takes its place at once:
MZERO, TSCALE, TADD and MLOAD write their tile and no other; MDRAIN.reg is ready with the tile's columns; MDRAIN.mem stores
the tile's elements; MDRAIN.add sends the tile to its target; MPUB publishes its tile; SETTLE is ready. An MLOOP with no adapters
stands in the queue with its job. MSTAT and LINQ answer with the words of Tables 13-5 and 15-3.
The model's own choices it rests on are in log entries 59, 60, 152, 153. -/
def Obligations.TileInstructions : Prop :=
  ∀ (c : Ctl) (d a b : TReg) (sr : SReg) (v : VReg) (p : AReg) (i r : SReg) (k : Slot) (rm : Rm) (nosat : Bool) (m1 : Fin 16)
    (sf : SettleForm) (m : MloopArgs) (s : State) (x : Ctx),
    let s0 := s.setGroup x.g
    let tile := fun (n : Nat) => ({ b := x.c.g.b, gang := x.c.g.gang, t := n } : TileRef)
    let free := (s.quadOf x.g.core x.g.quad).queue = [] ∧ s.lineages = [] ∧ ∀ o ∈ s.allOps, o.id < s.serial
    let lo := (x.s .b i.val 0).toInt
    let stride := (x.s .c r.val 0).toNat
    let window := fun (ptr : PtrBits) (q c j : Nat) =>
      winKey (spotOf x.b x.g.core ptr).pos (pSwz ptr) (elemByte ptr (lo + ((q * stride + c : Nat) : Int)) + j)
    let others := fun (t : State) (n : Nat) => ∀ q u w, q < 16 → q ≠ n → u < 64 → w < 16 → t.tileAt (tile q) u w = s.tileAt (tile q) u w
    (Issues s (.mzero c d) x → ∃ t, exec (.mzero c d) s = .next t ∧ Issued (.mzero c d) s x t ∧
      (free → others t d.val ∧ ∀ u w, u < 64 → w < 16 → t.tileAt (tile d.val) u w = 0)) ∧
    (Issues s (.tscale c d a sr) x → ∃ t, exec (.tscale c d a sr) s = .next t ∧ Issued (.tscale c d a sr) s x t ∧
      (free → others t d.val ∧ ∀ u w, u < 64 → w < 16 → BitVec.ofNat 32 (t.tileAt (tile d.val) u w) =
        BitVec.ofNat 32 (sumNe [FVal.prod (fp32.value (x.s .c sr.val 0).toNat) (fp32.value (s.tileAt (tile a.val) u w))]))) ∧
    (Issues s (.tadd c d a b sr) x → ∃ t, exec (.tadd c d a b sr) s = .next t ∧ Issued (.tadd c d a b sr) s x t ∧
      (free → others t d.val ∧ ∀ u w, u < 64 → w < 16 → BitVec.ofNat 32 (t.tileAt (tile d.val) u w) =
        BitVec.ofNat 32 (sumNe [FVal.prod (fp32.value (x.s .c sr.val 0).toNat) (fp32.value (s.tileAt (tile a.val) u w)),
          FVal.prod (fp32.value (x.s .c sr.val 1).toNat) (fp32.value (s.tileAt (tile b.val) u w))]))) ∧
    (Issues s (.mload c d p i r) x →
      let ptr := x.a .a p.val
      let n := ebits (pFmt ptr) / 8
      x.tileSpan s0 ptr (pFmt ptr == 0x0A || pFmt ptr == 8 || pFmt ptr == 9) false i r = .ok (lo, stride) →
      ∃ t, exec (.mload c d p i r) s = .next t ∧ Issued (.mload c d p i r) s x t ∧
        (free → pOwnScratch ptr = true → ∀ data : Nat → Nat → List Byte,
          (∀ u w, u < 64 → w < 16 → (List.range n).map (fun j => s.winRead (spotOf x.b x.g.core ptr).b (window ptr u w j)) = (data u w).map some) →
          others t d.val ∧ ∀ u w, u < 64 → w < 16 → BitVec.ofNat 32 (t.tileAt (tile d.val) u w) =
            BitVec.ofNat 32 (mloadValue (pFmt ptr) (leNat (data u w))))) ∧
    (Issues s (.mdrainReg c v a) x → ∃ t, exec (.mdrainReg c v a) s = .next t ∧ Issued (.mdrainReg c v a) s x t ∧
      (free → ∃ g y, t.group? x.c.g = some g ∧ y ∈ g.pend ∧ y.entry = x.entry (.mdrainReg c v a) ∧ y.doing = .ready ∧
        y.res = (List.range 16).map (fun w => .v (v.val + w) allLanes (mkRow (fun u => BitVec.ofNat 32 (s.tileAt (tile a.val) u w)))))) ∧
    (Issues s (.mdrainMem c k rm nosat p a i r) x →
      let ptr := x.a .d p.val
      let f := (x.slot k).fmt
      f = 0x0A ∨ f = 8 ∨ f = 9 ∨ f = 0x0C ∨ f = 0x0D → (x.slot k).scale = 0 →
      x.tileSpan s0 ptr (pFmt ptr == f) true i r = .ok (lo, stride) →
      ∃ t, exec (.mdrainMem c k rm nosat p a i r) s = .next t ∧ Issued (.mdrainMem c k rm nosat p a i r) s x t ∧
        (free → pOwnScratch ptr = true → x.b.place ≠ .exited → (spotOf x.b x.g.core ptr).b = x.c.g.b →
          (∀ u w j u' w' j', u < 64 → w < 16 → j < ebits f / 8 → u' < 64 → w' < 16 → j' < ebits f / 8 →
            window ptr u w j = window ptr u' w' j' → u = u' ∧ w = w' ∧ j = j') →
          (∀ z y, z ≠ x.c.g.b ∨ (∀ u w j, u < 64 → w < 16 → j < ebits f / 8 → y ≠ window ptr u w j) → t.winRead z y = s.winRead z y) ∧
          ∀ u w j, u < 64 → w < 16 → j < ebits f / 8 → x.b.winPoison.contains (window ptr u w j / 32) = false →
            t.winRead x.c.g.b (window ptr u w j) =
              some (BitVec.ofNat 8 (cvt (.flt (fmtFloat f)) (.flt fp32) rm nosat x.l.flush (s.tileAt (tile a.val) u w) / 2 ^ (8 * j))))) ∧
    (Issues s (.mdrainAdd c a sr) x →
      let w := x.s2 .b sr
      let far := field w 48 1 = 1 ∧ field w 36 12 ≠ x.l.rank
      (x.addOk s0 w = false → TrapsAtIssue (.mdrainAdd c a sr) s x .access x.act 0) ∧
      (x.addOk s0 w = true → (far → s.portsFailed.length < 12) → ∃ t, exec (.mdrainAdd c a sr) s = .next t ∧ Issued (.mdrainAdd c a sr) s x t ∧
        (free → ∃ y ∈ t.tileAdds, y.g = x.c.g ∧ y.kind = .plain ∧ y.tgt = { b := ⟨x.c.g.b.launch, field w 0 24⟩, gang := field w 24 8, t := field w 32 4 } ∧
          (∀ u z, u < 64 → z < 16 → mapAt y.vals u z = s.tileAt (tile a.val) u z) ∧
          (far → y.out = true ∧ y.rank = some (field w 36 12)) ∧ (¬far → y.out = false ∧ y.rank = none)))) ∧
    (Issues s (.mpub c d m1) x → ∃ t, exec (.mpub c d m1) s = .next t ∧ Issued (.mpub c d m1) s x t ∧
      (free → ∃ l ∈ t.lineages, l.core = x.g.core ∧ l.root = tile d.val ∧ l.remote = false ∧ l.opens = m1.val + 1 ∧ l.tag < 64)) ∧
    (Issues s (.settle c sf) x → ∃ t, exec (.settle c sf) s = .next t ∧ Issued (.settle c sf) s x t ∧
      (free → ∃ g y, t.group? x.c.g = some g ∧ y ∈ g.pend ∧ y.entry = x.entry (.settle c sf) ∧ y.doing = .ready)) ∧
    (Issues s (.mloop c m) x →
      let j := x.mjob m
      (x.mloopShape j = false → TrapsAtIssue (.mloop c m) s x .illegal x.act 0) ∧
      (x.mloopShape j = true → x.mloopReads s0 j = .ok () → (∀ n ∈ j.ids, n = 0) →
        ∃ t, exec (.mloop c m) s = .next t ∧ Issued (.mloop c m) s x t ∧
          (free → ∃ o ∈ (t.quadOf x.g.core x.g.quad).queue, o.g = x.c.g ∧ o.job = j.job ∧ o.step = 0 ∧ o.begun = false ∧ o.suspended = false ∧
            o.locked = true))) ∧
    (Issues s (.mstat c sr a) x → ∃ t w, exec (.mstat c sr a) s = .next t ∧
      Started s (.mstat c sr a) x t [.s sr.val (BitVec.ofNat 32 w)] 0 none ∧
      ((s.tileInfo (tile a.val)).done < 512 → field w 16 16 = (s.tileInfo (tile a.val)).radd % 65536 ∧ field w 7 9 = (s.tileInfo (tile a.val)).done) ∧
      (field w 5 1 = 1 ↔ ∃ u z, u < 64 ∧ z < 16 ∧ fp32.isNan (s.tileAt (tile a.val) u z) = true) ∧
      (field w 3 1 = 1 ↔ ∃ l ∈ s.lineages, l.holds (tile a.val) = true ∧ l.settled = false)) ∧
    (Issues s (.linq c sr a) x → ∃ t w, exec (.linq c sr a) s = .next t ∧
      Started s (.linq c sr a) x t [.s sr.val (BitVec.ofNat 32 w)] 0 none ∧
      ((s.lineages.filter (fun (l : Lineage) => l.core == x.g.core && !l.settled)).length < 128 →
        field w 0 7 = (s.lineages.filter (fun (l : Lineage) => l.core == x.g.core && !l.settled)).length ∧
        ((∀ l ∈ s.lineages, l.holds (tile a.val) = true → l.settled = true) → field w 24 2 = 0) ∧
        ∀ l, s.lineageOf (tile a.val) = some l → l.tag < 64 → l.depth a.val < 8 → l.deps a.val < 8 →
        field w 26 6 = l.tag ∧ field w 18 3 = l.deps a.val ∧ field w 21 3 = l.depth a.val ∧
        field w 24 2 = (if l.root = tile a.val then (if l.remote then 3 else 1) else 2)))

/-- What goes on at a quad (R296, R301 to R303, R308, R335 to R341, R461). A step of an MLOOP adds each block sum to its element of
the destination, or of the Δ that it adds to, and is counted, or, where its residue check fails, adds nothing and suspends it; an
access that stops a quad's instruction suspends it; an add that
reaches its tile adds each element and is counted; a complete Δ enters its root; and a settled lineage is gone. The quads go on
from each.
The model's own choices it rests on are in log entries 44, 59, 61, 160. -/
def Obligations.TileProgress : Prop :=
  (∀ (s s1 s2 : State) (core quad : Nat) (o : TileOp) (j : MJob) (x : Ctx) (vs : List Nat) (us : Sparse Word × Lanes),
    s.nextMloop core quad = some (o, j, s1) → s1.opCtx o = some x → s1.stepSums x o j o.step = (.ok (vs, us), s2) →
    (s2.block? o.g.b).isSome = true → vs.length = 1024 →
    -- a residue check that fails discards the step
    ((x.blockCheck j.x.rc s2).1 = false → s2.op? o.id = some o → (∃ g, s2.group? o.g = some g ∧ g.frags ≠ []) →
      ∃ (u : State) (n : TileOp), exec (.mloopStep core quad) s = .next (u.advanceCore core) ∧ u.op? o.id = some n ∧ n.suspended = true ∧
        n.step = o.step ∧ n.job = o.job ∧ ∀ r i k, u.tileAt r i k = s2.tileAt r i k) ∧
    ((x.blockCheck j.x.rc s2).1 = true → (∃ g, s2.group? o.g = some g ∧ g.retired = false ∧ (g.frags ≠ [] ∨ (s2.op? o.id = some o ∧ o.locked = true))) →
    ∃ u : State, exec (.mloopStep core quad) s = .next (u.advanceCore core) ∧ (u.tileInfo (o.tile j.x.d.val)).done = o.step + 1 ∧
      (o.delta = none → ∀ r k, r < 64 → k < 16 → BitVec.ofNat 32 (u.tileAt (o.tile j.x.d.val) r k) =
        BitVec.ofNat 32 (addNe (s2.tileAt (o.tile j.x.d.val) r k) (vs.getD (16 * r + k) 0))) ∧
      ∀ tag l, o.delta = some tag → s2.lineage? core tag = some l → ∃ n, u.lineage? core tag = some n ∧
        ∀ r k, r < 64 → k < 16 → BitVec.ofNat 32 (mapAt n.delta r k) = BitVec.ofNat 32 (addNe (mapAt l.delta r k) (vs.getD (16 * r + k) 0)))) ∧
  (∀ (s t : State) (core quad rank : Nat) (o : TileOp) (e : Stop) (x : Ctx), s.loopStop core quad = some (o, rank, e, t, x) →
    t.op? o.id = some o → (∃ g, t.group? o.g = some g ∧ g.frags ≠ []) → ∃ (u : State) (n : TileOp), exec (.mloopSuspend core quad) s = .next (u.advanceCore core) ∧ u.op? o.id = some n ∧ n.suspended = true ∧
      n.step = o.step ∧ n.job = o.job) ∧
  (∀ (s t : State) (core quad rank : Nat) (o : TileOp) (kind : AccKind) (e : Stop) (x : Ctx),
    s.quadStop core quad = some (o, kind, rank, e, t, x) → t.op? o.id = some o →
    (∃ g, t.group? o.g = some g ∧ g.frags ≠ []) →
    ∃ (u : State) (n : TileOp), exec (.quadAccessFault core quad) s = .next (u.advanceCore core) ∧ u.op? o.id = some n ∧ n.suspended = true ∧ n.job = o.job) ∧
  (∀ (s : State) (id : Nat) (y : TileAdd) (b : Block) (l : Launch),
    s.block? y.tgt.b = some b → b.place ≠ .exited → s.launch? y.tgt.b.launch = some l → y.tgt.b.block < l.nblk → y.tgt.gang < l.gangs →
    y.tgt.t < l.hdr.tiles → s.tileBusy y.tgt = false → y.out = false →
    -- a Δ that is complete goes into its root before the adds that land after it (R341)
    (∀ p, s.lineageOf y.tgt = some p → p.root = y.tgt → s.deltaDone p = false) →
    let lands := fun (u : State) => (u.tileInfo y.tgt).radd = (s.tileInfo y.tgt).radd + 1 ∧
      ∀ r k, r < 64 → k < 16 → BitVec.ofNat 32 (u.tileAt y.tgt r k) = BitVec.ofNat 32 (addNe (s.tileAt y.tgt r k) (mapAt y.vals r k))
    (s.tileAdds.find? (fun a => a.id == id && !a.out && (match a.kind with | .second _ => true | _ => false) == false) = some y → y.kind = .plain →
      (∀ src, y.src = some src → ∃ u : State, exec (.remoteTileAdd id) s = .next (u.wakeTile y.tgt) ∧ lands u ∧
        u.sent = s.sent ++ [.answer src.1 y.jobKey src.2 (.performed [])]) ∧
      (y.src = none → s.allOps.all (fun o => o.sent != some id) = true → y.id = id → ∃ u : State, exec (.remoteTileAdd id) s = .next (u.wakeTile y.tgt) ∧ lands u)) ∧
    (∀ first src, s.tileAdds.find? (fun a => a.id == id && !a.out && (match a.kind with | .second _ => true | _ => false)) = some y →
      y.kind = .second first → y.src = some src → y.rank = none → ∃ u : State, exec (.correctionAdd id) s = .next (u.wakeTile y.tgt) ∧ lands u ∧
        u.sent = s.sent ++ [.answer src.1 y.jobKey src.2 (.performed [])])) ∧
  ∀ (s : State) (core tag : Nat) (l : Lineage), s.lineage? core tag = some l →
    (s.deltaDone l = true → s.tileRead l.root = false → (s.block? l.root.b).isSome = true →
      ∃ (u : State) (n : Lineage), exec (.lineageCorrection core tag) s = .next (u.advanceCore core) ∧ u.lineage? core tag = some n ∧ n.complete = true ∧
        ∀ r k, r < 64 → k < 16 → BitVec.ofNat 32 (u.tileAt l.root r k) = BitVec.ofNat 32 (addNe (s.tileAt l.root r k) (mapAt l.delta r k))) ∧
    (l.settled = true → ∃ u : State, exec (.lineageSettle core tag) s = .next ((u.advanceCore core).settleBlock l.root.b) ∧ u.lineage? core tag = none ∧
      u.quads = s.quads ∧ u.blocks = s.blocks)

/-- AFLUSH, APREF, ASTAT, the fill of an MLOOP.ad's chunks and the replay of its rows (R318 to R328). An AFLUSH drops every chunk
that it names and no MLOOP pins, and no other; an APREF of an entry that fails a check changes no chunk; ASTAT answers with the
words of Tables 14-4 and 14-5; a fill that ends leaves its rows to be replayed, and a row whose term is formed is owed no more.
The model's own choices it rests on are in log entries 69, 70. -/
def Obligations.AdapterInstructions : Prop :=
  (∀ (c : Ctl) (f : AflushForm) (fp : AprefForm) (d i : SReg) (s : State) (x : Ctx),
    let id := match f with | .id r => some ((x.s .a r.val 0).toNat % 65536) | .all => none
    let named := fun (k : AChunk) => k.core = x.g.core ∧ k.vif = x.l.vif ∧ k.ctx = x.l.ctx ∧ k.dir = pBase x.l.adirPtr ∧
      ∀ n, id = some n → k.id = n
    let pid := match fp with | .a r _ _ => (x.s .a r.val 0).toNat | .b r _ => (x.s .a r.val 0).toNat
    let q := x.peekEntry pid (s.setGroup x.g)
    let n := (x.s .a i.val 0).toNat % 65536
    let e := x.peekEntry n (s.setGroup x.g)
    let mine := fun (k : AChunk) => k.core == x.g.core && k.vif == x.l.vif && k.ctx == x.l.ctx && k.dir == pBase x.l.adirPtr
    (Issues s (.aflush c f) x → ∃ t u, exec (.aflush c f) s = .next t ∧ Underway u (.aflush c f) x t (fun p => p.doing = .aflush id) ∧
      u = { s.setGroup x.g with chunks := u.chunks } ∧
      (∀ k, k ∈ t.chunks ↔ (k ∈ s.chunks ∧ ¬named k) ∨ ∃ y ∈ s.chunks, named y ∧ y.pinned = true ∧ k = { y with doomed := true })) ∧
    (Issues s (.apref c fp) x → ∃ t g, exec (.apref c fp) s = .next t ∧ t.group? x.c.g = some g ∧ MovedOn x g ∧ SameRegs x.g g ∧
      SameSpecial x.g g ∧ g.flags = x.g.flags ∧ t.hbm = s.hbm ∧ t.blocks = s.blocks ∧
      ((q.1 = none ∨ ∃ y, q.1 = some y ∧ (x.entryOk y = false ∨ x.adForm y.1.aptr (x.adFmt y.1) = false ∨ x.adForm y.1.bptr (x.adFmt y.1) = false)) →
        t.chunks = s.chunks)) ∧
    (Issues s (.astat c (.id d i)) x → ∃ t w, exec (.astat c (.id d i)) s = .next t ∧
      Underway e.2 (.astat c (.id d i)) x t (fun p => p.res = [.s d.val (BitVec.ofNat 32 w)] ∧ p.trap = none ∧ p.doing = .ready) ∧
      field w 0 7 = 0 ∧ (e.1 = none → field w 8 9 = 0)) ∧
    (Issues s (.astat c (.cache d)) x → ∃ t w, exec (.astat c (.cache d)) s = .next t ∧
      Started s (.astat c (.cache d)) x t [.s d.val (BitVec.ofNat 32 w)] 0 none ∧
      ((s.chunks.filter mine).length < 512 → field w 0 9 = (s.chunks.filter mine).length))) ∧
  ∀ (s : State) (gr : GangRef) (op : Nat) (o : TileOp) (j : MJob) (x : Ctx), s.op? op = some o → o.mjob = some j → s.opCtx o = some x → o.id = op →
    -- no id waits for another's fill (R320)
    ((∀ e ∈ j.ads, o.rows &&& idRows j.ids e.id ≠ 0 → o.filled.contains e.id = false → ∃ z, (s.fillId x o j e).1 = .error z) →
      exec (.adapterChunkFill gr op) s = .next s) ∧
    (∀ id t1, s.fillNext x o j = some (id, t1) → t1.op? op = some o → ∃ t n, exec (.adapterChunkFill gr op) s = .next t ∧ t.op? op = some n ∧
      n.filled = id :: o.filled ∧ n.rows = o.rows ∧ id ∉ o.filled ∧ ∃ e ∈ j.ads, e.id = id ∧ s.fillId x o j e = (.ok (), t1)) ∧
    ∀ r e vs t1, o.nextRow j = some r → j.ads.find? (fun e => e.id == j.ids.getD r 0) = some e → s.adTerm x o j e r = (.ok vs, t1) →
      (t1.block? o.g.b).isSome = true → vs.length = 16 → o.delta = none → r < 64 → (x.blockCheck j.x.rc t1).1 = true →
      ∃ u : State, exec (.adapterRowReplay gr op) s = .next (u.advanceCore x.g.core) ∧
        ∀ q k, q < 64 → k < 16 → BitVec.ofNat 32 (u.tileAt (o.tile j.x.d.val) q k) = BitVec.ofNat 32
          (if q = r then addNe (t1.tileAt (o.tile j.x.d.val) q k) (vs.getD k 0) else t1.tileAt (o.tile j.x.d.val) q k)

/-! ### The fabric -/

/-- RANK, NBR, COLL, the switches' answer and an abort (R358 to R364). RANK writes the rank, the team's size or a coordinate, and NBR
the rank whose coordinate is moved. A COLL that passes its checks is outstanding on its channel, with its source's values and the
number of its instance; without a leader it does nothing. When the parts of all members agree, each element of the
destination takes the combined value: exact for integers, whatever tree combines them, and one NaN for floats. An abort ends
the COLL, and its leader has a trap to take.
The model's own choices it rests on are in log entries 71 to 74. -/
def Obligations.Collectives : Prop :=
  (∀ (c : Ctl) (d : SReg) (k : Fin 4),
    Yields (.rank c .rank d) (fun x => uni false d x.l.rank) ∧ Yields (.rank c .size d) (fun x => uni false d x.l.team) ∧
    Yields (.rank c (.coord k) d) (fun x => uni false d (x.l.rank / ((List.range k.val).map x.l.ext).prod % x.l.ext k.val))) ∧
  (∀ (c : Ctl) (k : Fin 4) (nw : Bool) (d : SReg) (o : SOrImm),
    Yields (.nbr c k nw d o) (fun x =>
      let off := match o with | .reg r => (x.s .a r.val 0).toInt | .imm w => w.toInt
      let below := ((List.range k.val).map x.l.ext).prod
      let own := x.l.rank / below % x.l.ext k.val
      let moved : Int := own + off
      uni false d (if nw = true ∧ ¬(0 ≤ moved ∧ moved < x.l.ext k.val) then 0xFFFFFFFF
        else (((x.l.rank : Int) + (moved % x.l.ext k.val - own) * below) % 2 ^ 32).toNat))) ∧
  (∀ (c : Ctl) (op : CollOp) (ch : Fin 16) (pL : PReg) (aD aS : AReg) (m : SReg) (s : State) (x : Ctx),
    let i := Instr.coll c op ch pL aD aS m
    Issues s i x →
    (x.leader pL = none → ∃ t, exec i s = .next t ∧ Done s x t []) ∧
    ∀ lead, x.leader pL = some lead →
      let y := x.alone lead
      let dst := x.a .d aD.val
      let src := x.a .a aS.val
      let n := (x.s .b m.val 0).toNat
      let s0 := s.setGroup x.g
      let traps := fun (c : Cause) => ∃ u, u.cause = c ∧ u.lanes = oneLane lead ∧ exec i s = .next (x.fail s u)
      let ptrs := y.checkPtr s0 src (pGlobal src || pOwnScratch src) false = .ok () ∧ y.checkPtr s0 dst (pGlobal dst || pOwnScratch dst) true = .ok ()
      let fmts := pFmt src = pFmt dst ∧ (pFmt src = 0x0A ∨ pFmt src = 5)
      let inside := 4 * n ≤ pLen src ∧ 4 * n ≤ pLen dst
      let windows := y.inWindow src (pBase src) (4 * n) = true ∧ y.inWindow dst (pBase dst) (4 * n) = true
      let apart := pSpace src = pSpace dst → pBase src = pBase dst ∨ pBase src + 4 * n ≤ pBase dst ∨ pBase dst + 4 * n ≤ pBase src
      let qd := x.locate dst true (collElems lead dst n) s0
      let qs := x.locate src false (collElems lead src n) qd.2
      let got := (qs.2.release x.g.core 4).readElems (x.via src) (foundAt qs.1)
      let inst := sgetD x.l.collCount ch.val 0
      (pValid src = false → traps .bounds) ∧
      (ptrs → ¬fmts → traps .access) ∧
      (ptrs → fmts → ¬(1 ≤ n ∧ n ≤ 4096) → traps .bounds) ∧
      (ptrs → fmts → 1 ≤ n → n ≤ 4096 → ¬inside → traps .bounds) ∧
      (ptrs → fmts → 1 ≤ n → n ≤ 4096 → inside → ¬(pBase src % 4 = 0 ∧ pBase dst % 4 = 0) → traps .align) ∧
      (ptrs → fmts → 1 ≤ n → n ≤ 4096 → inside → pBase src % 4 = 0 → pBase dst % 4 = 0 → ¬(apart ∧ windows) → traps .access) ∧
      (ptrs → fmts → 1 ≤ n → n ≤ 4096 → inside → pBase src % 4 = 0 → pBase dst % 4 = 0 → apart → windows →
        (s.portsFailed.length < 12 ∨ x.l.team = 1) → AllFound qd.1 → AllFound qs.1 → ∃ t u r, exec i s = .next t ∧
          Underway u i x t (fun p => p.res = [] ∧ p.trap = none ∧ p.doing = .coll ch.val) ∧
          u.colls = got.2.colls ++ [r] ∧ r.ch = ch.val ∧ r.inst = inst ∧ r.g = x.c.g ∧ r.lead = lead ∧ r.op = op ∧ (r.fp = true ↔ pFmt src = 0x0A) ∧
          r.n = n ∧ r.dst = dst ∧ r.vals = got.1.map (fun v => v.map (fun bs => BitVec.ofNat 32 (leNat bs))) ∧
          u.sent = got.2.sent ++ (if x.l.team = 1 then [] else [.coll ch.val inst x.l.key { op, fp := r.fp, vals := r.vals }]) ∧
          u.hbm = got.2.hbm ∧ u.caches = got.2.caches ∧ u.blocks = got.2.blocks)) ∧
  (∀ (s : State) (ch : Nat) (others : List CollPart) (r : CollReq) (l : Launch) (x : Ctx),
    s.colls.find? (fun c => c.ch == ch) = some r → s.launch? r.g.b.launch = some l → s.collCtx r = some x →
    others.length + 1 = l.team → (l.team = 1 ∨ (s.member? l.key).isSome = true) → (∀ o ∈ others, o.op = r.op ∧ o.fp = r.fp ∧ o.vals.length = r.n) →
    let parts := fun (k : Nat) => r.vals.getD k none :: others.map (fun o => o.vals.getD k none)
    let q := ({ x with g := { x.g with core := r.core } } : Ctx).locate r.dst true (collElems r.lead r.dst r.n) s
    ∀ ws : List Word, AllFound q.1 → ws.length = r.n → (∀ k w, ws[k]? = some w → r.result s.tick others k = some w) →
      -- the result goes to the package point, where the other devices read it (R210)
      let secs := (((foundAt q.1).flatMap (·.2)).filterMap (fun k => match k with | .mem a => some (a / 32) | _ => none)).eraseDups
      let w := q.2.writeLocs { x.via r.dst with core := r.core, sync := false } (((foundAt q.1).zip ws).flatMap (fun e => e.1.2.zip (leBytes 4 e.2.toNat)))
      exec (.collReduce ch others) s = .next (((secs.foldl (fun (t : State) (sec : Nat) =>
        State.pushN (innerCount 3 (corePath r.core sec)) (corePath r.core sec) sec t) w).acquire r.core 4).collEnd r) ∧
      ∀ k w, ws[k]? = some w → ∃ vs : List Word, parts k = vs.map some ∧
        (r.fp = false → r.op = .sum → w = vs.foldl (· + ·) 0) ∧
        (r.fp = false → r.op = .min → w ∈ vs ∧ ∀ v ∈ vs, w.toInt ≤ v.toInt) ∧
        (r.fp = false → r.op = .max → w ∈ vs ∧ ∀ v ∈ vs, v.toInt ≤ w.toInt) ∧
        (r.fp = true → fp32.isNan w.toNat = true → w = BitVec.ofNat 32 nan32)) ∧
  ∀ (s : State) (ch : Nat) (why : CollAbortWhy) (r : CollReq), s.colls.find? (fun c => c.ch == ch) = some r →
    (why = .time → s.time < r.at_ + 100000000 → exec (.collAbort ch why) s = .next s) ∧
    ((why = .time → r.at_ + 100000000 ≤ s.time) → ∀ g f, s.group? r.g = some g → g.frag? r.lead = some f → f.since ≤ r.seq → ∃ t h e u,
      exec (.collAbort ch why) s = .next t ∧ t.colls = s.colls.filter (fun c => c.ch != ch) ∧ t.group? r.g = some h ∧ h.frag? r.lead = some e ∧
      e.traps = f.traps ++ [u] ∧ u.cause = (if why = .time then .timeout else .fabric) ∧ u.lanes = oneLane r.lead ∧ u.prec = false ∧
      SameRegs g h ∧ ∀ p ∈ h.pend, p.doing ≠ .coll ch)

/-- SPAWN, CJOIN and its release, and the cairn engine's events with CKPT (R409 to R411, R452 to R454, R89). An accepted SPAWN starts a
child one deeper in its block's interface and context, counts it to the block and answers with its id; a refused one answers with
its code; without a leader nothing happens. A CJOIN sleeps; its release writes the count of failed children and lets every
fragment go on. CKPT and a host's request take the cut, with the next number; a granule's copy leaves it done and counts its
poison; the last one ends the checkpoint with its records; the patrol rewrites a passed sector under the current key.
The model's own choices it rests on are in log entries 2, 85, 88, 114, 115, 156. -/
def Obligations.ChildrenAndCheckpoints : Prop :=
  (∀ (c : Ctl) (d : SReg) (pL : PReg) (r : AReg) (s : State) (x : Ctx), Issues s (.spawn c d pL r) x →
    let i := Instr.spawn c d pL r
    (x.leader pL = none → ∃ t, exec i s = .next t ∧ Done s x t []) ∧
    ∀ lead, x.leader pL = some lead →
      let y := x.alone lead
      let p := x.a .a r.val
      let s0 := s.setGroup x.g
      let traps := fun (c : Cause) => ∃ u, u.cause = c ∧ u.lanes = oneLane lead ∧ exec i s = .next (x.fail s u)
      let pass := y.checkPtr s0 p (pGlobal p) false = .ok ()
      let q := (s0.release x.g.core 3).readLaunch x.l.vif x.l.ctx (pBase p) (some { children := x.b.children.length, parent := x.l, b := x.c.g.b })
      (pValid p = false → traps .bounds) ∧ (pass → pBase p % 64 ≠ 0 → traps .align) ∧
      (pass → pBase p % 64 = 0 → pLen p < 640 → traps .bounds) ∧
      (pass → pBase p % 64 = 0 → 640 ≤ pLen p → q.2.2.launches.length < 65535 →
        (q.1 = 0 → x.b.children.length < 64 ∧ x.l.depth < 7 ∧ q.2.1.ctx = x.l.ctx ∧ ∃ (t u : State) (id : Nat) (b : Block) (l : Launch),
          exec i s = .next t ∧ Underway u i x t (fun e => e.res = [.s d.val (BitVec.ofNat 32 id)] ∧ e.trap = none ∧ e.doing = .ready) ∧
          1 ≤ id ∧ id < 65536 ∧ q.2.2.launch? id = none ∧ u.block? x.c.g.b = some b ∧ b.children = x.b.children ++ [id] ∧
          u.launch? id = some l ∧ l.parent = some x.c.g.b ∧ l.depth = x.l.depth + 1 ∧ l.prio = x.l.prio ∧ l.vif = q.2.1.vif ∧ l.ctx = x.l.ctx ∧
          l.ending = q.2.1.ending ∧ l.nblk = q.2.1.nblk ∧ l.hdr = q.2.1.hdr ∧ u.hbm = q.2.2.hbm ∧ u.caches = q.2.2.caches) ∧
        (q.1 ≠ 0 → ∃ t u : State, exec i s = .next t ∧ u.blocks = q.2.2.blocks ∧
          Underway u i x t (fun e => e.res = [.s d.val (BitVec.ofNat 32 (2 ^ 31 + q.1 * 2 ^ 16))] ∧ e.trap = none ∧ e.doing = .ready)))) ∧
  (∀ (c : Ctl) (d : SReg) (s : State) (x : Ctx), Issues s (.cjoin c d) x → x.c.inj = none →
    ∃ t, exec (.cjoin c d) s = .next t ∧ Sleeps x t (.cjoin d)) ∧
  (∀ (s : State) (r : BRef) (b : Block), s.block? r = some b → b.place = .resident →
    (b.children ≠ [] → exec (.cjoinRelease r) s = .next s) ∧
    (b.children = [] → s.allAt r Frag.atCjoin = true → (∃ g ∈ s.groupsOf r, ∃ f ∈ g.frags, f.atCjoin = true) →
      ∃ t e, exec (.cjoinRelease r) s = .next t ∧ t.block? r = some e ∧ e.badChildren = 0 ∧
        ∀ q g, s.group? q = some g → q.b = r → (∀ f ∈ g.frags, f.lanes ≠ 0) →
          g.frags.Pairwise (fun a b => a.lanes &&& b.lanes = 0) → ∃ h, t.group? q = some h ∧ h.v = g.v ∧ h.a = g.a ∧ h.p = g.p ∧
          (∀ f ∈ h.frags, f.wait = .no) ∧ h.frags.map (fun f => (f.lanes, f.pc)) = g.frags.map (fun f => (f.lanes, f.pc)) ∧
          (∀ f ∈ g.frags, ∀ d, f.wait = .cjoin d → h.scell d.val = BitVec.ofNat 32 b.badChildren) ∧
          ∀ n, (∀ f ∈ g.frags, ∀ d, f.wait = .cjoin d → d.val ≠ n) → h.scell n = g.scell n)) ∧
  (∀ (vif : Nat) (u : State) (k : CkptSet),
    let n := if (k.lastSeq + 1) % 2 ^ 32 = 0 then 1 else (k.lastSeq + 1) % 2 ^ 32
    let took := fun (t : State) => t = { u with vifs := t.vifs, band := t.band } ∧ ∃ e cut, (t.vif vif).ckpt = some e ∧
      e.cut = some cut ∧ cut.seq = n ∧ cut.todo = List.range ((k.pages.length + 15) / 16) ∧ cut.out = [] ∧ cut.poisoned = [] ∧ cut.changed = k.dirty ∧
      e.dirty = [] ∧ e.passed = [] ∧ e.lastSeq = n ∧ e.pages = k.pages ∧ e.dest = k.dest
    let refused := (u.vif vif).ckpt = none ∨ ∃ c, (u.vif vif).ckpt = some c ∧ c.cut ≠ none
    ((u.vif vif).ckpt = some k → k.cut = none → ∃ t, exec (.checkpointRequest vif) u = .next t ∧ took t) ∧
    (refused → exec (.checkpointRequest vif) u = .next u) ∧
    ∀ (c : Ctl) (d : SReg) (s : State) (x : Ctx), Issues s (.ckpt c d) x → x.l.vif = vif → u = (s.setGroup x.g).release x.g.core 3 →
      (refused → ∃ w, exec (.ckpt c d) s = .next w ∧
        Underway u (.ckpt c d) x w (fun e => e.res = [.s d.val 0] ∧ e.trap = none ∧ e.doing = .ready)) ∧
      ((u.vif vif).ckpt = some k → k.cut = none → ∃ t w, exec (.ckpt c d) s = .next w ∧ took t ∧
        Underway t (.ckpt c d) x w (fun e => e.res = [.s d.val (BitVec.ofNat 32 n)] ∧ e.trap = none ∧ e.doing = .ready))) ∧
  (∀ (s : State) (vif desc : Nat),
    (s.feature vif 8 = false → exec (.checkpointSetRegister vif desc) s = .next s) ∧
    (s.feature vif 8 = true → s.readSet vif desc = none → exec (.checkpointSetRegister vif desc) s = .next (s.readSetAt vif desc).2) ∧
    (∀ c, s.feature vif 8 = true → s.readSet vif desc = some c → desc % 64 = 0 ∧ c.cut = none ∧ c.dirty = List.range (c.pages.length / 16) ∧
      (∀ z ∈ c.regions, z.1 % 65536 = 0 ∧ z.2 % 65536 = 0) ∧ pValid c.dest = true ∧ (pHost c.dest = true ∨ pPeer c.dest = true) ∧ pFmt c.dest = 0 ∧
      ∃ t e, exec (.checkpointSetRegister vif desc) s = .next t ∧ (t.vif vif).ckpt = some e ∧ e.regions = c.regions ∧ e.pages = c.pages ∧
        e.dest = c.dest ∧ e.dirty = c.dirty ∧ e.cut = none ∧ t.hbm = s.hbm ∧ t.groups = s.groups)) ∧
  (∀ (s : State) (vif g : Nat) (c : CkptSet) (k : Cut), (s.vif vif).ckpt = some c → c.cut = some k →
    let snap := s.snapshot vif g c k
    let bs := snap.flatMap (fun x => x.getD (List.replicate 32 0))
    (k.todo.contains g = false → exec (.checkpointGranuleCopy vif g) s = .next s) ∧
    (k.todo.contains g = true →
      (k.changed.contains g = false ∨ (pPeer c.dest = true ∧ s.portsFailed.length < 12) ∨
        (pPeer c.dest = false ∧ ((c.sectors g).foldl State.checkSector s).mirror vif g c bs ≠ none)) →
      ∃ t e z, exec (.checkpointGranuleCopy vif g) s = .next t ∧ (t.vif vif).ckpt = some e ∧ e.cut = some z ∧
        z.todo = k.todo.filter (· != g) ∧ z.seq = k.seq ∧ z.changed = k.changed ∧ z.poisoned = k.poisoned ++ (if none ∈ snap then [g] else []) ∧
        t.groups = s.groups ∧ (k.changed.contains g = false → t.host = s.host ∧ t.hbm = s.hbm ∧ t.sent = s.sent ∧ z.out = k.out) ∧
        (k.changed.contains g = true → pPeer c.dest = true → z.out = g :: k.out ∧ t.sent = s.sent ++ [.peer s.serial (c.dest.toNat / 2 ^ 45 % 4096)
          ((s.jobKeys vif).headD 0) ((List.range 2048).map (fun j =>
            { va := (pBase c.dest + 65536 * g + 32 * j) % 2 ^ 45, op := .store ((bs.drop (32 * j)).take 32) }))])) ∧
    (k.todo ≠ [] ∨ k.out ≠ [] → exec (.checkpointComplete vif) s = .next s) ∧
    (k.todo = [] → k.out = [] → s.launch? 0 = none → ∃ t e v r, exec (.checkpointComplete vif) s = .next t ∧ (t.vif vif).ckpt = some e ∧ e.cut = none ∧
      e.lastSeq = c.lastSeq ∧ (t.vif vif).events = (s.vif vif).events ++ [v] ∧ v.launch = 0 ∧ v.status = 1 ∧ v.time = s.time ∧
      v.named = k.poisoned ∧ t.errors = s.errors ++ [r] ∧ r.kind = 9 ∧ r.arg = k.seq + 2 ^ 32 * k.poisoned.length)) ∧
  ∀ (s : State) (sec vif : Nat) (c : CkptSet) (b : Band), (vif, (s.vif vif)) ∈ s.vifs → (s.vif vif).ckpt = some c → sec ∈ c.passed →
    sget s.band sec = some b → s.answers sec = true → b.poison = false → b.dead = false → b.code ≠ 2 → b.tagOk sec = true →
    s.versionOk b.vif b.kver = true → ∃ t, exec (.patrolRekeyPassedSector sec) s = .next t ∧
      sget t.band sec = some { b with kver := (s.vif b.vif).kver, tag := (sec, (s.vif b.vif).kver, b.vif) } ∧ t.hbm = s.hbm ∧
      (∀ n, n ≠ sec → sget t.band n = sget s.band n) ∧ ∀ y ∈ t.vifs, ∀ e, y.2.ckpt = some e → sec ∉ e.passed

/-! ### Memory, its controllers and the package -/

/-- The memory controllers and the caches (R73, R81 to R85, R89 to R91, R126, R151). A read grain fills the home L2 with memory's bytes
or its poison; a write stores the dirty bytes that a home holds and no others, and a part of a poisoned sector is dropped and
counted; a patrol read corrects, marks or re-keys a sector and changes no byte; a bank postpones at most 8 refreshes; a fill
changes nothing that its core sees; an eviction leaves the level without the line and its dirty bytes at the next; a fetch agent
delivers a line to every core that holds the image.
The model's own choices it rests on are in log entries 2, 17, 19, 20, 110. -/
def Obligations.MemoryController : Prop :=
  (∀ (vif dpa grain : Nat) (s : State),
    let ok := (grain = 16 ∨ grain = 32 ∨ grain = 64 ∨ grain = 128) ∧ dpa % grain = 0 ∧ dpa < 2 ^ 39
    (¬ok → exec (.memoryRead vif dpa grain) s = .next s) ∧
    (ok → ∃ t, exec (.memoryRead vif dpa grain) s = .next t ∧ t.hbm = s.hbm ∧ t.groups = s.groups ∧ t.blocks = s.blocks ∧
      ∀ a, dpa ≤ a → a < dpa + grain →
        let u : CacheId := .l2 (homeDie (a / 32))
        (s.memPoisoned vif (a / 32) = true → (t.cache u).poisoned (a / 32) = true) ∧
        (s.memPoisoned vif (a / 32) = false → sget (t.cache u).bytes a = match sget (s.cache u).bytes a with
          | some b => some b
          | none => some { val := Memory.read s.hbm a, dirty := false, vif := 0 }))) ∧
  (∀ (vif sec : Nat) (s : State),
    let u : CacheId := .l2 (homeDie sec)
    let own := fun (o : Nat) (v : Byte) => o < 32 ∧ sget (s.cache u).bytes (32 * sec + o) = some { val := v, dirty := true, vif := vif }
    (secIsHost sec = true ∨ (∀ o v, ¬own o v) → exec (.memoryWrite vif sec) s = .next s) ∧
    (secIsHost sec = false → (∃ o v, own o v) → ∃ t, exec (.memoryWrite vif sec) s = .next t ∧ t.groups = s.groups ∧ t.blocks = s.blocks ∧
      (∀ o v, own o v → sget (t.cache u).bytes (32 * sec + o) = some { val := v, dirty := false, vif := 0 }) ∧
      (∀ a, (∀ o v, own o v → a ≠ 32 * sec + o) → sget (t.cache u).bytes a = sget (s.cache u).bytes a ∧ Memory.read t.hbm a = Memory.read s.hbm a) ∧
      (s.answers sec = false → t.hbm = s.hbm) ∧
      (s.answers sec = true → (s.memPoisoned vif sec = false ∨ ∀ o < 32, ∃ v, own o v) →
        (∀ o v, own o v → Memory.read t.hbm (32 * sec + o) = v) ∧ sget t.band sec = some (s.freshBand vif sec false)) ∧
      (s.answers sec = true → s.memPoisoned vif sec = true → (∃ o < 32, ∀ v, ¬own o v) → t.hbm = s.hbm ∧ t.memPoisoned vif sec = true ∧
        sgetD t.counters (2 * homeDie sec + 1) 0 = sgetD s.counters (2 * homeDie sec + 1) 0 + 1))) ∧
  (∀ (sec : Nat) (s : State) (b : Band), sget s.band sec = some b →
    (secIsHost sec = true ∨ s.inSet sec = true ∨ s.answers sec = false → exec (.patrolRead sec) s = .next s) ∧
    (secIsHost sec = false → s.inSet sec = false → s.answers sec = true → ∃ t e, exec (.patrolRead sec) s = .next t ∧ t.hbm = s.hbm ∧
      t.groups = s.groups ∧ t.caches = s.caches ∧ sget t.band sec = some e ∧ e.vif = b.vif ∧ (∀ n, n ≠ sec → sget t.band n = sget s.band n) ∧
      (b.code = 2 → e.poison = true ∧ ∃ r, t.errors = s.errors ++ [r] ∧ r.kind = 8 ∧ r.arg = 32 * sec) ∧
      (b.tagOk sec = false → e.poison = true) ∧
      (b.code = 1 → b.tagOk sec = true → e.code = 0 ∧ sgetD t.counters (2 * homeDie sec) 0 = sgetD s.counters (2 * homeDie sec) 0 + 1) ∧
      (b.poison = true → e.kver = b.kver) ∧
      (b.code ≠ 2 → t.errors = s.errors ∧ (b.tagOk sec = true → e.poison = b.poison ∧
        (b.poison = false → b.dead = false → s.versionOk b.vif b.kver = true → e.kver = (s.vif b.vif).kver ∧ e.tagOk sec = true))))) ∧
  (∀ (hours : Nat) (s : State), s.recovery = false → (1 ≤ hours → hours ≤ 168 → exec (.patrolPeriodSet hours) s = .next { s with patrolHours := hours }) ∧
    (¬(1 ≤ hours ∧ hours ≤ 168) → exec (.patrolPeriodSet hours) s = .next s)) ∧
  (∀ (die chan bank : Nat) (s : State), die < 4 → chan < 64 → ∃ t, exec (.refresh die chan bank) s = .next t ∧ t = { s with chans := t.chans } ∧
    (∀ d c, d < 4 → c < 64 → (d, c) ≠ (die, chan) → t.chan d c = s.chan d c) ∧
    let old := sgetD (s.chan die chan).postponed bank 0
    let new := sgetD (t.chan die chan).postponed bank 0
    t.chan die chan = { s.chan die chan with postponed := (t.chan die chan).postponed } ∧ (new = 0 ∨ new = old + 1) ∧ (8 ≤ old → new = 0)) ∧
  (∀ (core sec : Nat) (s : State) (m : Miss),
    (s.missesOf core).find? (fun m => m.secs.contains sec || (m.line == sec / 2 && s.missBare m)) = some m →
    (m.secs = [] → exec (.l1Fill core sec) s = .next { s with mshrs := s.mshrs.erase m }) ∧
    (sec ∈ m.secs → secIsHost sec = true ∨ s.answers sec = true → ∃ t, exec (.l1Fill core sec) s = .next t ∧ t.hbm = s.hbm ∧ t.groups = s.groups ∧
      ((∀ k ∈ m.secs, k = sec) → t.mshrs = s.mshrs.erase m) ∧
      ((∃ k ∈ m.secs, k ≠ sec) → { m with secs := m.secs.filter (· != sec) } ∈ t.mshrs ∧ t.mshrs.length = s.mshrs.length) ∧
      ((t.cache (.l1 core)).poisoned sec = true ∨ ∀ o, o < 32 → (t.cache (.l1 core)).valid sec o = true) ∧
      seesSector t core m.vif sec = seesSector s core m.vif sec)) ∧
  (∀ (u : CacheId) (line : Nat) (s : State),
    ((s.cache u).holds (2 * line) = false → (s.cache u).holds (2 * line + 1) = false → exec (.cacheEviction u line) s = .next s) ∧
    ∃ t, exec (.cacheEviction u line) s = .next t ∧ t.groups = s.groups ∧ t.blocks = s.blocks ∧
      (t.cache u).holds (2 * line) = false ∧ (t.cache u).holds (2 * line + 1) = false ∧
      ∀ core sec o b, u = .l1 core → sec / 2 = line → o < 32 → (∀ y ∈ (s.cache u).bad, y.1 ≠ sec) → sget (s.cache u).bytes (32 * sec + o) = some b → b.dirty = true →
        (s.cache (.cl (clusterOf core))).poisoned sec = false → sget (t.cache (.cl (clusterOf core))).bytes (32 * sec + o) = some b) ∧
  ∀ (die line : Nat) (s : State),
    (s.imagesAt die line = [] → exec (.instructionFetchFill die line) s = .next s) ∧
    ∀ l, s.imagesAt die line = [l] →
      let cores := s.imageCores die l.vif l.ctx (pBase l.image)
      let bare := { s with ilines := s.ilines.filter (fun x => !(x.vif == l.vif && x.ctx == l.ctx && x.line == line && cores.contains x.core)) }
      let q := bare.fillLine (cores.headD 0) l.vif l.ctx (pBase l.image) line
      ((∃ e, q.1 = .error e) → exec (.instructionFetchFill die line) s = .next s) ∧
      ∀ x, q.1 = .ok x → ∃ t, exec (.instructionFetchFill die line) s = .next t ∧ t.groups = s.groups ∧ t.hbm = s.hbm ∧
        ∀ core ∈ cores, ∃ y, t.iline? core l.vif l.ctx line = some y ∧ y.bytes = x.bytes ∧ y.poison = x.poison

/-- Repair, retirement and key rotation (R88, R93 to R95). A failed SRAM copy comes back from its twin, and both from the master; a
channel whose master fails, or that is retired in an emergency, answers no more, with its report and N as it was; the planned
switch shortens the live list, unless a page of the die is mapped or 48 channels are left. A rotation takes the next version once
no sector carries the previous one, and ends when none does.
The model's own choices it rests on are in log entries 2, 111, 112, 139, 166. -/
def Obligations.RepairAndKeys : Prop :=
  (∀ (die chan : Nat) (s : State), die < 4 → chan < 64 →
    let c := s.chan die chan
    let only := fun (t : State) => t = { s with chans := t.chans } ∧ ∀ d k, d < 4 → k < 64 → (d, k) ≠ (die, chan) → t.chan d k = s.chan d k
    -- the masters that the channel holds go to the next channel that qualifies (R92)
    let mastersMoved := fun (t : State) => ∀ d k, d < 4 → k < 64 →
      (t.chan d k).copyA = (s.chan d k).copyA ∧ (t.chan d k).copyB = (s.chan d k).copyB ∧
      (d = die → s.masterAt d k = chan → t.masterAt d k = s.nextHolder d k chan) ∧
      (d ≠ die ∨ s.masterAt d k ≠ chan → t.masterAt d k = s.masterAt d k ∧ (t.chan d k).master = (s.chan d k).master)
    (∀ r, c.copyB = some r → ∃ t, exec (.remapSramRepair die chan false) s = .next t ∧ only t ∧ t.chan die chan = { c with copyA := some r }) ∧
    (∀ r, c.copyA = some r → ∃ t, exec (.remapSramRepair die chan true) s = .next t ∧ only t ∧ t.chan die chan = { c with copyB := some r }) ∧
    (c.copyB = none → exec (.remapSramRepair die chan false) s = .next s) ∧ (c.copyA = none → exec (.remapSramRepair die chan true) s = .next s) ∧
    ((s.liveOf die).contains chan = true → c.retired = false →
      let gone := fun (t : State) => t.live = s.live ∧ t.hbm = s.hbm ∧ t.band = s.band ∧ t.degraded = true ∧ (t.chan die chan).retired = true ∧ mastersMoved t ∧
        (∀ sec, homeDie sec = die → s.chanOf sec = chan → t.answers sec = false) ∧
        ∀ sec, s.chanOf sec < 64 → (homeDie sec ≠ die ∨ s.chanOf sec ≠ chan) → t.answers sec = s.answers sec
      (∀ r, c.copyA = some r ∨ (c.copyA = none ∧ c.copyB = some r) ∨ (c.copyA = none ∧ c.copyB = none ∧ c.master = some r) →
        ∃ t, exec (.remapTableReload die chan) s = .next t ∧ only t ∧ t.chan die chan = { c with copyA := some r, copyB := some (c.copyB.getD r) }) ∧
      (c.copyA = none → c.copyB = none → c.master = none → ∃ t r q, exec (.remapTableReload die chan) s = .next t ∧ gone t ∧ t.errors = s.errors ++ [r, q] ∧ r.kind = 8 ∧
        q.kind = 1 ∧ q.arg = chan + 256 * die) ∧
      ∃ t q, exec (.emergencyRetirement die chan) s = .next t ∧ gone t ∧ t.errors = s.errors ++ [q] ∧ q.kind = 1 ∧ q.arg = chan + 256 * die) ∧
    ((s.liveOf die).contains chan = false ∨ c.retired = true →
      exec (.emergencyRetirement die chan) s = .next s ∧ exec (.remapTableReload die chan) s = .next s) ∧
    (∀ by_, by_ ≠ 0 ∨ s.dieMapped die = true ∨ s.recovery = true → exec (.channelRetirementSwitch die ⟨by_, chan⟩) s = .next s) ∧
    (s.recovery = false → s.dieMapped die = false → (s.liveOf die).contains chan = true → (s.liveOf die).length ≤ 48 →
      ∃ t, exec (.channelRetirementSwitch die ⟨0, chan⟩) s = .next t ∧ die ∈ t.failedDies ∧ t.live = s.live ∧ t.band = s.band ∧ t.hbm = s.hbm) ∧
    (s.recovery = false → s.dieMapped die = false → (s.liveOf die).contains chan = true → 48 < (s.liveOf die).length →
      ∃ t r, exec (.channelRetirementSwitch die ⟨0, chan⟩) s = .next t ∧ mastersMoved t ∧ t.liveOf die = (s.liveOf die).filter (· != chan) ∧
        (∀ d, d ≠ die → t.liveOf d = s.liveOf d) ∧ t.hbm = s.hbm ∧ t.groups = s.groups ∧ t.errors = s.errors ++ [r] ∧ r.kind = 2 ∧
        r.arg = chan + 256 * die + 65536 * t.backed die ∧
        (s.band.Pairwise (fun a b => a.1 < b.1) → ∀ sec, homeDie sec ≠ die → sget t.band sec = sget s.band sec))) ∧
  ∀ (vif : Nat) (s : State),
    let v := s.vif vif
    let old := ∃ x ∈ s.band, x.2.vif = vif ∧ x.2.poison = false ∧ x.2.dead = false ∧ s.answers x.1 = true ∧ s.versionOk vif x.2.kver = true ∧ x.2.kver ≠ v.kver
    (v.hasPrev = true → old → exec (.keyRotationRequest vif) s = .next s ∧ exec (.keyRotationComplete vif) s = .next s) ∧
    (64 ≤ vif ∨ s.recovery = true → exec (.keyRotationRequest vif) s = .next s) ∧
    -- a rotation whose report is still due is reported before the next begins
    (vif < 64 → s.recovery = false → ¬(v.hasPrev = true ∧ old) → ∃ t, exec (.keyRotationRequest vif) s = .next t ∧
      t.vif vif = { v with kver := (v.kver + 1) % 256, hasPrev := true } ∧ t = { s with vifs := t.vifs, sent := t.sent } ∧
      t.sent = s.sent ++ (if v.hasPrev then [.keys vif v.kver] else []) ∧ ∀ n, n ≠ vif → t.vif n = s.vif n) ∧
    (v.hasPrev = false → exec (.keyRotationComplete vif) s = .next s) ∧
    (v.hasPrev = true → ¬old → ∃ t, exec (.keyRotationComplete vif) s = .next t ∧ t.vif vif = { v with hasPrev := false } ∧
      t = { s with vifs := t.vifs, sent := t.sent } ∧ t.sent = s.sent ++ [.keys vif v.kver])

/-- Table walks, the driver's answers to fault records, and invalidation (R118 to R125, R429). A walk for a core's miss that ends in a
page leaves an entry in its TLB that serves the address from then on; one that ends in a fault leaves the machine as it was. An
answer to a record that only fragments wait for lets a fragment that slept on it alone run its instruction again, or gives it the
XLATE or ACCESS trap of its address. After an invalidation every structure has lost the entries that cover an address of the range,
and no other.
The model's own choices it rests on are in log entries 2, 23, 142, 147, 164. -/
def Obligations.TranslationAndFaults : Prop :=
  (∀ (core vif ctx va : Nat) (kind : AccKind) (s : State), kind ≠ .engRead → kind ≠ .engWrite →
    let r : XlReq := { vif, ctx, tgt := 2, write := kind = .write ∨ kind = .atomic, fetch := kind = .fetch }
    let q := s.translate r (coreTlbs core) (dieOf core) va
    ((∀ key lv, q.1 ≠ .ok key lv) → exec (.translationWalk core vif ctx va kind) s = .next s) ∧
    ∀ key lv, q.1 = .ok key lv → (∀ u ∈ coreTlbs core, ∀ level ∈ [1, 6, 2, 3], s.tlb? u vif ctx level va = none) →
      ∃ t, exec (.translationWalk core vif ctx va kind) s = .next t ∧ t.groups = s.groups ∧ t.blocks = s.blocks ∧ t.hbm = s.hbm ∧
        t.translate r (coreTlbs core) (dieOf core) va = (.ok key lv, t)) ∧
  (∀ (vif ctx lo hi : Nat) (s : State), ∃ t, exec (.invalidationCommand vif ctx lo hi) s = .next t ∧ t = { s with tlbs := t.tlbs, invals := t.invals } ∧
    (∀ c, c ∈ t.invals ↔ (c ∈ s.invals ∧ c ≠ (vif, ctx, lo, hi)) ∨ (c = (vif, ctx, lo, hi) ∧ s.usesOld vif ctx lo hi = true)) ∧
    ∀ e, let size := if e.level = 6 then 2 ^ 16 else 2 ^ (12 + 9 * (e.level - 1))
      e ∈ t.tlbs ↔ e ∈ s.tlbs ∧ ¬(e.vif = vif ∧ e.ctx = ctx ∧ e.va * size < hi ∧ lo < (e.va + 1) * size)) ∧
  ∀ (vif tag : Nat) (ans : FaultAnswer) (s : State),
    ((∀ f ∈ (s.vif vif).faults, f.tag ≠ tag) → exec (.faultResponse vif tag ans) s = .next s) ∧
    ∀ rec, (s.vif vif).faults.find? (fun f => f.tag == tag) = some rec →
      (∀ g ∈ s.vifGroups vif, ∀ p ∈ g.pend, tag ∉ p.tags) → (∀ c ∈ s.copies, ∀ y ∈ c.susp, y.2 ≠ tag) → (∀ w ∈ s.peerWaits, w.2 ≠ (tag, vif)) →
      ∃ t, exec (.faultResponse vif tag ans) s = .next t ∧ (t.vif vif).faults = (s.vif vif).faults.filter (fun f => f.tag != tag) ∧
        t.hbm = s.hbm ∧ t.caches = s.caches ∧
        ∀ r g f lane lanes noMap at_ word, s.group? r = some g → s.groups.Pairwise (fun a b => a.ref ≠ b.ref) →
          (∃ l, s.launch? r.b.launch = some l ∧ l.vif = vif) → g.frag? lane = some f → g.frags.Pairwise (fun a b => a.lanes &&& b.lanes = 0) →
          f.wait = .fault [(tag, lanes)] 0 noMap at_ word → lanes ≠ 0 →
          ∃ h e, t.group? r = some h ∧ h.frag? lane = some e ∧ e.lanes = f.lanes ∧ e.pc = f.pc ∧ e.wait = .no ∧ e.inject = f.inject ∧ SameRegs g h ∧
            (ans = .replay → e.traps = f.traps) ∧
            (ans ≠ .replay → ∃ u, e.traps = f.traps ++ [u] ∧ u.cause = (if ans = .failNoMap then .xlate else .access) ∧ u.lanes = lanes ∧
              u.info = BitVec.ofNat 64 rec.va)

/-- Snoops, snoop filters, failed links, a split ring, and the ordered-atomics log (R135, R136, R138 to R140, R167). A snoop drops
a clean copy and leaves a dirty one; a filter's entry goes after the copies beyond its port, dirty bytes written home; a failed
link is on no route of a ring that was whole; a split loses the dies that no way reaches, with their caches, copies and launches;
a launch's log is applied by block, thread and program order.
The model's own choices it rests on are in log entries 2, 22, 51, 52, 117, 150. -/
def Obligations.PackageEvents : Prop :=
  (∀ (die sec : Nat) (s : State),
    -- of the snoops between two dies the one sent first arrives first (R137)
    (s.snoopHeads.find? (fun x => x.die == die && x.sector == sec) = none → exec (.snoopInvalidate die sec) s = .next s) ∧
    ∀ x, s.snoopHeads.find? (fun x => x.die == die && x.sector == sec) = some x →
      (∃ pre post, s.snoops = pre ++ x :: post ∧ ∀ y ∈ pre, ¬(y.src = x.src ∧ y.die = x.die)) ∧ ∃ t, exec (.snoopInvalidate die sec) s = .next t ∧
      t = { s with snoops := s.snoops.erase x, caches := t.caches } ∧ (∀ u, u ≠ .rdc die → t.cache u = s.cache u) ∧
      (∀ a, a / 32 ≠ sec → sget (t.cache (.rdc die)).bytes a = sget (s.cache (.rdc die)).bytes a) ∧
      ((s.cache (.rdc die)).dirty sec = [] → (∀ y ∈ (s.cache (.rdc die)).bad, y.1 ≠ sec) → (t.cache (.rdc die)).holds sec = false) ∧
      -- what it has yet to write home, its poison too, stays (R85)
      ((s.cache (.rdc die)).dirty sec ≠ [] ∨ (∃ y ∈ (s.cache (.rdc die)).bad, y.1 = sec) → t.caches = s.caches)) ∧
  (∀ (port region : Nat) (s : State),
    ((port, region) ∉ s.filters → exec (.snoopFilterFree port region) s = .next s) ∧
    ((port, region) ∈ s.filters → ∃ t, exec (.snoopFilterFree port region) s = .next t ∧ (port, region) ∉ t.filters ∧ t.groups = s.groups ∧
      t.hbm = s.hbm ∧ ∀ d sec, d < 4 → sec / 32 = region → secIsHost sec = false → port ∈ s.route (homeDie sec) d →
        (t.cache (.rdc d)).holds sec = false ∧
        ∀ o b, o < 32 → homeDie sec ≠ d → (∀ e, e ≠ d → (s.cache (.rdc e)).dirty sec = []) → (∀ e, ∀ y ∈ (s.cache (.rdc e)).bad, y.1 ≠ sec) → (s.cache (.l2 (homeDie sec))).poisoned sec = false →
          s.lostDies.contains (homeDie sec) = false → sget (s.cache (.rdc d)).bytes (32 * sec + o) = some b → b.dirty = true →
          sget (t.cache (.l2 (homeDie sec))).bytes (32 * sec + o) = some b)) ∧
  (∀ (link : Nat) (s : State),
    (4 ≤ link ∨ link ∈ s.linksFailed → exec (.linkFailure link) s = .next s) ∧
    (link < 4 → link ∉ s.linksFailed → ∃ t r, exec (.linkFailure link) s = .next t ∧ t.linksFailed = link :: s.linksFailed ∧ t.degraded = true ∧
      t.filtersBuilt = false ∧ t.errors = s.errors ++ [r] ∧ r.kind = 3 ∧ r.arg = link ∧ t.hbm = s.hbm ∧ t.caches = s.caches ∧ t.groups = s.groups ∧
      t.snoops.map (fun x => (x.src, x.die, x.sector)) = s.snoops.map (fun x => (x.src, x.die, x.sector)) ∧
      (s.linksFailed = [] → ∀ a b, a < 4 → b < 4 → ∀ p ∈ t.route a b, p / 2 ≠ link))) ∧
  (∀ (s : State),
    (s.cutOff.all s.lostDies.contains = true → exec .dieSplit s = .next s) ∧
    (s.cutOff.all s.lostDies.contains = false → ∃ t r, exec .dieSplit s = .next t ∧ t.lostDies = s.cutOff ∧ t.degraded = true ∧ t.hbm = s.hbm ∧
      t.errors = s.errors ++ [r] ∧ r.kind = 4 ∧ r.arg = (s.cutOff.map (fun d => 2 ^ d)).sum ∧ (∀ c ∈ t.copies, dieOfCluster c.cluster ∉ s.cutOff) ∧
      (∀ d ∈ s.cutOff, ∀ u ∈ dieCaches d, ∀ sec, (t.cache u).holds sec = false) ∧
      (∀ d sec, d < 4 → secIsHost sec = false → homeDie sec ∈ s.cutOff → (t.cache (.rdc d)).holds sec = false) ∧
      ∀ l b, s.launch? l.id = some l → l ∈ s.launches → l.ending = false → b ∈ s.blocks → b.ref.launch = l.id → b.place = .resident →
        (∃ c ∈ b.cores, dieOf c ∈ s.cutOff) → ∃ m, t.launch? l.id = some m ∧ m.ending = true ∧ m.status = 3)) ∧
  ∀ (s : State) (launch : Nat) (l : Launch), s.launch? launch = some l →
    let sorted := fun (xs : List LogEntry) => xs.Pairwise (fun a c => a.thread < c.thread ∨ (a.thread = c.thread ∧ a.seq ≤ c.seq))
    (s.logDue l = false → exec (.orderedAtomicLogApply launch) s = .next s) ∧
    (s.logDue l = true → ∃ t m, exec (.orderedAtomicLogApply launch) s = .next t ∧ t.launch? launch = some m ∧ m.logsApplied = true ∧
      (∀ b ∈ t.blocks, b.ref.launch = launch → b.log = []) ∧ t.groups = s.groups ∧
      let done := (s.logOf launch).foldl (fun (u : State) (e : LogEntry) =>
        (u.peerAccess l.vif (.atomf e.op e.v l.flush) ((List.range 4).map (e.pa + ·))).2) (s.releaseLaunch launch)
      t.hbm = done.hbm ∧ t.caches = done.caches ∧ t.host = done.host) ∧
    (∀ b, s.blocks.filter (fun b => b.ref.launch == launch) = [b] → (s.logOf launch).Perm b.log ∧ sorted (s.logOf launch)) ∧
    ∀ b c, s.blocks.filter (fun b => b.ref.launch == launch) = [b, c] ∨ s.blocks.filter (fun b => b.ref.launch == launch) = [c, b] →
      b.ref.block < c.ref.block → ∃ xs ys, s.logOf launch = xs ++ ys ∧ xs.Perm b.log ∧ ys.Perm c.log ∧ sorted xs ∧ sorted ys

/-- Requests of peers, the answers to this device's own, ports and keys (R349, R351 to R355, R162, Table 16-4). A request is
performed at its home in the context of its key's entry and answered, or refused for want of the key, or waits for its fault's
answer; an add is queued for its bound launch. An answer, its want for 10 ms, or the host's response ends the wait of its
instruction, with its results or with the trap that Table 16-4 names. A valid key stands in one entry of its own interface.
The model's own choices it rests on are in log entries 2, 3, 33, 77, 128, 154, 155, 169. -/
def Obligations.PeerTraffic : Prop :=
  (∀ (r : PeerReq) (s : State),
    let tells := fun (t : State) (u : State) (a : PeerAnswer) => t = { u with sent := u.sent ++ [.answer r.src r.key r.id a] }
    (s.member? r.key = none → (∃ t, exec (.peerRequest r) s = .next t ∧ tells t s .keyLacking) ∧
      ∃ t, exec (.packetDrop r) s = .next t ∧ tells t s .keyLacking) ∧
    ∀ m, s.member? r.key = some m → exec (.packetDrop r) s = .next s ∧
      (∀ va block gang tile vals kind, r.accs = [{ va, op := .tileAdd block gang tile vals kind }] →
        (m.lbound = false → ∃ t, exec (.peerRequest r) s = .next t ∧ tells t s .addFails) ∧
        (m.lbound = true → ∃ t a, exec (.peerRequest r) s = .next t ∧ t = { s with serial := s.serial + 1, tileAdds := s.tileAdds ++ [a] } ∧
          a.id = s.serial ∧ a.tgt = { b := ⟨m.launch, block⟩, gang, t := tile } ∧ a.vals = vals ∧ a.kind = kind ∧ a.src = some (r.src, r.id) ∧ a.jobKey = r.key)) ∧
      ((∀ a ∈ r.accs, ∀ block gang tile vals kind, a.op ≠ .tileAdd block gang tile vals kind) →
        let q := s.peerFind m r.accs
        (q.1 = .mismatch → ∃ t, exec (.peerRequest r) s = .next t ∧ tells t q.2 .failAccess) ∧
        (q.1 = .poison → ∃ t, exec (.peerRequest r) s = .next t ∧ tells t q.2 (.performed (r.accs.map (fun _ => none)))) ∧
        (∀ va cause kind, q.1 = .fault va cause kind → ∃ t tag f, exec (.peerRequest r) s = .next t ∧ t.sent = q.2.sent ∧
          t.peerWaits = q.2.peerWaits ++ [(r, tag, m.vif)] ∧ f ∈ (t.vif m.vif).faults ∧ f.tag = tag ∧ f.va / 4096 = va / 4096 ∧ f.ctx = m.ctx) ∧
        (∀ ks a, q.1 = .at_ [ks] → r.accs = [a] → ∃ t, exec (.peerRequest r) s = .next t ∧
          (∀ n, a.op = .load n → tells t (q.2.homeGet m.vif ks).2 (.performed [(q.2.homeGet m.vif ks).1])) ∧
          (∀ bs, a.op = .store bs → ks.Nodup → ks.length = bs.length → (∀ k ∈ ks, secIsHost (k / 32) = false ∧
              q.2.memPoisoned m.vif (k / 32) = false ∧ (q.2.cache (.l2 (homeDie (k / 32)))).poisoned (k / 32) = false) →
            t.sent = q.2.sent ++ [.answer r.src r.key r.id (.performed [some []])] ∧ ∀ (j k : Nat) (v : Byte), ks[j]? = some k → bs[j]? = some v →
              sget (t.cache (.l2 (homeDie (k / 32)))).bytes k = some { val := v, dirty := true, vif := m.vif }) ∧
          (∀ o w v n sgn bs, a.op = .atom o w v n sgn → (q.2.homeGet m.vif ks).1 = some bs →
            tells t (match atomNew o w sgn (leNat bs) v n with
              | some y => ((q.2.homeGet m.vif ks).2.unown (ks.map (· / 4))).homePut m.vif (ks.zip (leBytes (w / 8) y))
              | none => (q.2.homeGet m.vif ks).2.unown (ks.map (· / 4))) (.performed [some bs])) ∧
          ∀ o v flush bs, a.op = .atomf o v flush → (q.2.homeGet m.vif ks).1 = some bs →
            tells t (((q.2.homeGet m.vif ks).2.unown (ks.map (· / 4))).homePut m.vif (ks.zip (leBytes 4 (atomfNew o flush (leNat bs) v.toNat)))) (.performed [some bs])))) ∧
  (∀ (src id : Nat) (s : State), ∃ t, exec (.peerCancel src id) s = .next t ∧ t = { s with peerWaits := t.peerWaits } ∧
    ∀ w, w ∈ t.peerWaits ↔ w ∈ s.peerWaits ∧ ¬(w.1.src = src ∧ w.1.id = id ∧ s.member? w.1.key ≠ none)) ∧
  (∀ (id : Nat) (s : State) (r : Request) (g : Group) (p : Pend) (x : Ctx) (l : Launch) (i : Instr),
    s.request? id = some r → r.chunk = none → r.tileOp = none → r.tileAdd = none → r.ckpt = none → r.answer = none → r.id = id →
    s.group? r.g = some g → g.pend.find? (fun p => p.doing == .response id) = some p → s.launch? r.g.b.launch = some l →
    s.entryCtx g { lanes := p.frag, pc := 0 } p.entry = some x → decodeInstr l.hdr.version p.entry.word p.entry.exts = .ok i →
    p.res = [] → p.trap = none → p.frag &&& g.running ≠ 0 → (∀ f ∈ g.frags, f.since ≤ p.entry.seq) →
    -- an acquire drops what it drops as the answer comes (R130, R208)
    let kept := fun (u t : State) => t.caches = (match p.acq with | some k => u.acquire g.core k | none => u).caches
    let ends := fun (t : State) (rs : List Res) => ∃ h q, t.group? r.g = some h ∧ SameRegs g h ∧ h.frags = g.frags ∧
      q ∈ h.pend ∧ q.entry.seq = p.entry.seq ∧ q.doing = .ready ∧ q.frag = p.frag ∧ q.res = rs ∧ q.trap = none
    -- a trap stands before the group's next issue (R355), with the watchpoint that performed lanes touched behind it (R441)
    let traps := fun (t : State) (P : Group → Trap → Prop) => ∃ h f e q u ws, t.group? r.g = some h ∧ f ∈ g.frags ∧ e ∈ h.frags ∧ e.lanes = f.lanes ∧
      e.pc = f.pc ∧ e.traps = f.traps ++ u :: ws ∧ (∀ w ∈ ws, w.cause = .watch) ∧ P h u ∧ q ∈ h.pend ∧ q.entry.seq = p.entry.seq ∧ q.doing = .trapping
    let answers := fun (t : State) (a : List Res × Option Trap) => t.request? id = none ∧ (a.2 = none → ends t a.1) ∧
      (a.2 ≠ none → traps t (fun _ u => u.cause = .memerr))
    let stops := fun (t : State) (c : Cause) => t.request? id = none ∧ t.caches = s.caches ∧ traps t (fun h u => SameRegs g h ∧ u.cause = c ∧
      u.lanes = p.entry.lanes ∧ u.tpc = p.entry.tpc ∧ u.prec = false ∧ u.rank = if c = .fabric ∨ c = .timeout then r.rank else 0)
    (r.host = false → s.member? r.key = none → ∀ a, exec (.peerResponse id a) s = .next s) ∧
    (r.host = false → s.member? r.key ≠ none →
      (∀ ds, ∃ t, exec (.peerResponse id (.performed ds)) s = .next t ∧ t.sent = s.sent ∧ kept s t ∧ answers t (x.answer i false ds)) ∧
      (∃ t, exec (.peerResponse id .failXlate) s = .next t ∧ t.sent = s.sent ∧ stops t .xlate) ∧
      (∃ t, exec (.peerResponse id .failAccess) s = .next t ∧ t.sent = s.sent ∧ stops t .access) ∧
      (∃ t, exec (.peerResponse id .keyLacking) s = .next t ∧ t.sent = s.sent ++ [.cancel r.rank r.key id] ∧ stops t .fabric)) ∧
    (r.host = false →
      (s.time < r.at_ + 10000000 → exec (.peerTimeout id) s = .next s) ∧
      (r.at_ + 10000000 ≤ s.time → ∃ t, exec (.peerTimeout id) s = .next t ∧ t.sent = s.sent ∧ stops t .timeout) ∧
      exec (.hostAccessResponse id false) s = .next s ∧
      ∀ port, port < 12 → port ∉ s.portsFailed → s.portsFailed.length = 11 → s.requests = [r] → s.colls = [] →
        ∃ t, exec (.denordPortFailure port) s = .next t ∧ t.portsFailed = port :: s.portsFailed ∧ stops t .fabric) ∧
    (r.host = true →
      (∀ ds, exec (.peerResponse id ds) s = .next s) ∧ exec (.peerTimeout id) s = .next s ∧
      -- accesses of a group reach the bridge in its order (R207, R209); only an ATS service refuses (R448)
      (s.hostTurn r = false → ∀ refused, exec (.hostAccessResponse id refused) s = .next s) ∧
      (s.hostTurn r = true → (s.vif l.vif).ats = true → ∃ t, exec (.hostAccessResponse id true) s = .next t ∧ t.host = s.host ∧ stops t .access) ∧
      ∀ a ix refused, waitIdx i = some (a, ix) → s.hostTurn r = true → (refused = true → (s.vif l.vif).ats = false) →
        let na := match i with | .ld _ _ _ h _ _ _ => h == .na | .st _ _ _ _ h _ _ _ => h == .na | _ => false
        let q := s.hostPerform r g.core l.vif (x.a .a a.val) na
        ∃ t, exec (.hostAccessResponse id refused) s = .next t ∧ t.host = q.2.host ∧ kept q.2 t ∧ answers t (x.answer i true q.1))) ∧
  (∀ (port : Nat) (s : State), (12 ≤ port ∨ port ∈ s.portsFailed → exec (.denordPortFailure port) s = .next s) ∧
    (port < 12 → port ∉ s.portsFailed → s.portsFailed.length < 11 → ∃ t r, exec (.denordPortFailure port) s = .next t ∧
      t.portsFailed = port :: s.portsFailed ∧ t.degraded = true ∧ t.errors = s.errors ++ [r] ∧ r.kind = 5 ∧ r.arg = port ∧ r.source = 84 + port ∧
      t.requests = s.requests ∧ t.groups = s.groups ∧ t.hbm = s.hbm)) ∧
  ∀ (vif entry : Nat) (w : MemberWrite) (s : State), s.members.length = 64 →
    let old := s.members.getD entry {}
    let ok := entry < 64 ∧ (old.valid = true → old.vif = vif) ∧ (w.valid = true → 1 ≤ w.key ∧ w.key < 65536 ∧ w.vif = vif ∧
      ∀ k m, k ≠ entry → s.members[k]? = some m → m.valid = true → m.key ≠ w.key)
    (¬ok ∨ s.recovery = true → exec (.membershipTableWrite vif entry w) s = .next s) ∧
    (ok → s.recovery = false → ∃ t m, exec (.membershipTableWrite vif entry w) s = .next t ∧ t = { s with members := t.members } ∧ t.members[entry]? = some m ∧
      m.valid = w.valid ∧ m.key = w.key ∧ m.vif = w.vif ∧ m.ctx = w.ctx ∧ m.launch = old.launch ∧ m.lbound = old.lbound ∧
      ∀ k, k ≠ entry → t.members[k]? = s.members[k]?)

/-! ### Launches, interfaces and the device -/

/-- The life of a launch (R386, R389 to R395, R402 to R404, Table 20-3, Table 27-3). A doorbell adds entries as far as they fit;
an entry's launch starts with the code that its checks give; the block whose turn it is is placed whole, its groups at the entry
clause with the record's arguments; an evictable block goes with its groups, and comes back as it was; a launch that completes
leaves its status word and its entry; one that is terminated loses its blocks and has status 0x03.
The model's own choices it rests on are in log entries 2, 88, 91 to 93, 96, 97, 136, 163. -/
def Obligations.LaunchLife : Prop :=
  (∀ (vif queue : Nat) (entries : List Nat) (s : State),
    ((s.vif vif).accept = none → exec (.launchDoorbell vif queue entries) s = .next s) ∧
    ((s.vif vif).accept ≠ none → ∃ t, exec (.launchDoorbell vif queue entries) s = .next t ∧ t = { s with vifs := t.vifs } ∧
      (t.vif vif).events = (s.vif vif).events ∧ ∀ (k : Nat) (q : LQueue), (s.vif vif).queues[k]? = some q → ∃ e : LQueue, (t.vif vif).queues[k]? = some e ∧ e.running = q.running ∧
        e.entries = q.entries ++ (if q.q = queue then (entries.take (2 ^ q.k - q.entries.length)).map (· % 2 ^ 64) else []))) ∧
  (∀ (vif queue : Nat) (s : State) (q : LQueue), (s.vif vif).queues.find? (fun q => q.q == queue) = some q →
    (q.running ≠ none ∨ q.entries = [] → exec (.launchStart vif queue) s = .next s) ∧
    ∀ va rest, q.running = none → q.entries = va :: rest →
      let r := s.readLaunch vif q.ctx (va % 2 ^ 57) none
      (va % 2 ^ 57 % 64 ≠ 0 → r.1 = 0x10) ∧
      (r.2.2.launches.length < 65535 → ∃ (t : State) (id : Nat) (l : Launch) (e : LQueue), exec (.launchStart vif queue) s = .next t ∧
        1 ≤ id ∧ id < 65536 ∧ r.2.2.launch? id = none ∧ t.launch? id = some l ∧ l.vif = vif ∧ l.queue = queue ∧ l.seq = q.next ∧ l.parent = none ∧
        l.hdr = r.2.1.hdr ∧ l.image = r.2.1.image ∧ l.nblk = r.2.1.nblk ∧ (r.1 = 0 → l.ending = false ∧ l.placed = 0 ∧ l.status = 1 ∧
          l.mx = (s.vif vif).mx ∧ l.my = (s.vif vif).my) ∧
        (r.1 ≠ 0 → l.ending = true ∧ l.status = r.1 ∧ l.placed = l.nblk) ∧ t.groups = s.groups ∧
        (t.vif vif).queues.find? (fun q => q.q == queue) = some e ∧ e.running = some id ∧ e.entries = rest ∧ e.next = (q.next + 1) % 2 ^ 32)) ∧
  (∀ (r : BRef) (s : State),
    ((∀ c gs, s.turn ≠ some (r, c, gs)) → exec (.blockPlacement r) s = .next s ∧ exec (.blockResumption r) s = .next s) ∧
    ∀ cores seats l, s.turn = some (r, cores, seats) → s.launch? r.launch = some l → (∀ g ∈ s.groups, g.ref.b ≠ r) →
      s.launches.Pairwise (fun a b => a.id ≠ b.id) →
      (s.block? r = none → ∃ t b m, exec (.blockPlacement r) s = .next t ∧ t.block? r = some b ∧ b.place = .resident ∧ b.cores = cores ∧ b.window = [] ∧
        b.tiles = [] ∧ b.children = [] ∧ t.launch? r.launch = some m ∧ m.placed = l.placed + 1 ∧ (∀ q, q.b ≠ r → t.group? q = s.group? q) ∧
        ∀ k, k < l.groupCount → ∃ g f, t.group? ⟨r, k⟩ = some g ∧ g.core = cores.getD (k / 4 % cores.length) 0 ∧ g.part % 4 = k % 4 ∧
          (∀ i, i < 64 → g.threads.getD i none = if 64 * k + i < l.thr then some (64 * k + i) else none) ∧
          g.frags = [f] ∧ f.lanes = g.present ∧ f.pc = l.hdr.entry ∧ f.wait = .no ∧ f.handler = false ∧ f.clause = none ∧ g.exited = 0 ∧
          g.v = [] ∧ g.p = [] ∧ g.j = [] ∧ g.flags = [] ∧ g.fpstat = 0 ∧ g.thand = BitVec.ofNat 32 l.trapOff ∧
          (∀ n, n < 128 → g.scell n = if n < 16 then l.argsS.getD n 0 else 0) ∧
          ∀ n, n < 32 → g.acell n = if n = 31 then l.dataPtr else if n < 8 then l.argsA.getD n 0 else 0) ∧
      ∀ x, s.block? r = some x → s.allOps = [] → x.saved.Pairwise (fun a b => a.ref ≠ b.ref) → (∀ g ∈ x.saved, g.ref.b = r) →
        ∃ t b, exec (.blockResumption r) s = .next t ∧ t.block? r = some b ∧ b.place = .resident ∧ b.cores = cores ∧ b.saved = [] ∧
          b.window = x.window ∧ b.tiles = x.tiles ∧ (∀ q, q.b ≠ r → t.group? q = s.group? q) ∧
          ∀ g ∈ x.saved, ∀ seat ∈ seats, seat.ref = g.ref → ∃ h, t.group? g.ref = some h ∧ SameRegs g h ∧ h.flags = g.flags ∧ h.pend = g.pend ∧
            h.core = seat.core ∧ h.part = seat.part ∧ h.frags.map (fun f => (f.lanes, f.pc, f.inject)) = g.frags.map (fun f => (f.lanes, f.pc, f.inject))) ∧
  (∀ (r : BRef) (s : State) (b : Block), s.block? r = some b →
    (s.evictable b = false → exec (.blockEviction r) s = .next s) ∧
    (s.evictable b = true → ∃ t e, exec (.blockEviction r) s = .next t ∧ t.block? r = some e ∧ e.place = .evicted false ∧ e.window = b.window ∧
      e.tiles = b.tiles ∧ e.bins = b.bins ∧ e.saved = (s.groups.filter (fun g => g.ref.b == r)).map (fun g => { g with latch := [], young := [] }) ∧
      t.groups = s.groups.filter (fun g => g.ref.b != r) ∧ t.hbm = s.hbm) ∧
    (b.place ≠ .evicted false → exec (.wakeConditionTest r) s = .next s) ∧
    (b.place = .evicted false → (∃ g ∈ b.saved, ∃ f ∈ g.frags, s.awake b g f = true) →
      ∃ t e, exec (.wakeConditionTest r) s = .next t ∧ t.block? r = some e ∧ e.place = .evicted true) ∧
    (b.place = .evicted false → (∀ g ∈ b.saved, ∀ f ∈ g.frags, s.awake b g f = false ∧ ∀ t, f.wait ≠ .test t) →
      exec (.wakeConditionTest r) s = .next s)) ∧
  ∀ (launch : Nat) (s : State) (l : Launch), s.launch? launch = some l →
    (s.completes l = false → exec (.launchCompletion launch) s = .next s) ∧
    (s.completes l = true →
      let s1 := (s.releaseLaunch launch).scrambleLog l
      let q := s1.translate { vif := l.vif, ctx := l.readCtx, tgt := if pHost l.stat then 1 else 0, write := true } [] 0 (pBase l.stat)
      let gone := fun (t : State) => t.launch? launch = none ∧ (∀ b ∈ t.blocks, b.ref.launch ≠ launch) ∧
        (∀ m ∈ t.members, m.lbound = true → m.launch ≠ launch) ∧
        (l.parent = none → l.depth = 0 → ∃ c, (t.vif l.vif).events = (s.vif l.vif).events ++ [c] ∧ c.time = s.time ∧ c.launch = launch ∧
          c.status = l.status ∧ c.queue = l.queue ∧ c.seq = l.seq ∧ t.sent = s.sent ++ [.msix l.vif l.queue]) ∧
        ∀ p b, l.parent = some p → p.launch ≠ launch → s.block? p = some b → launch ∈ b.children → ∃ e, t.block? p = some e ∧
          e.children = b.children.filter (· != launch) ∧ e.badChildren = b.badChildren + (if l.status = 1 then 0 else 1)
      (l.statDone = true ∨ l.stat = 0 ∨ l.status = 0x10 → ∃ t, exec (.launchCompletion launch) s = .next t ∧ gone t ∧ t.hbm = s.hbm) ∧
      (l.statDone = false → l.stat ≠ 0 → l.status ≠ 0x10 → pHost l.stat = false →
        (∀ key lv, q.1 = .ok key lv → ∃ t, exec (.launchCompletion launch) s = .next t ∧ gone t ∧
          t.caches = (q.2.homeWrite l.vif key (leBytes 4 (launch * 65536 + l.status))).caches) ∧
        ∀ cause, q.1 = .fault cause → ∃ (t : State) (m : Launch) (tag : Nat), exec (.launchCompletion launch) s = .next t ∧ t.launch? launch = some m ∧ m.statHeld = some tag ∧
          ∃ f ∈ (t.vif l.vif).faults, f.tag = tag)) ∧
    (l.ending = true → exec (.terminateLaunch launch) s = .next s) ∧
    (l.ending = false → s.blocks.Pairwise (fun a b => a.ref ≠ b.ref) → ∃ t m, exec (.terminateLaunch launch) s = .next t ∧ t.launch? launch = some m ∧
      m.ending = true ∧ m.status = 3 ∧ t.hbm = s.hbm ∧ (∀ b ∈ t.blocks, b.ref.launch = launch → b.place = .exited) ∧
      (∀ b ∈ s.blocks, b.ref.launch = launch → b.place ≠ .exited → ∀ g ∈ t.groups, g.ref.b ≠ b.ref) ∧
      ∀ q, q.b.launch ≠ launch → t.group? q = s.group? q)

/-- The settings of interfaces, the watchdog's expiry, the records and the CXL.mem window (R6, R430, R431, R435 to R437, R447, R449,
R450, Tables 26-3, 27-2). Only PF 0 sets weights, limits, meshes and pools, and each value in its range; features are accepted once,
within the offer; a record goes to a ring that has room or is counted as dropped; an idle clock adds 64 to the idle counter; the
host reads ones where no page is mapped, and writes bytes to the home as the page's interface.
The model's own choices it rests on are in log entries 2, 109, 121 to 123, 126, 162. -/
def Obligations.HostSettings : Prop :=
  (∀ (by_ vif n : Nat) (s : State),
    let only := fun (t : State) (v : Vif) => t = { s with vifs := t.vifs } ∧ t.vif vif = v ∧ ∀ k, k ≠ vif → t.vif k = s.vif k
    let v := s.vif vif
    (by_ = 0 → s.recovery = false → vif < 64 →
      (1 ≤ n → n ≤ 255 → ∃ t, exec (.interfaceWeightSet by_ vif n) s = .next t ∧ only t { v with weight := n }) ∧
      (n ≤ 65535 → ∃ t, exec (.watchdogLimitSet by_ vif n) s = .next t ∧ only t { v with wdLimit := n }) ∧
      (∀ x y w h, (w = 1 ∨ w = 2 ∨ w = 4 ∨ w = 8) → (h = 1 ∨ h = 2 ∨ h = 4 ∨ h = 8) → x % w = 0 → y % h = 0 → x + w ≤ 8 → y + h ≤ 8 →
        ∃ t, exec (.virtualMeshSet by_ vif x y w h) s = .next t ∧ only t { v with mx := x, my := y, mw := w, mh := h }) ∧
      ∀ base len, s.poolUsed vif = 0 → base % 64 = 0 → base + len ≤ 2 ^ 57 →
        ∃ t, exec (.savePoolGrant by_ vif base len) s = .next t ∧ only t { v with poolBase := base, poolLen := len }) ∧
    (by_ ≠ 0 → exec (.interfaceWeightSet by_ vif n) s = .next s ∧ exec (.watchdogLimitSet by_ vif n) s = .next s ∧
      (∀ x y w h, exec (.virtualMeshSet by_ vif x y w h) s = .next s) ∧ ∀ base len, exec (.savePoolGrant by_ vif base len) s = .next s) ∧
    (s.recovery = false → vif < 64 → (∀ (x : BitVec 128), v.accept = none → ∃ t y, exec (.featureAcceptWrite vif x) s = .next t ∧ only t { v with accept := some y } ∧
        ∀ b, y.getLsbD b = (x.getLsbD b && (Config.offer vif).getLsbD b && decide (b < 13))) ∧
      ∀ queue k ctx, queue < 16 → 4 ≤ k → k ≤ 16 → ctx < 4096 → (∀ q ∈ v.queues, q.q = queue → q.running = none) →
        ∃ t e, exec (.launchQueueCreate vif queue k ctx) s = .next t ∧ only t { v with queues := (t.vif vif).queues } ∧
          (t.vif vif).queues.find? (fun q => q.q == queue) = some e ∧ e.k = k ∧ e.ctx = ctx ∧ e.entries = [] ∧ e.running = none ∧
          ∀ m, m ≠ queue → (t.vif vif).queues.find? (fun q => q.q == m) = v.queues.find? (fun q => q.q == m)) ∧
    (∀ (x : BitVec 128), v.accept ≠ none → exec (.featureAcceptWrite vif x) s = .next s) ∧
    (v.wdExpired s.time = false → exec (.watchdogExpiry vif) s = .next s) ∧
    (v.wdExpired s.time = true → ∃ t r, exec (.watchdogExpiry vif) s = .next t ∧ t.errors = s.errors ++ [r] ∧ r.kind = 7 ∧ r.arg = vif ∧
      t.hbm = s.hbm ∧ (t.vif vif).wdSince = none ∧ ∀ l, s.launch? l.id = some l → l.vif = vif → ∃ m, t.launch? l.id = some m ∧ m.ending = true ∧
        (l.ending = false → m.status = 3) ∧ (l.ending = true → m.status = l.status)) ∧
    (∀ base slots kinds, s.feature vif 9 = true → ∃ t, exec (.traceRingSet vif base slots kinds) s = .next t ∧
      only t { v with ringBase := base % 2 ^ 57, ringSlots := slots, ringKinds := kinds, ringUsed := 0, dropped := 0, trace := [] }) ∧
    (∀ base slots kinds, s.feature vif 9 = false → exec (.traceRingSet vif base slots kinds) s = .next s) ∧
    (v.trace = [] → exec (.traceRecordWrite vif) s = .next s) ∧
    -- records of one source and time go to the ring in the order of their events (R434)
    (v.trace ≠ [] → ∃ pre r post, v.trace = pre ++ r :: post ∧ (∀ y ∈ pre, ¬(y.source = r.source ∧ y.time = r.time)) ∧
      (v.ringSlots ≤ v.ringUsed → ∃ t, exec (.traceRecordWrite vif) s = .next t ∧ only t { v with trace := v.trace.erase r, dropped := v.dropped + 1 }) ∧
      (v.ringUsed < v.ringSlots → ∀ u, s.putBytes vif (v.ringBase + 32 * v.ringUsed) r.bytes = some u →
        ∃ t, exec (.traceRecordWrite vif) s = .next t ∧ (t.vif vif).trace = v.trace.erase r ∧ (t.vif vif).ringUsed = v.ringUsed + 1 ∧
          (t.vif vif).dropped = v.dropped ∧ t.caches = u.caches ∧ t.groups = s.groups))) ∧
  (∀ (launch : Nat) (s : State) (l : Launch), s.launch? launch = some l →
    (s.feature l.vif 10 = true → ∃ (t : State) (m : Launch) (r : LaneRec), exec (.laneCycleRecordEnable launch none) s = .next t ∧ t.launch? launch = some m ∧
      m.laneRec = some r ∧ r.counters = [] ∧ r.starts = (List.range 64).map (fun i => 64 + i * (8 * ((l.hdr.codelen + 511) / 512))) ∧
      bareLaunch m = bareLaunch l) ∧
    (∀ bs, s.feature l.vif 10 = true → bs.length = 64 → bs[0]? = some 64 → (∀ x ∈ bs, x % 8 = 0) → bs.Pairwise (· < ·) →
      ∃ (t : State) (m : Launch) (r : LaneRec), exec (.laneCycleRecordEnable launch (some bs)) s = .next t ∧ t.launch? launch = some m ∧ m.laneRec = some r ∧
        r.counters = [] ∧ r.starts = bs ∧ bareLaunch m = bareLaunch l) ∧
    (∀ bs, s.feature l.vif 10 = false → exec (.laneCycleRecordEnable launch bs) s = .next s) ∧
    ∀ core part g (r : LaneRec), s.counted core part = some g → g.ref.b.launch = launch → l.laneRec = some r →
      let at_ := 5 * r.bin (s.idlePc g l) + 4
      -- an idle clock is charged to the word that the fragment would issue, past a header or a prefix
      (∀ f w, chooseFrag g.frags = some f → f.inject = [] → (s.fetch g.core l f.pc).1 = .word w →
        (wordKind w ≠ 2 → wordKind w ≠ 3 → s.idlePc g l = f.pc) ∧
        (wordKind w = 2 ∨ wordKind w = 3 → ∀ y, ((s.fetch g.core l f.pc).2.fetch g.core l (f.pc + 8)).1 = .word y → wordKind y = 0 → s.idlePc g l = f.pc + 8)) ∧
      ∃ (t : State) (m : Launch) (n : LaneRec), exec (.laneCycleCount launch core part) s = .next t ∧ t.launch? launch = some m ∧ m.laneRec = some n ∧ bareLaunch m = bareLaunch l ∧
        n.starts = r.starts ∧ t.groups = s.groups ∧ sgetD n.counters at_ 0 = (sgetD r.counters at_ 0 + 64) % 2 ^ 48 ∧
        ∀ k, k ≠ at_ → sgetD n.counters k 0 = sgetD r.counters k 0) ∧
  (∀ (addr : Nat) (s : State), s.recovery = false →
    (∀ k, k < 32 → addr % 32 + k < 32 → 0 < k → s.windowAt addr = none →
      exec (.hostMemRead addr k) s = .next { s with sent := s.sent ++ [.window addr (List.replicate k 255) false] } ∧
      ∀ bs, bs.length = k → exec (.hostMemWrite addr bs) s = .next s) ∧
    ∀ dpa vif, s.windowAt addr = some (dpa, vif) →
      (s.lostDies.contains (homeDie (dpa / 32)) = false → exec (.hostMemRead addr 1) s =
        .next { (s.homeRead vif dpa 1).2 with sent := s.sent ++ [.window addr ((s.homeRead vif dpa 1).1.getD [0]) (s.homeRead vif dpa 1).1.isNone] }) ∧
      (s.lostDies.contains (homeDie (dpa / 32)) = true → exec (.hostMemRead addr 1) s = .next { s with sent := s.sent ++ [.window addr [0] true] }) ∧
      ∀ (b : Byte), s.lostDies.contains (homeDie (dpa / 32)) = false → secIsHost (dpa / 32) = false →
        (s.cache (.l2 (homeDie (dpa / 32)))).poisoned (dpa / 32) = false → ∃ t, exec (.hostMemWrite addr [b]) s = .next t ∧ t.groups = s.groups ∧
          sget (t.cache (.l2 (homeDie (dpa / 32)))).bytes dpa = some { val := b, dirty := true, vif := vif }) ∧
  ∀ (s : State) (x : BitVec 128), s.recovery = false →
    (∀ vif ctx, vif < 64 → ctx < 4096 → x.toNat % 2 ^ 64 % 4096 = 0 → x.toNat % 2 ^ 64 < 2 ^ 52 → ∃ t, exec (.registerWrite (.ctxRoot vif ctx) x) s = .next t ∧
      sget (t.vif vif).roots ctx = (if x.getLsbD 127 = true then some (x.toNat % 2 ^ 64) else none) ∧ ∀ c, c ≠ ctx → sget (t.vif vif).roots c = sget (s.vif vif).roots c) ∧
    (∀ page a, x.getLsbD 127 = true → page < 244140 → x.toNat % 2 ^ 64 % 2 ^ 21 = 0 → x.toNat % 2 ^ 64 < 2 ^ 39 → s.feature (x.toNat / 2 ^ 64 % 2 ^ 6) 7 = true →
      s.lostDies.contains (homeDie (x.toNat % 2 ^ 64 / 32)) = false → a / 2 ^ 21 = page → ∃ t, exec (.registerWrite (.windowPage page) x) s = .next t ∧
        t = { s with windowPages := t.windowPages } ∧ t.windowAt a = some (x.toNat % 2 ^ 64 + a % 2 ^ 21, x.toNat / 2 ^ 64 % 2 ^ 6)) ∧
    (∀ page a, x.getLsbD 127 = false → a / 2 ^ 21 = page → ∃ t, exec (.registerWrite (.windowPage page) x) s = .next t ∧
        t = { s with windowPages := t.windowPages } ∧ t.windowAt a = none) ∧
    (∀ vif, vif < 64 → ∃ t, exec (.registerWrite (.ats vif) x) s = .next t ∧ t.vif vif = { s.vif vif with ats := x.getLsbD 0 }) ∧
    (∀ vif n, (s.vif vif).debugger = true → 0x20 ≤ n → n ≤ 0x28 → ∃ t, exec (.registerWrite (.debugInit vif n) x) s = .next t ∧
      sget (t.vif vif).dbg n = some (debugBits n (x.setWidth 64))) ∧
    (∀ g n h, s.group? g = some h → (∀ f ∈ h.frags, f.stopped = false) → exec (.registerWrite (.debugReg g n) x) s = .next s) ∧
    (∀ g h, s.group? g = some h → (∃ f ∈ h.frags, f.stopped = true) → ∃ t u, exec (.registerWrite (.debugReg g 0x20) x) s = .next t ∧
      t.group? g = some u ∧ u.dctl = x.setWidth 32 &&& 3 ∧ u.frags = h.frags ∧ SameRegs h u) ∧
    ∀ n, exec (.registerWrite (.ro n) x) s = .next s

/-- Resets, firmware and power (R457 to R459, Tables 27-2 and 27-7). A device reset first ends every launch with its status; it and a
cold reset leave no launch, no block, no cached byte and no mapping, keep the flash, the fused minimum and host memory, and run an
image that passes the boot ROM's check or wait in recovery; an interface's reset ends its launches, clears what it holds and takes its keys; PF 0 alone raises the fused
minimum and sets power limits; a core's frequency stays in its range, and falls under throttling.
The model's own choices it rests on are in log entries 13, 14, 118 to 120. -/
def Obligations.ResetsAndPower : Prop :=
  (∀ (s : State),
    let anew := fun (t : State) => t.launches = [] ∧ t.blocks = [] ∧ t.groups = [] ∧
      t.copies = [] ∧ t.quads = [] ∧ t.caches = [] ∧ t.tlbs = [] ∧ t.ilines = [] ∧ t.band = [] ∧ t.hbm = [] ∧ t.time = 0 ∧ (∀ v, t.vif v = {}) ∧
      (∀ m ∈ t.members, m.valid = false) ∧ t.linksFailed = [] ∧ t.windowPages = [] ∧ t.live = s.live ∧ t.flash = s.flash ∧ t.fwMin = s.fwMin ∧
      (s.imageOk s.flash = true → t.recovery = false ∧ t.fwVersion = s.flash.version) ∧ (s.imageOk s.flash = false → t.recovery = true)
    (∃ t, exec .coldReset s = .next t ∧ anew t ∧ t.host = s.host ∧ t.sent = s.sent) ∧
    -- a device reset ends every launch with its status first
    ∃ t, exec .deviceReset s = .next t ∧ anew t ∧ t.host = (s.endAll (fun _ => true)).host) ∧
  (∀ (vif : Nat) (s : State), 64 ≤ vif ∨ s.recovery = true → exec (.interfaceReset vif) s = .next s) ∧
  (∀ (vif : Nat) (s : State), vif < 64 → s.recovery = false → let u := s.endAll (fun l => l.vif == vif)
    ∃ t, exec (.interfaceReset vif) s = .next t ∧ t.hbm = s.hbm ∧ t.host = u.host ∧ (∀ l ∈ t.launches, l.vif ≠ vif) ∧
    (∀ b ∈ t.blocks, ∀ l ∈ s.launches, l.vif = vif → b.ref.launch ≠ l.id) ∧ (∀ m ∈ t.members, m.valid = true → m.vif ≠ vif) ∧
    (∀ c ∈ t.copies, c.vif ≠ vif) ∧ (∀ e ∈ t.tlbs, e.vif ≠ vif) ∧ (∀ e ∈ t.ilines, e.vif ≠ vif) ∧
    (t.vif vif).accept = none ∧ (t.vif vif).queues = [] ∧ (t.vif vif).roots = [] ∧ (t.vif vif).ckpt = none ∧ (t.vif vif).faults = [] ∧
    (t.vif vif).kver = ((s.vif vif).kver + 1) % 256 ∧ (t.vif vif).weight = (s.vif vif).weight ∧ (t.vif vif).mw = (s.vif vif).mw ∧
    (∀ sec b, sget s.band sec = some b → b.vif = vif → t.memPoisoned vif sec = true) ∧
    -- another interface's sectors, and its bytes that have yet to reach memory, stay (R87, R457)
    (∀ sec b, sget u.band sec = some b → b.vif ≠ vif → (∀ c ∈ u.caches, ∀ a y, a / 32 = sec → sget c.bytes a = some y → y.dirty = true → y.vif ≠ vif) →
      sget t.band sec = some b) ∧
    ∀ c a y, sget (u.cache c).bytes a = some y → y.dirty = true → y.vif ≠ vif → sget (t.cache c).bytes a = some y) ∧
  (∀ (img : FwImage) (s : State),
    (∀ by_, by_ ≠ 0 → exec (.firmwareImageLoad ⟨by_, img⟩) s = .next s) ∧
    (s.recovery = false ∨ s.imageOk img = false → exec (.firmwareImageLoad ⟨0, img⟩) s = .next { s with flash := img }) ∧
    (s.recovery = true → s.imageOk img = true → ∃ t, exec (.firmwareImageLoad ⟨0, img⟩) s = .next t ∧ t.recovery = false ∧ t.flash = img ∧
      t.fwVersion = img.version ∧ t.fwMin = s.fwMin ∧ t.launches = [] ∧ t.groups = [])) ∧
  (∀ (by_ : Nat) (s : State),
    (by_ = 0 → s.recovery = false → exec (.raiseFusedMinimum by_) s = .next { s with fwMin := max s.fwMin s.fwVersion }) ∧
    (by_ ≠ 0 ∨ s.recovery = true → exec (.raiseFusedMinimum by_) s = .next s ∧ ∀ w core lo hi, exec (.powerLimitSet by_ w core lo hi) s = .next s) ∧
    ∀ w core lo hi, by_ = 0 → s.recovery = false → ∃ t, exec (.powerLimitSet by_ w core lo hi) s = .next t ∧
      t = { s with powerLimit := t.powerLimit, freqBounds := t.freqBounds } ∧ t.powerLimit = (if w ≤ 3300 then w else s.powerLimit) ∧
      (core < 64 → 1200 ≤ lo → lo ≤ hi → hi ≤ 2100 → t.bounds core = (lo, hi)) ∧
      (¬(core < 64 ∧ 1200 ≤ lo ∧ lo ≤ hi ∧ hi ≤ 2100) → t.bounds core = s.bounds core) ∧ ∀ c, c ≠ core → t.bounds c = s.bounds c) ∧
  ∀ (s : State),
    (∀ core, core < 64 → ∃ t f, exec (.dvfsPredict core) s = .next t ∧ t = { s with freq := t.freq } ∧ sget t.freq core = some f ∧ f ≤ (s.bounds core).2 ∧
      ((s.bounds core).1 ≤ (s.bounds core).2 → (s.bounds core).1 ≤ f) ∧ ∀ c, c ≠ core → sget t.freq c = sget s.freq c) ∧
    ∃ t, exec .powerLimitThrottle s = .next t ∧ t = { s with freq := t.freq } ∧ ∀ c, c < 64 → sgetD t.freq c 1800 ≤ sgetD s.freq c 1800 ∧
      ((s.bounds c).1 ≤ sgetD s.freq c 1800 → (s.bounds c).1 ≤ sgetD t.freq c 1800)

/-- A step first does what presses, where something does: a split of the ring takes its effect (R140), a channel's failed tables are reloaded
(R93), a cache's set or a snoop filter that holds more than it can makes room (R126, R136), a block that must make room is evicted (R405,
R430); otherwise it makes the first move of the agenda (R365, R396, Table 3-7). An event's meaning runs where it is one; where a partition issues,
and the fragment chosen stands at a word inside its clause that decodes, with its extension words, to an instruction, the step is
that instruction's meaning in the state whose current instruction is that word's: the fragment's active lanes, the word's offset
and the offset after its last extension word. An entry that is to run again runs with the operands it captured.
The model's own choices it rests on are in log entries 1, 3. -/
def Obligations.StepRunsDecoded : Prop :=
  (∀ (s : State) (i : Instr), s.begin.pressing = some i → step s = exec i s.begin) ∧
  (∀ (s : State) (i : Instr) (rest : List Move), s.begin.pressing = none → s.agenda = .event i :: rest → i.ctl = none →
    step s = exec i { s.begin with agenda := rest }) ∧
  ∀ (s : State) (core part : Nat) (rest : List Move) (g h : Group) (f : Frag) (l : Launch), s.begin.pressing = none → s.agenda = .issue core part :: rest →
    let s1 : State := { s.begin with agenda := rest }
    let gs := s1.eligibleGroups core part
    s1.chooseGroup gs = some g → (s1.passOver gs g).group? g.ref = some h → chooseFrag (s1.eligibleFrags g) = some f →
    let s2 := s1.passOver gs g
    (s2.next h f).isSome = true → s2.launch? h.ref.b.launch = some l →
    (∀ (c : Clause) (w n : Nat) (xs : List Nat) (s3 s4 : State) (i k : Instr), f.inject = [] → f.clause = some c → l.inCode f.pc = true →
      s2.fetch h.core l f.pc = (.word w, s3) → wordKind w = 0 → decodeHead l.hdr.version w = .ok n →
      -- its declared operands and its flag are there before its extension words are looked at (Table 3-7, order 5)
      decodeFront l.hdr.version w = .ok k → l.fits k = true →
      (k.setsFlag = true → ∃ ctl, k.ctl = some ctl ∧ (if ctl.fsel then c.flagB else c.flagA).isSome = true) →
      s3.fetchExts h.core l c.stop n (f.pc + 8) = (some (.ok xs), s4) → decodeInstr l.hdr.version w xs = .ok i →
      ∃ (u : State) (y : Cur), step s = exec i u ∧ u = { s4.setGroup (h.setFrag (lowest f.lanes) f) with cur := some y } ∧ y.g = h.ref ∧ y.f = lowest f.lanes ∧
        y.act = (match f.pfx with | some p => p.act f.lanes | none => f.lanes) ∧ y.pc = f.pc ∧ y.npc = f.pc + 8 * (n + 1) ∧ y.word = w ∧ y.exts = xs ∧
        y.covered = f.pfx.isSome ∧ y.flagA = c.flagA ∧ y.flagB = c.flagB ∧ y.after = c.stop ∧ y.inj = none ∧ y.fpen = s4.fpenNow h.core l) ∧
    ∀ (e : Entry) (es : List Entry) (i : Instr), f.inject = e :: es → e.bad = false → e.mtx = false → e.peer = none →
      decodeInstr l.hdr.version e.word e.exts = .ok i →
      ∃ (u : State) (y : Cur), step s = exec i u ∧ u = { s2 with cur := some y } ∧ y.g = h.ref ∧ y.f = lowest f.lanes ∧ y.act = e.lanes ∧ y.pc = e.tpc ∧
        y.npc = f.pc ∧ y.word = e.word ∧ y.exts = e.exts ∧ y.covered = false ∧ y.inj = some (e.ops, e.flag) ∧
        y.fpen = s2.fpenNow h.core l

/-! ### Encodings -/

/-- Decoding gives back what was encoded (R43 to R48): the words of any well-formed instruction decode, in version 3, to that
instruction with every operand, and to nothing more.
The model's own choices it rests on are in log entries 36, 37. -/
def Obligations.DecodeEncode : Prop :=
  ∀ (i : Instr) (c : Ctl), i.ctl = some c → i.wellFormed = true → decode 3 (encode i) = .ok (i, [])

/-- Words that the spec prints, and the instructions it says they are (the encoding examples of 03, 05 to 08, 10 to 19 and 23). -/
def Obligations.DecodeWords : Prop :=
  decode 3 [0x0] = .error .unassignedOpcode ∧ decode 3 [0x3190010040000001] = .error .unassignedOpcode ∧
  decode 3 [0x3180010040000001] = .error .reservedMod ∧
  decode 3 [0x310800E200000000] = .ok (.pmake ⟨4, false⟩ 1 8, []) ∧
  decode 3 [0x3118010040000001, 0x4000000000000100, 0x4000000000000400] = .ok (.psub ⟨4, false⟩ 2 1 (.imm 256 1024), []) ∧
  decode 3 [0x3060000100000007] = .ok (.cmo ⟨0, false⟩ .cinv .cl 4, []) ∧
  decode 3 [0x30000A0081000009] = .ok (.ld ⟨0, false⟩ .x4 false .none (.v 20) 2 (.v ⟨8, false⟩), []) ∧
  decode 3 [0x300800007040000A] = .ok (.ld ⟨4, false⟩ .x4 false .none (.v 0) 1 (.s 2), []) ∧
  decode 3 [0x3018000071200000] = .ok (.st ⟨4, false⟩ .x1 false false .none 1 .none (.s 9), []) ∧
  decode 3 [0x30100000F1200003, 0x4000000000000010] = .ok (.st ⟨0, false⟩ .x1 false false .none 3 (.imm 16) (.s 9), []) ∧
  decode 3 [0x3048020071200000, 0x400000003B9ACA00] = .ok (.waita ⟨4, false⟩ .eq 4 1 .none 9 1000000000, []) ∧
  decode 3 [0x34000180B2804000] =
    .ok (.cpyLd ⟨0, false⟩ { pL := 0, ord := false, aT := 3, aR := 2, sC := 20, aB := 4, notify := none }, []) ∧
  decode 3 [0x2C30040240001005] = .ok (.vshfl ⟨0, false⟩ (.by .xor (.imm 1)) .w64 8 ⟨9, false⟩, []) ∧
  decode 3 [0x2800018080000104] = .ok (.vcvt ⟨0, false⟩ .e4m3 .f32 .rne true 3 ⟨2, false⟩, []) ∧
  decode 3 [0x2038010000001000] = .ok (.vfma ⟨4, false⟩ .f32 .rne false false false 2 (.v 0 false) (.v 0 false) (.v 1 false), []) ∧
  decode 3 [0x2038010000001100] = .ok (.vfma ⟨4, false⟩ .f32 .rne false false true 2 (.v 0 false) (.v 0 false) (.v 1 false), []) ∧
  decode 3 [0x2030040000808800] = .ok (.vfma ⟨0, false⟩ .f32 .rne false false false 8 (.v 0 true) (.v 4 false) (.v 8 false), []) ∧
  decode 3 [0x3980028000000001] = .ok (.mpub ⟨0, false⟩ 5 1, []) ∧ decode 3 [0x3990000140000000] = .ok (.settle ⟨0, false⟩ (.tile 5), []) ∧
  decode 3 [0x39A0C60140000000] = .ok (.linq ⟨0, false⟩ 12 5, []) ∧
  decode 3 [0x3C10C28000000004, 0x4000000000000001] = .ok (.nbr ⟨0, false⟩ 0 false 5 (.imm 1), []) ∧
  decode 3 [0x3C20C18000000000] = .ok (.rank ⟨0, false⟩ .rank 3, []) ∧
  decode 3 [0x3C00028131000068] = .ok (.coll ⟨0, false⟩ .sum 3 0 5 4 8, []) ∧
  decode 3 [0x00480000C0000001, 0x4000000000000200] = .ok (.brc ⟨4, false⟩ true 3 0x200, []) ∧
  decode 3 [0x0090000000000000] = .ok (.join ⟨0, false⟩ .set 0, []) ∧ decode 3 [0x00A0000000000000] = .ok (.jwait ⟨0, false⟩ 0, []) ∧
  decode 3 [0x0060000000000000, 0x40000000000000F8] = .ok (.call ⟨0, false⟩ 0xF8, []) ∧ decode 3 [0x008C000000000000] = .ok (.ret ⟨6, false⟩, []) ∧
  decodeHeader 3 0xC500088000000000 = some { count := 5, wait := 0, flagA := some 1, flagB := none, yld := false } ∧
  decodeHeader 3 0xD200200000000000 = some { count := 18, wait := 2, flagA := none, flagB := none, yld := false } ∧
  decodePblk 0x8880800000000000 = some { p := 1, inv := false, len := 2, pattern := 1 }

/-- Every step keeps the form of the two memories (R77, R82): the bytes of main memory and of host memory stay in their one form,
whatever the step does, so that equal memories are equal data.
The model's own choices it rests on are in log entries 17, 18. -/
def Obligations.StepKeepsMemoryForm : Prop :=
  ∀ (s t : State), MemOk s → step s = .next t → MemOk t

/-- The machine after reset (R79, R89, R351, R430, R433, R450, Table 27-7): its memories keep their form; no launch, group or copy is there,
every channel is live, every membership entry invalid, every interface unaccepted with weight 16, no watchdog and the whole mesh,
the patrol period is 24 hours and the global timestamp 0.
The model's own choices it rests on are in log entries 11, 13. -/
def Obligations.ResetState : Prop :=
  let s := State.reset
  MemOk s ∧ s.groups = [] ∧ s.blocks = [] ∧ s.launches = [] ∧ s.copies = [] ∧ s.caches = [] ∧ s.tlbs = [] ∧ s.time = 0 ∧ s.recovery = false ∧
    s.patrolHours = 24 ∧ s.linksFailed = [] ∧ s.portsFailed = [] ∧ (∀ d, d < 4 → s.liveOf d = List.range 64) ∧ s.members.length = 64 ∧
    (∀ m ∈ s.members, m.valid = false) ∧ ∀ v, (s.vif v).accept = none ∧ (s.vif v).weight = 16 ∧ (s.vif v).wdLimit = 0 ∧ (s.vif v).mw = 8 ∧
      (s.vif v).mh = 8 ∧ (s.vif v).queues = [] ∧ (s.vif v).debugger = false
end

