-- ==== Sys2Proof/Laws/Exec.lean ====
section
/-! SUPPORT. What exec calls for each instruction: one equation for each constructor, so that no proof unfolds exec. -/

namespace Sys2Proof.Laws

open Sys2Proof Sys2Proof.Machine

theorem exec_nop (c) (s : State) : exec (.nop c) s = execNop c s := rfl
theorem exec_exit (c) (s : State) : exec (.exit c) s = execExit c s := rfl
theorem exec_bra (c) (t) (s : State) : exec (.bra c t) s = execBra c t s := rfl
theorem exec_brc (c) (inv) (p) (t) (s : State) : exec (.brc c inv p t) s = execBrc c inv p t s := rfl
theorem exec_brx (c) (a) (s : State) : exec (.brx c a) s = execBrx c a s := rfl
theorem exec_call (c) (t) (s : State) : exec (.call c t) s = execCall c t s := rfl
theorem exec_callx (c) (a) (s : State) : exec (.callx c a) s = execCallx c a s := rfl
theorem exec_ret (c) (s : State) : exec (.ret c) s = execRet c s := rfl
theorem exec_join (c) (op) (k) (s : State) : exec (.join c op k) s = execJoin c op k s := rfl
theorem exec_jwait (c) (k) (s : State) : exec (.jwait c k) s = execJwait c k s := rfl
theorem exec_reform (c) (a) (mask) (s : State) : exec (.reform c a mask) s = execReform c a mask s := rfl
theorem exec_reorder (c) (sgn) (a) (mask) (s : State) : exec (.reorder c sgn a mask) s = execReorder c sgn a mask s := rfl
theorem exec_gatherComplete (g) (s : State) : exec (.gatherComplete g) s = execGatherComplete g s := rfl
theorem exec_reformDraw (b) (pos) (s : State) : exec (.reformDraw b pos) s = execReformDraw b pos s := rfl
theorem exec_smov (c) (x2) (d) (a) (s : State) : exec (.smov c x2 d a) s = execSmov c x2 d a s := rfl
theorem exec_simm (c) (d) (x) (s : State) : exec (.simm c d x) s = execSimm c d x s := rfl
theorem exec_sadd (c) (m) (w) (d) (a) (b) (s : State) : exec (.sadd c m w d a b) s = execSadd c m w d a b s := rfl
theorem exec_ssub (c) (m) (w) (d) (a) (b) (s : State) : exec (.ssub c m w d a b) s = execSsub c m w d a b s := rfl
theorem exec_smul (c) (d) (a) (b) (s : State) : exec (.smul c d a b) s = execSmul c d a b s := rfl
theorem exec_smulh (c) (u) (d) (a) (b) (s : State) : exec (.smulh c u d a b) s = execSmulh c u d a b s := rfl
theorem exec_smad (c) (d) (a) (b) (e) (s : State) : exec (.smad c d a b e) s = execSmad c d a b e s := rfl
theorem exec_sand (c) (w) (d) (a) (b) (s : State) : exec (.sand c w d a b) s = execSand c w d a b s := rfl
theorem exec_sor (c) (w) (d) (a) (b) (s : State) : exec (.sor c w d a b) s = execSor c w d a b s := rfl
theorem exec_sxor (c) (w) (d) (a) (b) (s : State) : exec (.sxor c w d a b) s = execSxor c w d a b s := rfl
theorem exec_snot (c) (w) (d) (a) (s : State) : exec (.snot c w d a) s = execSnot c w d a s := rfl
theorem exec_sshl (c) (w) (d) (a) (b) (s : State) : exec (.sshl c w d a b) s = execSshl c w d a b s := rfl
theorem exec_sshr (c) (w) (d) (a) (b) (s : State) : exec (.sshr c w d a b) s = execSshr c w d a b s := rfl
theorem exec_ssar (c) (w) (d) (a) (b) (s : State) : exec (.ssar c w d a b) s = execSsar c w d a b s := rfl
theorem exec_smin (c) (u) (w) (d) (a) (b) (s : State) : exec (.smin c u w d a b) s = execSmin c u w d a b s := rfl
theorem exec_smax (c) (u) (w) (d) (a) (b) (s : State) : exec (.smax c u w d a b) s = execSmax c u w d a b s := rfl
theorem exec_scmp (c) (cc) (u) (w) (d) (a) (b) (s : State) : exec (.scmp c cc u w d a b) s = execScmp c cc u w d a b s := rfl
theorem exec_ssel (c) (w) (d) (a) (b) (e) (s : State) : exec (.ssel c w d a b e) s = execSsel c w d a b e s := rfl
theorem exec_sdivu (c) (rem) (w) (d) (a) (b) (s : State) : exec (.sdivu c rem w d a b) s = execSdivu c rem w d a b s := rfl
theorem exec_vmov (c) (x2) (d) (a) (s : State) : exec (.vmov c x2 d a) s = execVmov c x2 d a s := rfl
theorem exec_vimm (c) (d) (x) (s : State) : exec (.vimm c d x) s = execVimm c d x s := rfl
theorem exec_vadd (c) (m) (d) (a) (b) (s : State) : exec (.vadd c m d a b) s = execVadd c m d a b s := rfl
theorem exec_vsub (c) (m) (d) (a) (b) (s : State) : exec (.vsub c m d a b) s = execVsub c m d a b s := rfl
theorem exec_vaddc (c) (sub) (d) (pO) (a) (b) (pI) (s : State) : exec (.vaddc c sub d pO a b pI) s = execVaddc c sub d pO a b pI s := rfl
theorem exec_vmul (c) (rc) (d) (a) (b) (s : State) : exec (.vmul c rc d a b) s = execVmul c rc d a b s := rfl
theorem exec_vmulh (c) (u) (d) (a) (b) (s : State) : exec (.vmulh c u d a b) s = execVmulh c u d a b s := rfl
theorem exec_vmad (c) (rc) (d) (a) (b) (e) (s : State) : exec (.vmad c rc d a b e) s = execVmad c rc d a b e s := rfl
theorem exec_vand (c) (d) (a) (b) (s : State) : exec (.vand c d a b) s = execVand c d a b s := rfl
theorem exec_vor (c) (d) (a) (b) (s : State) : exec (.vor c d a b) s = execVor c d a b s := rfl
theorem exec_vxor (c) (d) (a) (b) (s : State) : exec (.vxor c d a b) s = execVxor c d a b s := rfl
theorem exec_vnot (c) (d) (a) (s : State) : exec (.vnot c d a) s = execVnot c d a s := rfl
theorem exec_vshl (c) (d) (a) (b) (s : State) : exec (.vshl c d a b) s = execVshl c d a b s := rfl
theorem exec_vshr (c) (d) (a) (b) (s : State) : exec (.vshr c d a b) s = execVshr c d a b s := rfl
theorem exec_vsar (c) (d) (a) (b) (s : State) : exec (.vsar c d a b) s = execVsar c d a b s := rfl
theorem exec_vmin (c) (u) (d) (a) (b) (s : State) : exec (.vmin c u d a b) s = execVmin c u d a b s := rfl
theorem exec_vmax (c) (u) (d) (a) (b) (s : State) : exec (.vmax c u d a b) s = execVmax c u d a b s := rfl
theorem exec_vabs (c) (sat) (d) (a) (s : State) : exec (.vabs c sat d a) s = execVabs c sat d a s := rfl
theorem exec_vneg (c) (sat) (d) (a) (s : State) : exec (.vneg c sat d a) s = execVneg c sat d a s := rfl
theorem exec_vclz (c) (d) (a) (s : State) : exec (.vclz c d a) s = execVclz c d a s := rfl
theorem exec_vpopc (c) (d) (a) (s : State) : exec (.vpopc c d a) s = execVpopc c d a s := rfl
theorem exec_vbfe (c) (sgn) (d) (a) (b) (s : State) : exec (.vbfe c sgn d a b) s = execVbfe c sgn d a b s := rfl
theorem exec_vbfi (c) (d) (a) (b) (e) (s : State) : exec (.vbfi c d a b e) s = execVbfi c d a b e s := rfl
theorem exec_vsel (c) (d) (a) (b) (p) (s : State) : exec (.vsel c d a b p) s = execVsel c d a b p s := rfl
theorem exec_vcmp (c) (cc) (u) (d) (a) (b) (s : State) : exec (.vcmp c cc u d a b) s = execVcmp c cc u d a b s := rfl
theorem exec_vfadd (c) (f) (rm) (rc) (d) (a) (b) (s : State) : exec (.vfadd c f rm rc d a b) s = execVfadd c f rm rc d a b s := rfl
theorem exec_vfsub (c) (f) (rm) (d) (a) (b) (s : State) : exec (.vfsub c f rm d a b) s = execVfsub c f rm d a b s := rfl
theorem exec_vfmul (c) (f) (rm) (rc) (d) (a) (b) (s : State) : exec (.vfmul c f rm rc d a b) s = execVfmul c f rm rc d a b s := rfl
theorem exec_vfma (c) (f) (rm) (nab) (nc) (rc) (d) (a) (b) (e) (s : State) : exec (.vfma c f rm nab nc rc d a b e) s = execVfma c f rm nab nc rc d a b e s := rfl
theorem exec_vfmin (c) (f) (d) (a) (b) (s : State) : exec (.vfmin c f d a b) s = execVfmin c f d a b s := rfl
theorem exec_vfmax (c) (f) (d) (a) (b) (s : State) : exec (.vfmax c f d a b) s = execVfmax c f d a b s := rfl
theorem exec_vfcmp (c) (f) (cc) (d) (a) (b) (s : State) : exec (.vfcmp c f cc d a b) s = execVfcmp c f cc d a b s := rfl
theorem exec_vrcp (c) (rm) (d) (a) (s : State) : exec (.vrcp c rm d a) s = execVrcp c rm d a s := rfl
theorem exec_vrsq (c) (rm) (d) (a) (s : State) : exec (.vrsq c rm d a) s = execVrsq c rm d a s := rfl
theorem exec_vsqrt (c) (f) (rm) (d) (a) (s : State) : exec (.vsqrt c f rm d a) s = execVsqrt c f rm d a s := rfl
theorem exec_vexp2 (c) (d) (a) (s : State) : exec (.vexp2 c d a) s = execVexp2 c d a s := rfl
theorem exec_vlog2 (c) (d) (a) (s : State) : exec (.vlog2 c d a) s = execVlog2 c d a s := rfl
theorem exec_vsin (c) (d) (a) (s : State) : exec (.vsin c d a) s = execVsin c d a s := rfl
theorem exec_vcos (c) (d) (a) (s : State) : exec (.vcos c d a) s = execVcos c d a s := rfl
theorem exec_vldexp (c) (f) (rm) (d) (a) (b) (s : State) : exec (.vldexp c f rm d a b) s = execVldexp c f rm d a b s := rfl
theorem exec_vcvt (c) (dst) (src) (rm) (nosat) (d) (a) (s : State) : exec (.vcvt c dst src rm nosat d a) s = execVcvt c dst src rm nosat d a s := rfl
theorem exec_vpack (c) (f) (s : State) : exec (.vpack c f) s = execVpack c f s := rfl
theorem exec_vunpk (c) (f) (s : State) : exec (.vunpk c f) s = execVunpk c f s := rfl
theorem exec_vrnd (c) (f) (rm) (d) (a) (s : State) : exec (.vrnd c f rm d a) s = execVrnd c f rm d a s := rfl
theorem exec_vclass (c) (f) (d) (a) (s : State) : exec (.vclass c f d a) s = execVclass c f d a s := rfl
theorem exec_v2s (c) (l) (d) (a) (s : State) : exec (.v2s c l d a) s = execV2s c l d a s := rfl
theorem exec_s2v (c) (l) (d) (a) (s : State) : exec (.s2v c l d a) s = execS2v c l d a s := rfl
theorem exec_vlane (c) (l) (d) (a) (s : State) : exec (.vlane c l d a) s = execVlane c l d a s := rfl
theorem exec_vshfl (c) (x) (w) (d) (a) (s : State) : exec (.vshfl c x w d a) s = execVshfl c x w d a s := rfl
theorem exec_vrot (c) (w) (d) (a) (k) (s : State) : exec (.vrot c w d a k) s = execVrot c w d a k s := rfl
theorem exec_vballot (c) (d) (p) (s : State) : exec (.vballot c d p) s = execVballot c d p s := rfl
theorem exec_vredu (c) (op) (w) (d) (a) (s : State) : exec (.vredu c op w d a) s = execVredu c op w d a s := rfl
theorem exec_vscan (c) (op) (excl) (w) (d) (a) (s : State) : exec (.vscan c op excl w d a) s = execVscan c op excl w d a s := rfl
theorem exec_pand (c) (ia) (ib) (d) (a) (b) (s : State) : exec (.pand c ia ib d a b) s = execPand c ia ib d a b s := rfl
theorem exec_por (c) (ia) (ib) (d) (a) (b) (s : State) : exec (.por c ia ib d a b) s = execPor c ia ib d a b s := rfl
theorem exec_pxor (c) (ia) (ib) (d) (a) (b) (s : State) : exec (.pxor c ia ib d a b) s = execPxor c ia ib d a b s := rfl
theorem exec_pnot (c) (d) (a) (s : State) : exec (.pnot c d a) s = execPnot c d a s := rfl
theorem exec_pmov (c) (f) (s : State) : exec (.pmov c f) s = execPmov c f s := rfl
theorem exec_pcnt (c) (f) (s : State) : exec (.pcnt c f) s = execPcnt c f s := rfl
theorem exec_ld (c) (n) (raw) (h) (d) (p) (i0) (s : State) : exec (.ld c n raw h d p i0) s = execLd c n raw h d p i0 s := rfl
theorem exec_st (c) (n) (raw) (nosat) (h) (p) (i0) (x) (s : State) : exec (.st c n raw nosat h p i0 x) s = execSt c n raw nosat h p i0 x s := rfl
theorem exec_atom (c) (op) (d) (p) (i0) (x) (s : State) : exec (.atom c op d p i0 x) s = execAtom c op d p i0 x s := rfl
theorem exec_atomf (c) (op) (d) (p) (i0) (x) (s : State) : exec (.atomf c op d p i0 x) s = execAtomf c op d p i0 x s := rfl
theorem exec_waita (c) (cmp) (d) (p) (i0) (x) (timeout) (s : State) : exec (.waita c cmp d p i0 x timeout) s = execWaita c cmp d p i0 x timeout s := rfl
theorem exec_waitaRetest (g) (lane) (s : State) : exec (.waitaRetest g lane) s = execWaitaRetest g lane s := rfl
theorem exec_pref (c) (l) (rng) (p) (i0) (s : State) : exec (.pref c l rng p i0) s = execPref c l rng p i0 s := rfl
theorem exec_cmo (c) (op) (l) (p) (s : State) : exec (.cmo c op l p) s = execCmo c op l p s := rfl
theorem exec_locq (c) (d) (p) (i0) (s : State) : exec (.locq c d p i0) s = execLocq c d p i0 s := rfl
theorem exec_pmake (c) (d) (a) (s : State) : exec (.pmake c d a) s = execPmake c d a s := rfl
theorem exec_psub (c) (d) (p) (x) (s : State) : exec (.psub c d p x) s = execPsub c d p x s := rfl
theorem exec_padv (c) (d) (p) (x) (s : State) : exec (.padv c d p x) s = execPadv c d p x s := rfl
theorem exec_pget (c) (f) (d) (p) (s : State) : exec (.pget c f d p) s = execPget c f d p s := rfl
theorem exec_psetf (c) (d) (p) (x) (s : State) : exec (.psetf c d p x) s = execPsetf c d p x s := rfl
theorem exec_pclass (c) (k) (d) (p) (s : State) : exec (.pclass c k d p) s = execPclass c k d p s := rfl
theorem exec_pchk (c) (st0) (n) (d) (p) (i0) (s : State) : exec (.pchk c st0 n d p i0) s = execPchk c st0 n d p i0 s := rfl
theorem exec_narrow (c) (x1) (d) (p) (s : State) : exec (.narrow c x1 d p) s = execNarrow c x1 d p s := rfl
theorem exec_widen (c) (x1) (d) (p) (s : State) : exec (.widen c x1 d p) s = execWiden c x1 d p s := rfl
theorem exec_cpyLd (c) (x) (s : State) : exec (.cpyLd c x) s = execCpyLd c x s := rfl
theorem exec_cpySt (c) (x) (s : State) : exec (.cpySt c x) s = execCpySt c x s := rfl
theorem exec_cpyrd (c) (op) (x) (s : State) : exec (.cpyrd c op x) s = execCpyrd c op x s := rfl
theorem exec_copyChunkDone (id) (k) (s : State) : exec (.copyChunkDone id k) s = execCopyChunkDone id k s := rfl
theorem exec_copyNotifyWrite (id) (s : State) : exec (.copyNotifyWrite id) s = execCopyNotifyWrite id s := rfl
theorem exec_copyFault (id) (k) (s : State) : exec (.copyFault id k) s = execCopyFault id k s := rfl
theorem exec_heldCopyApply (b) (s : State) : exec (.heldCopyApply b) s = execHeldCopyApply b s := rfl
theorem exec_ctest (c) (d) (p) (i0) (m) (s : State) : exec (.ctest c d p i0 m) s = execCtest c d p i0 m s := rfl
theorem exec_cwait (c) (d) (p) (i0) (m) (timeout) (s : State) : exec (.cwait c d p i0 m timeout) s = execCwait c d p i0 m timeout s := rfl
theorem exec_enq (c) (k) (d) (q) (v) (s : State) : exec (.enq c k d q v) s = execEnq c k d q v s := rfl
theorem exec_deq (c) (k) (d) (q) (s : State) : exec (.deq c k d q) s = execDeq c k d q s := rfl
theorem exec_deqWake (g) (lane) (s : State) : exec (.deqWake g lane) s = execDeqWake g lane s := rfl
theorem exec_mloop (c) (x) (s : State) : exec (.mloop c x) s = execMloop c x s := rfl
theorem exec_mloopStep (core) (quad) (s : State) : exec (.mloopStep core quad) s = execMloopStep core quad s := rfl
theorem exec_mloopSuspend (core) (quad) (s : State) : exec (.mloopSuspend core quad) s = execMloopSuspend core quad s := rfl
theorem exec_mzero (c) (d) (s : State) : exec (.mzero c d) s = execMzero c d s := rfl
theorem exec_mload (c) (d) (p) (i0) (r) (s : State) : exec (.mload c d p i0 r) s = execMload c d p i0 r s := rfl
theorem exec_quadAccessFault (core) (quad) (s : State) : exec (.quadAccessFault core quad) s = execQuadAccessFault core quad s := rfl
theorem exec_mdrainReg (c) (d) (a) (s : State) : exec (.mdrainReg c d a) s = execMdrainReg c d a s := rfl
theorem exec_mdrainMem (c) (slot) (rm) (nosat) (p) (a) (i0) (r) (s : State) : exec (.mdrainMem c slot rm nosat p a i0 r) s = execMdrainMem c slot rm nosat p a i0 r s := rfl
theorem exec_mdrainAdd (c) (a) (t) (s : State) : exec (.mdrainAdd c a t) s = execMdrainAdd c a t s := rfl
theorem exec_remoteTileAdd (id) (s : State) : exec (.remoteTileAdd id) s = execRemoteTileAdd id s := rfl
theorem exec_tadd (c) (d) (a) (b) (x) (s : State) : exec (.tadd c d a b x) s = execTadd c d a b x s := rfl
theorem exec_tscale (c) (d) (a) (x) (s : State) : exec (.tscale c d a x) s = execTscale c d a x s := rfl
theorem exec_mstat (c) (d) (a) (s : State) : exec (.mstat c d a) s = execMstat c d a s := rfl
theorem exec_aflush (c) (f) (s : State) : exec (.aflush c f) s = execAflush c f s := rfl
theorem exec_apref (c) (f) (s : State) : exec (.apref c f) s = execApref c f s := rfl
theorem exec_astat (c) (f) (s : State) : exec (.astat c f) s = execAstat c f s := rfl
theorem exec_adapterChunkFill (g) (op) (s : State) : exec (.adapterChunkFill g op) s = execAdapterChunkFill g op s := rfl
theorem exec_adapterRowReplay (g) (op) (s : State) : exec (.adapterRowReplay g op) s = execAdapterRowReplay g op s := rfl
theorem exec_mpub (c) (d) (m1) (s : State) : exec (.mpub c d m1) s = execMpub c d m1 s := rfl
theorem exec_lineageCorrection (core) (tag) (s : State) : exec (.lineageCorrection core tag) s = execLineageCorrection core tag s := rfl
theorem exec_correctionAdd (id) (s : State) : exec (.correctionAdd id) s = execCorrectionAdd id s := rfl
theorem exec_lineageSettle (core) (tag) (s : State) : exec (.lineageSettle core tag) s = execLineageSettle core tag s := rfl
theorem exec_settle (c) (f) (s : State) : exec (.settle c f) s = execSettle c f s := rfl
theorem exec_linq (c) (d) (a) (s : State) : exec (.linq c d a) s = execLinq c d a s := rfl
theorem exec_coll (c) (op) (ch) (pL) (aD) (aS) (n) (s : State) : exec (.coll c op ch pL aD aS n) s = execColl c op ch pL aD aS n s := rfl
theorem exec_collReduce (ch) (others) (s : State) : exec (.collReduce ch others) s = execCollReduce ch others s := rfl
theorem exec_collAbort (ch) (why) (s : State) : exec (.collAbort ch why) s = execCollAbort ch why s := rfl
theorem exec_nbr (c) (dim) (nw) (d) (o) (s : State) : exec (.nbr c dim nw d o) s = execNbr c dim nw d o s := rfl
theorem exec_rank (c) (x) (d) (s : State) : exec (.rank c x d) s = execRank c x d s := rfl
theorem exec_bar (c) (s : State) : exec (.bar c) s = execBar c s := rfl
theorem exec_cbar (c) (s : State) : exec (.cbar c) s = execCbar c s := rfl
theorem exec_spawn (c) (d) (pL) (r) (s : State) : exec (.spawn c d pL r) s = execSpawn c d pL r s := rfl
theorem exec_cjoin (c) (d) (s : State) : exec (.cjoin c d) s = execCjoin c d s := rfl
theorem exec_cjoinRelease (b) (s : State) : exec (.cjoinRelease b) s = execCjoinRelease b s := rfl
theorem exec_sleep (c) (n) (s : State) : exec (.sleep c n) s = execSleep c n s := rfl
theorem exec_sleepWake (g) (lane) (s : State) : exec (.sleepWake g lane) s = execSleepWake g lane s := rfl
theorem exec_yield (c) (s : State) : exec (.yield c) s = execYield c s := rfl
theorem exec_trap (c) (code) (s : State) : exec (.trap c code) s = execTrap c code s := rfl
theorem exec_eret (c) (s : State) : exec (.eret c) s = execEret c s := rfl
theorem exec_bkpt (c) (code) (s : State) : exec (.bkpt c code) s = execBkpt c code s := rfl
theorem exec_sread (c) (n) (d) (s : State) : exec (.sread c n d) s = execSread c n d s := rfl
theorem exec_swrite (c) (n) (a) (s : State) : exec (.swrite c n a) s = execSwrite c n a s := rfl
theorem exec_mark (c) (code) (a) (s : State) : exec (.mark c code a) s = execMark c code a s := rfl
theorem exec_clk (c) (d) (s : State) : exec (.clk c d) s = execClk c d s := rfl
theorem exec_ckpt (c) (d) (s : State) : exec (.ckpt c d) s = execCkpt c d s := rfl
theorem exec_flagCompletion (g) (op) (s : State) : exec (.flagCompletion g op) s = execFlagCompletion g op s := rfl
theorem exec_takeTrap (g) (lane) (s : State) : exec (.takeTrap g lane) s = execTakeTrap g lane s := rfl
theorem exec_instructionFetchFill (die) (line) (s : State) : exec (.instructionFetchFill die line) s = execInstructionFetchFill die line s := rfl
theorem exec_l1Fill (core) (sector) (s : State) : exec (.l1Fill core sector) s = execL1Fill core sector s := rfl
theorem exec_cacheEviction (u) (line) (s : State) : exec (.cacheEviction u line) s = execCacheEviction u line s := rfl
theorem exec_memoryRead (vif) (dpa) (grain) (s : State) : exec (.memoryRead vif dpa grain) s = execMemoryRead vif dpa grain s := rfl
theorem exec_memoryWrite (vif) (sector) (s : State) : exec (.memoryWrite vif sector) s = execMemoryWrite vif sector s := rfl
theorem exec_patrolRead (sector) (s : State) : exec (.patrolRead sector) s = execPatrolRead sector s := rfl
theorem exec_refresh (die) (chan) (bank) (s : State) : exec (.refresh die chan bank) s = execRefresh die chan bank s := rfl
theorem exec_remapSramRepair (die) (chan) (second) (s : State) : exec (.remapSramRepair die chan second) s = execRemapSramRepair die chan second s := rfl
theorem exec_remapTableReload (die) (chan) (s : State) : exec (.remapTableReload die chan) s = execRemapTableReload die chan s := rfl
theorem exec_emergencyRetirement (die) (chan) (s : State) : exec (.emergencyRetirement die chan) s = execEmergencyRetirement die chan s := rfl
theorem exec_channelRetirementSwitch (die) (chan) (s : State) : exec (.channelRetirementSwitch die chan) s = execChannelRetirementSwitch die chan s := rfl
theorem exec_keyRotationRequest (vif) (s : State) : exec (.keyRotationRequest vif) s = execKeyRotationRequest vif s := rfl
theorem exec_keyRotationComplete (vif) (s : State) : exec (.keyRotationComplete vif) s = execKeyRotationComplete vif s := rfl
theorem exec_translationWalk (core) (vif) (ctx) (va) (kind) (s : State) : exec (.translationWalk core vif ctx va kind) s = execTranslationWalk core vif ctx va kind s := rfl
theorem exec_faultResponse (vif) (tag) (ans) (s : State) : exec (.faultResponse vif tag ans) s = execFaultResponse vif tag ans s := rfl
theorem exec_invalidationCommand (vif) (ctx) (lo) (hi) (s : State) : exec (.invalidationCommand vif ctx lo hi) s = execInvalidationCommand vif ctx lo hi s := rfl
theorem exec_snoopInvalidate (die) (sector) (s : State) : exec (.snoopInvalidate die sector) s = execSnoopInvalidate die sector s := rfl
theorem exec_snoopFilterFree (port) (region) (s : State) : exec (.snoopFilterFree port region) s = execSnoopFilterFree port region s := rfl
theorem exec_linkFailure (link) (s : State) : exec (.linkFailure link) s = execLinkFailure link s := rfl
theorem exec_dieSplit (s : State) : exec (.dieSplit) s = execDieSplit s := rfl
theorem exec_orderedAtomicLogApply (launch) (s : State) : exec (.orderedAtomicLogApply launch) s = execOrderedAtomicLogApply launch s := rfl
theorem exec_peerRequest (r) (s : State) : exec (.peerRequest r) s = execPeerRequest r s := rfl
theorem exec_peerResponse (id) (ans) (s : State) : exec (.peerResponse id ans) s = execPeerResponse id ans s := rfl
theorem exec_peerTimeout (id) (s : State) : exec (.peerTimeout id) s = execPeerTimeout id s := rfl
theorem exec_packetDrop (r) (s : State) : exec (.packetDrop r) s = execPacketDrop r s := rfl
theorem exec_peerCancel (src) (id) (s : State) : exec (.peerCancel src id) s = execPeerCancel src id s := rfl
theorem exec_denordPortFailure (port) (s : State) : exec (.denordPortFailure port) s = execDenordPortFailure port s := rfl
theorem exec_membershipTableWrite (vif) (entry) (w) (s : State) : exec (.membershipTableWrite vif entry w) s = execMembershipTableWrite vif entry w s := rfl
theorem exec_launchDoorbell (vif) (queue) (entries) (s : State) : exec (.launchDoorbell vif queue entries) s = execLaunchDoorbell vif queue entries s := rfl
theorem exec_launchStart (vif) (queue) (s : State) : exec (.launchStart vif queue) s = execLaunchStart vif queue s := rfl
theorem exec_blockPlacement (b) (s : State) : exec (.blockPlacement b) s = execBlockPlacement b s := rfl
theorem exec_launchCompletion (launch) (s : State) : exec (.launchCompletion launch) s = execLaunchCompletion launch s := rfl
theorem exec_terminateLaunch (launch) (s : State) : exec (.terminateLaunch launch) s = execTerminateLaunch launch s := rfl
theorem exec_blockEviction (b) (s : State) : exec (.blockEviction b) s = execBlockEviction b s := rfl
theorem exec_wakeConditionTest (b) (s : State) : exec (.wakeConditionTest b) s = execWakeConditionTest b s := rfl
theorem exec_blockResumption (b) (s : State) : exec (.blockResumption b) s = execBlockResumption b s := rfl
theorem exec_interfaceWeightSet (by_) (vif) (weight) (s : State) : exec (.interfaceWeightSet by_ vif weight) s = execInterfaceWeightSet by_ vif weight s := rfl
theorem exec_watchdogLimitSet (by_) (vif) (ms) (s : State) : exec (.watchdogLimitSet by_ vif ms) s = execWatchdogLimitSet by_ vif ms s := rfl
theorem exec_watchdogExpiry (vif) (s : State) : exec (.watchdogExpiry vif) s = execWatchdogExpiry vif s := rfl
theorem exec_breakpointStop (g) (lane) (s : State) : exec (.breakpointStop g lane) s = execBreakpointStop g lane s := rfl
theorem exec_stepStop (g) (lane) (s : State) : exec (.stepStop g lane) s = execStepStop g lane s := rfl
theorem exec_watchpointStop (g) (lane) (s : State) : exec (.watchpointStop g lane) s = execWatchpointStop g lane s := rfl
theorem exec_debugAttach (vif) (s : State) : exec (.debugAttach vif) s = execDebugAttach vif s := rfl
theorem exec_debugResume (g) (s : State) : exec (.debugResume g) s = execDebugResume g s := rfl
theorem exec_traceRecordWrite (vif) (s : State) : exec (.traceRecordWrite vif) s = execTraceRecordWrite vif s := rfl
theorem exec_laneCycleCount (launch) (core) (part) (s : State) : exec (.laneCycleCount launch core part) s = execLaneCycleCount launch core part s := rfl
theorem exec_laneCycleRecordEnable (launch) (bins) (s : State) : exec (.laneCycleRecordEnable launch bins) s = execLaneCycleRecordEnable launch bins s := rfl
theorem exec_traceRingSet (vif) (base) (slots) (kinds) (s : State) : exec (.traceRingSet vif base slots kinds) s = execTraceRingSet vif base slots kinds s := rfl
theorem exec_hostMemRead (addr) (n) (s : State) : exec (.hostMemRead addr n) s = execHostMemRead addr n s := rfl
theorem exec_hostMemWrite (addr) (bytes) (s : State) : exec (.hostMemWrite addr bytes) s = execHostMemWrite addr bytes s := rfl
theorem exec_featureAcceptWrite (vif) (x) (s : State) : exec (.featureAcceptWrite vif x) s = execFeatureAcceptWrite vif x s := rfl
theorem exec_launchQueueCreate (vif) (queue) (k) (ctx) (s : State) : exec (.launchQueueCreate vif queue k ctx) s = execLaunchQueueCreate vif queue k ctx s := rfl
theorem exec_virtualMeshSet (by_) (vif) (x) (y) (w) (h) (s : State) : exec (.virtualMeshSet by_ vif x y w h) s = execVirtualMeshSet by_ vif x y w h s := rfl
theorem exec_savePoolGrant (by_) (vif) (base) (len) (s : State) : exec (.savePoolGrant by_ vif base len) s = execSavePoolGrant by_ vif base len s := rfl
theorem exec_checkpointSetRegister (vif) (desc) (s : State) : exec (.checkpointSetRegister vif desc) s = execCheckpointSetRegister vif desc s := rfl
theorem exec_checkpointRequest (vif) (s : State) : exec (.checkpointRequest vif) s = execCheckpointRequest vif s := rfl
theorem exec_checkpointGranuleCopy (vif) (granule) (s : State) : exec (.checkpointGranuleCopy vif granule) s = execCheckpointGranuleCopy vif granule s := rfl
theorem exec_checkpointComplete (vif) (s : State) : exec (.checkpointComplete vif) s = execCheckpointComplete vif s := rfl
theorem exec_patrolPeriodSet (hours) (s : State) : exec (.patrolPeriodSet hours) s = execPatrolPeriodSet hours s := rfl
theorem exec_coldReset (s : State) : exec (.coldReset) s = execColdReset s := rfl
theorem exec_deviceReset (s : State) : exec (.deviceReset) s = execDeviceReset s := rfl
theorem exec_interfaceReset (vif) (s : State) : exec (.interfaceReset vif) s = execInterfaceReset vif s := rfl
theorem exec_firmwareImageLoad (img) (s : State) : exec (.firmwareImageLoad img) s = execFirmwareImageLoad img s := rfl
theorem exec_raiseFusedMinimum (by_) (s : State) : exec (.raiseFusedMinimum by_) s = execRaiseFusedMinimum by_ s := rfl
theorem exec_powerLimitSet (by_) (watts) (core) (lo) (hi) (s : State) : exec (.powerLimitSet by_ watts core lo hi) s = execPowerLimitSet by_ watts core lo hi s := rfl
theorem exec_dvfsPredict (core) (s : State) : exec (.dvfsPredict core) s = execDvfsPredict core s := rfl
theorem exec_powerLimitThrottle (s : State) : exec (.powerLimitThrottle) s = execPowerLimitThrottle s := rfl
theorem exec_registerWrite (r) (x) (s : State) : exec (.registerWrite r x) s = execRegisterWrite r x s := rfl
theorem exec_hostAccessResponse (id) (denied) (s : State) : exec (.hostAccessResponse id denied) s = execHostAccessResponse id denied s := rfl
theorem exec_patrolRekeyPassedSector (sector) (s : State) : exec (.patrolRekeyPassedSector sector) s = execPatrolRekeyPassedSector sector s := rfl

end Sys2Proof.Laws
end

