-- ==== Sys2Proof/Laws/Memory.lean ====
section
/-! SUPPORT. The laws of maps keyed by number and of the two memories: a read after a write, what a write leaves alone, and that
every write keeps a memory in its one form. -/

namespace Sys2Proof.Laws

open Sys2Proof Sys2Proof.Machine

/-! ### Maps keyed by number -/

@[simp] theorem sget_sset_same {α : Type} (m : Sparse α) (k : Nat) (x : α) : sget (sset m k x) k = some x := by
  induction m with
  | nil => simp [sset, sget]
  | cons p r ih =>
    obtain ⟨i, y⟩ := p
    unfold sset
    split
    · simp [sget]
    · split
      · simp [sget]
      · rename_i h; simp [sget, Ne.symm h, ih]

theorem sget_sset_other {α : Type} (m : Sparse α) (k j : Nat) (x : α) (h : j ≠ k) : sget (sset m k x) j = sget m j := by
  induction m with
  | nil => simp [sset, sget, Ne.symm h]
  | cons p r ih =>
    obtain ⟨i, y⟩ := p
    unfold sset
    split
    · simp [sget, Ne.symm h]
    · split
      · rename_i _ hk; subst hk; simp [sget, Ne.symm h]
      · simp [sget, ih]

@[simp] theorem sget_sdel_same {α : Type} (m : Sparse α) (k : Nat) : sget (sdel m k) k = none := by
  induction m with
  | nil => rfl
  | cons p r ih =>
    obtain ⟨i, y⟩ := p
    unfold sdel
    split
    · exact ih
    · rename_i h; simp [sget, h, ih]

theorem sget_sdel_other {α : Type} (m : Sparse α) (k j : Nat) (h : j ≠ k) : sget (sdel m k) j = sget m j := by
  induction m with
  | nil => rfl
  | cons p r ih =>
    obtain ⟨i, y⟩ := p
    unfold sdel
    split
    · rename_i hi; subst hi; simp [sget, Ne.symm h, ih]
    · simp [sget, ih]

theorem sgetD_sput_same {α : Type} [DecidableEq α] (d : α) (m : Sparse α) (k : Nat) (x : α) : sgetD (sput d m k x) k d = x := by
  unfold sput sgetD
  split
  · rename_i h; simp [h]
  · simp

theorem sgetD_sput_other {α : Type} [DecidableEq α] (d e : α) (m : Sparse α) (k j : Nat) (x : α) (h : j ≠ k) :
    sgetD (sput d m k x) j e = sgetD m j e := by
  unfold sput sgetD
  split
  · rw [sget_sdel_other m k j h]
  · rw [sget_sset_other m k j x h]

/-! ### The form of a memory -/

/-- Keys that rise, said element by element. -/
theorem sortedKeys_cons {α : Type} (i : Nat) (y : α) (r : Sparse α) :
    sortedKeys ((i, y) :: r) = true ↔ sortedKeys r = true ∧ ∀ p ∈ r, i < p.1 := by
  induction r generalizing i y with
  | nil => simp [sortedKeys]
  | cons p r ih =>
    obtain ⟨j, z⟩ := p
    constructor
    · intro h
      simp only [sortedKeys, Bool.and_eq_true, decide_eq_true_eq] at h
      refine ⟨h.2, ?_⟩
      intro q hq
      rcases List.mem_cons.1 hq with rfl | hq
      · exact h.1
      · have := ((ih j z).1 h.2).2 q hq
        omega
    · rintro ⟨h1, h2⟩
      simp only [sortedKeys, Bool.and_eq_true, decide_eq_true_eq]
      exact ⟨h2 (j, z) (by simp), h1⟩

theorem mem_sset {α : Type} (m : Sparse α) (k : Nat) (x : α) (p : Nat × α) (h : p ∈ sset m k x) : p = (k, x) ∨ p ∈ m := by
  induction m with
  | nil => simpa [sset] using h
  | cons q r ih =>
    obtain ⟨i, y⟩ := q
    unfold sset at h
    split at h
    · simpa using h
    · split at h
      · rcases List.mem_cons.1 h with rfl | h
        · exact .inl rfl
        · exact .inr (List.mem_cons_of_mem _ h)
      · rcases List.mem_cons.1 h with rfl | h
        · exact .inr (by simp)
        · exact (ih h).imp id (List.mem_cons_of_mem _)

theorem mem_sdel {α : Type} (m : Sparse α) (k : Nat) (p : Nat × α) (h : p ∈ sdel m k) : p ∈ m := by
  induction m with
  | nil => simp [sdel] at h
  | cons q r ih =>
    obtain ⟨i, y⟩ := q
    unfold sdel at h
    split at h
    · exact List.mem_cons_of_mem _ (ih h)
    · rcases List.mem_cons.1 h with rfl | h
      · simp
      · exact List.mem_cons_of_mem _ (ih h)

theorem sortedKeys_sset {α : Type} (m : Sparse α) (k : Nat) (x : α) (h : sortedKeys m = true) : sortedKeys (sset m k x) = true := by
  induction m with
  | nil => rfl
  | cons q r ih =>
    obtain ⟨i, y⟩ := q
    obtain ⟨h1, h2⟩ := (sortedKeys_cons i y r).1 h
    unfold sset
    split
    · rename_i hk
      refine (sortedKeys_cons _ _ _).2 ⟨h, ?_⟩
      intro p hp
      rcases List.mem_cons.1 hp with rfl | hp
      · exact hk
      · have := h2 p hp; omega
    · split
      · rename_i hk; subst hk; exact (sortedKeys_cons _ _ _).2 ⟨h1, h2⟩
      · refine (sortedKeys_cons _ _ _).2 ⟨ih h1, ?_⟩
        intro p hp
        rcases mem_sset r k x p hp with rfl | hp
        · dsimp only; omega
        · exact h2 p hp

theorem sortedKeys_sdel {α : Type} (m : Sparse α) (k : Nat) (h : sortedKeys m = true) : sortedKeys (sdel m k) = true := by
  induction m with
  | nil => rfl
  | cons q r ih =>
    obtain ⟨i, y⟩ := q
    obtain ⟨h1, h2⟩ := (sortedKeys_cons i y r).1 h
    unfold sdel
    split
    · exact ih h1
    · exact (sortedKeys_cons _ _ _).2 ⟨ih h1, fun p hp => h2 p (mem_sdel r k p hp)⟩

/-- A byte written keeps the form. -/
theorem write_wf (m : List Host.Cell) (a : Nat) (x : Byte) (h : Memory.wf m = true) : Memory.wf (Memory.write m a x) = true := by
  simp only [Memory.wf, Bool.and_eq_true, List.all_eq_true] at h ⊢
  unfold Memory.write sput
  split
  · exact ⟨sortedKeys_sdel m a h.1, fun p hp => h.2 p (mem_sdel m a p hp)⟩
  · rename_i hx
    refine ⟨sortedKeys_sset m a x h.1, fun p hp => ?_⟩
    rcases mem_sset m a x p hp with rfl | hp
    · simpa using hx
    · exact h.2 p hp

/-- Bytes written keep the form. -/
theorem writes_wf (m : List Host.Cell) (a : Nat) (bs : List Byte) (h : Memory.wf m = true) :
    Memory.wf (Memory.writes m a bs) = true := by
  induction bs generalizing m a with
  | nil => exact h
  | cons b bs ih => exact ih _ _ (write_wf m a b h)

/-- A byte written is read back. -/
@[simp] theorem read_write_same (m : List Host.Cell) (a : Nat) (x : Byte) : Memory.read (Memory.write m a x) a = x :=
  sgetD_sput_same 0 m a x

/-- A byte written leaves every other byte alone. -/
theorem read_write_other (m : List Host.Cell) (a b : Nat) (x : Byte) (h : b ≠ a) :
    Memory.read (Memory.write m a x) b = Memory.read m b := sgetD_sput_other 0 0 m a b x h

/-- Bytes written leave the bytes outside them alone. -/
theorem read_writes_other (m : List Host.Cell) (a : Nat) (bs : List Byte) (b : Nat) (h : b < a ∨ a + bs.length ≤ b) :
    Memory.read (Memory.writes m a bs) b = Memory.read m b := by
  induction bs generalizing m a with
  | nil => rfl
  | cons x xs ih =>
    simp only [List.length_cons] at h
    unfold Memory.writes
    rw [ih _ _ (by omega), read_write_other _ _ _ _ (by omega)]

/-- Bytes written are read back, each where it was put. -/
theorem read_writes_at (m : List Host.Cell) (a : Nat) (bs : List Byte) (k : Nat) (h : k < bs.length) :
    Memory.read (Memory.writes m a bs) (a + k) = bs[k] := by
  induction bs generalizing m a k with
  | nil => simp at h
  | cons x xs ih =>
    unfold Memory.writes
    cases k with
    | zero => rw [read_writes_other _ _ _ _ (by omega)]; simp
    | succ k =>
      have := ih (Memory.write m a x) (a + 1) k (by simpa using h)
      simpa [Nat.add_assoc, Nat.add_comm 1 k] using this

/-! ### The machine's two memories -/

theorem memOk_hbmWrite (s : State) (a : Nat) (bs : List Byte) (h : MemOk s) : MemOk (s.hbmWrite a bs) :=
  ⟨writes_wf s.hbm a bs h.1, h.2⟩

theorem memOk_hostWrite (s : State) (a : Nat) (bs : List Byte) (h : MemOk s) : MemOk (s.hostWrite a bs) :=
  ⟨h.1, writes_wf s.host a bs h.2⟩

theorem memOk_reset : MemOk State.reset := ⟨rfl, rfl⟩

end Sys2Proof.Laws
end

