-- ==== Sys2Proof/Laws/Run.lean ====
section
/-! SUPPORT. What the common forms of a meaning do: the laws of finding and replacing groups and launches, of the end of an
issue, and one lemma for each form (fixed latency, flag-covered, and any other body). -/

namespace Sys2Proof.Laws

open Sys2Proof Sys2Proof.Machine

/-! ### Finding and replacing -/

theorem find_upsert_same {α : Type} (p : α → Bool) (x : α) (l : List α) (h : p x = true) :
    (upsert p x l).find? p = some x := by
  induction l with
  | nil => simp [upsert, h]
  | cons y r ih =>
    unfold upsert
    split
    · simp [h]
    · rename_i hy; simp [List.find?, hy, ih]

theorem find_upsert_other {α : Type} (p q : α → Bool) (x : α) (l : List α) (h : ∀ y, p y = true → q y = false)
    (hx : q x = false) : (upsert p x l).find? q = l.find? q := by
  induction l with
  | nil => simp [upsert, hx]
  | cons y r ih =>
    unfold upsert
    split
    · rename_i hy; simp [List.find?, hx, h y hy]
    · simp [List.find?, ih]

theorem group_setGroup_same (s : State) (g : Group) : (s.setGroup g).group? g.ref = some g := by
  unfold State.setGroup State.group?
  exact find_upsert_same (fun x : Group => x.ref == g.ref) g s.groups (by simp)

theorem group_setGroup_other (s : State) (g : Group) (q : GRef) (h : q ≠ g.ref) : (s.setGroup g).group? q = s.group? q := by
  unfold State.setGroup State.group?
  apply find_upsert_other
  · intro y hy
    have : y.ref = g.ref := by simpa using hy
    simp [this, Ne.symm h]
  · simp [Ne.symm h]

theorem launch_setLaunch_same (s : State) (l : Launch) : (s.setLaunch l).launch? l.id = some l := by
  unfold State.setLaunch State.launch?
  exact find_upsert_same (fun x : Launch => x.id == l.id) l s.launches (by simp)

theorem launch_setLaunch_other (s : State) (l : Launch) (k : Nat) (h : k ≠ l.id) : (s.setLaunch l).launch? k = s.launch? k := by
  unfold State.setLaunch State.launch?
  apply find_upsert_other
  · intro y hy
    have : y.id = l.id := by simpa using hy
    simp [this, Ne.symm h]
  · simp [Ne.symm h]

theorem launch_id (s : State) (k : Nat) (l : Launch) (h : s.launch? k = some l) : l.id = k := by
  have := List.find?_some h
  simpa using this

theorem group_ref (s : State) (r : GRef) (g : Group) (h : s.group? r = some g) : g.ref = r := by
  have := List.find?_some h
  simpa using this

@[simp] theorem setGroup_group (s : State) (g : Group) (r : GRef) (h : g.ref = r) : (s.setGroup g).group? r = some g := by
  subst h; exact group_setGroup_same s g

@[simp] theorem launch_setGroup (s : State) (g : Group) (k : Nat) : (s.setGroup g).launch? k = s.launch? k := rfl

@[simp] theorem group_setLaunch (s : State) (l : Launch) (r : GRef) : (s.setLaunch l).group? r = s.group? r := rfl

/-! ### Fragments -/

theorem frag_setFrag (g : Group) (lane : Nat) (f f' : Frag) (h : g.frag? lane = some f) (hl : f'.lanes = f.lanes) :
    (g.setFrag lane f').frag? lane = some f' := by
  unfold Group.frag? Group.setFrag at *
  have hf : f'.lanes.getLsbD lane = true := by rw [hl]; simpa using List.find?_some h
  clear hl
  dsimp only
  generalize g.frags = fs at h
  induction fs with
  | nil => simp at h
  | cons y r ih =>
    by_cases hy : y.lanes.getLsbD lane = true
    · simp [hy, hf]
    · have hy' : y.lanes.getLsbD lane = false := by simpa using hy
      rw [List.find?_cons_of_neg (by simp [hy'])] at h
      simp only [List.map_cons, hy', Bool.false_eq_true, if_false]
      rw [List.find?_cons_of_neg (by simp [hy'])]
      exact ih h

theorem setFrag_not_all (g : Group) (lane : Nat) (f f' : Frag) (h : g.frag? lane = some f) (hw : f'.wait = .no) :
    (g.setFrag lane f').frags.all Frag.jwaiting = false := by
  unfold Group.frag? at h
  unfold Group.setFrag
  have hm := List.mem_of_find?_eq_some h
  have hl : f.lanes.getLsbD lane = true := by simpa using List.find?_some h
  rw [List.all_eq_false]
  refine ⟨f', ?_, ?_⟩
  · simp only [List.mem_map]
    exact ⟨f, hm, by simp [hl]⟩
  · simp [Frag.jwaiting, hw]

/-! ### The end of an issue -/

theorem outside_refl (s : State) (r : GRef) (h : s.cur = none) : Outside s s r := by
  refine ⟨?_, fun _ _ => rfl, fun _ => rfl⟩
  cases s; cases h; rfl

theorem outside_trans {s t u : State} {r : GRef} (h : Outside s t r) (k : Outside t u r) : Outside s u r := by
  obtain ⟨h1, h2, h3⟩ := h
  obtain ⟨k1, k2, k3⟩ := k
  refine ⟨?_, fun q hq => (k2 q hq).trans (h2 q hq), fun n => (k3 n).trans (h3 n)⟩
  rw [k1, h1]

theorem outside_setGroup (s : State) (g : Group) : Outside s { s.setGroup g with cur := none } g.ref :=
  ⟨rfl, fun q hq => group_setGroup_other s g q hq, fun _ => rfl⟩

theorem countIssue_cases (s : State) (g : Group) (lanes act : Lanes) (pc : Nat) :
    s.countIssue g lanes act pc = s ∨
    ∃ l m, s.launch? g.ref.b.launch = some l ∧ bareLaunch m = bareLaunch l ∧ s.countIssue g lanes act pc = s.setLaunch m := by
  unfold State.countIssue
  split
  · exact .inl rfl
  · rename_i l hl
    split
    · exact .inl rfl
    · right
      dsimp only
      generalize hm : some (LaneRec.add _ _ _ _) = m
      exact ⟨l, { l with laneRec := m }, hl, rfl, rfl⟩

@[simp] theorem countIssue_group (s : State) (g : Group) (lanes act : Lanes) (pc : Nat) (r : GRef) :
    (s.countIssue g lanes act pc).group? r = s.group? r := by
  obtain h | ⟨l, m, -, -, h⟩ := countIssue_cases s g lanes act pc <;> rw [h]; rfl

theorem outside_countIssue (s : State) (g : Group) (lanes act : Lanes) (pc : Nat) (r : GRef) :
    Outside s { s.countIssue g lanes act pc with cur := none } r := by
  obtain h | ⟨l, m, hl, hm, h⟩ := countIssue_cases s g lanes act pc
  · rw [h]; exact ⟨rfl, fun _ _ => rfl, fun _ => rfl⟩
  · rw [h]
    refine ⟨rfl, fun _ _ => rfl, fun k => ?_⟩
    have hid : m.id = l.id := by simpa [bareLaunch] using congrArg Launch.id hm
    by_cases hk : k = m.id
    · subst hk
      have h1 : (s.setLaunch m).launch? m.id = some m := launch_setLaunch_same s m
      have h2 : s.launch? m.id = some l := by rw [hid, launch_id s _ l hl]; exact hl
      show Option.map bareLaunch ((s.setLaunch m).launch? m.id) = Option.map bareLaunch (s.launch? m.id)
      rw [h1, h2]; simp [hm]
    · show Option.map bareLaunch ((s.setLaunch m).launch? k) = Option.map bareLaunch (s.launch? k)
      rw [launch_setLaunch_other s m k hk]

/-- A group after its fragment has issued an instruction and stands at the next word. -/
def stepped (x : Ctx) (h : Group) (f : Frag) : Group :=
  let f1 := { f with last := h.seq }
  let f3 := if x.c.inj.isSome then { f1 with inject := f1.inject.drop 1 } else { f1 with stepped := true }.advance x.c.npc
  let ended := match x.f.clause with | some c => c.yld && decide (c.stop ≤ x.c.npc) && x.c.inj.isNone | none => false
  let g1 := h.setFrag x.c.f f3
  { g1 with seq := g1.seq + 1, passedCount := 0, yielded := g1.yielded || ended }

/-- The end of an issue whose instruction moves on: the group is `stepped`, and nothing else has changed. -/
theorem finish_step (x : Ctx) (s : State) (h : Group) (f : Frag) (hg : s.group? x.c.g = some h)
    (hf : h.frag? x.c.f = some f) (hw : f.wait = .no) (g0 : Group) (lanes act : Lanes) (pc : Nat) :
    (x.finish .step (s.countIssue g0 lanes act pc)).checkJlive x.c.g =
      { (s.countIssue g0 lanes act pc).setGroup (stepped x h f) with cur := none } := by
  have hr : h.ref = x.c.g := group_ref s _ h hg
  have hfin : x.finish .step (s.countIssue g0 lanes act pc) =
      { (s.countIssue g0 lanes act pc).setGroup (stepped x h f) with cur := none } := by
    unfold Ctx.finish stepped
    rw [countIssue_group, hg]
    simp only [hf]
    cases x.c.inj <;> rfl
  rw [hfin]
  unfold State.checkJlive
  have h1 : ({ (s.countIssue g0 lanes act pc).setGroup (stepped x h f) with cur := none } : State).group? x.c.g =
      some (stepped x h f) := setGroup_group _ _ _ hr
  rw [h1]
  have hna : (stepped x h f).frags.all Frag.jwaiting = false := by
    unfold stepped
    dsimp only
    apply setFrag_not_all h x.c.f f _ hf
    split <;> simp [Frag.advance, hw]
  simp [hna]

theorem stepped_ref (x : Ctx) (h : Group) (f : Frag) : (stepped x h f).ref = h.ref := rfl

theorem stepped_movedOn (x : Ctx) (h : Group) (f : Frag) (hf : h.frag? x.c.f = some f) (hl : f.lanes = x.f.lanes)
    (hp : f.pc = x.f.pc) (hw : f.wait = .no) : MovedOn x (stepped x h f) := by
  unfold MovedOn stepped
  cases hi : x.c.inj with
  | none =>
    refine ⟨_, frag_setFrag h x.c.f f _ hf ?_, ?_, ?_, ?_⟩ <;> simp [Frag.advance, hl, hw]
  | some y =>
    refine ⟨_, frag_setFrag h x.c.f f _ hf ?_, ?_, ?_, ?_⟩ <;> simp [hl, hw, hp]

theorem stepped_regs (x : Ctx) (h : Group) (f : Frag) : SameRegs h (stepped x h f) := ⟨rfl, rfl, rfl, rfl⟩

theorem stepped_special (x : Ctx) (h : Group) (f : Frag) : SameSpecial h (stepped x h f) :=
  ⟨rfl, rfl, rfl, rfl, rfl, rfl, rfl, rfl, rfl, rfl, rfl, rfl, rfl, rfl⟩

/-! ### The forms of a meaning -/

/-- The context of an instruction that issues: its group, fragment, block and launch are the state's, and its group differs
from the state's in the ageing of unfinished writes, the yield and the latches. -/
theorem issues_ctx {s : State} {i : Instr} {x : Ctx} (h : Issues s i x) :
    s.group? x.c.g = s.group? x.g.ref ∧ x.g.ref = x.c.g ∧ x.g.frag? x.c.f = some x.f ∧ s.launch? x.c.g.b.launch = some x.l ∧
      s.block? x.c.g.b = some x.b ∧ s.cur = some x.c := by
  obtain ⟨y, hy, rfl⟩ := h.ctx
  unfold State.ctx? at hy
  split at hy
  · simp at hy
  · rename_i c hc
    split at hy
    · simp at hy
    · rename_i g hg
      split at hy
      · rename_i f b l hf hb hl
        have hy' := Option.some.inj hy
        subst hy'
        have hr : g.ref = c.g := group_ref s _ g hg
        refine ⟨?_, ?_, ?_, ?_, ?_, ?_⟩
        · show s.group? c.g = s.group? g.ref
          rw [hr]
        · exact hr
        · exact hf
        · exact hl
        · exact hb
        · exact hc
      · simp at hy

/-- A meaning of the common form, where its instruction issues: its body's effect, then the end of the issue; one that its checks of
memory trap or hold ends as they say. -/
theorem run_go {s : State} {i : Instr} {x : Ctx} (h : Issues s i x) (body : Body) :
    s.run i body = (match body x (s.setGroup x.g) with
      | .error t => .next (x.fail s t)
      | .ok (s1, .trapped) => .next s1
      | .ok (_, .held) => .next (x.back s)
      | .ok (s1, fl) => .next ((x.finish fl (s1.countIssue x.g x.f.lanes x.act x.c.pc)).checkJlive x.c.g)) := by
  obtain ⟨⟨y, hy, rfl⟩, -, hg, hn⟩ := h
  unfold State.run
  rw [hy]
  simp only [hg]
  · (generalize body (y.atIssue i) (s.setGroup (y.atIssue i).g) = r
     rcases r with t | ⟨s1, fl⟩
     · simp [hn]
     · cases fl <;> simp [hn])

theorem writes_group (lat : Nat) (g : Group) (ws : List Res) :
    (g.writes lat ws).ref = g.ref ∧ (g.writes lat ws).frags = g.frags ∧ SameSpecial g (g.writes lat ws) ∧
      (g.writes lat ws).flags = g.flags ∧ SameRegs (ws.foldl Group.put g) (g.writes lat ws) := by
  unfold Group.writes
  have hput : ∀ (k : Group) (w : Res), (k.put w).ref = k.ref ∧ (k.put w).frags = k.frags ∧ SameSpecial k (k.put w) ∧
      (k.put w).flags = k.flags := by
    intro k w
    cases w <;> simp only [Group.put, SameSpecial] <;> (try split) <;> simp
  have hsame : ∀ (k m : Group) (w : Res), SameRegs k m → k.threads = m.threads → SameRegs (k.put w) (m.put w) := by
    intro k m w hk ht
    obtain ⟨h1, h2, h3, h4⟩ := hk
    cases w <;> simp only [Group.put, SameRegs, Group.vcell, Group.present] <;> (try split) <;> simp_all
  suffices H : ∀ (k m : Group), m.ref = k.ref → m.frags = k.frags → SameSpecial k m → m.flags = k.flags → SameRegs k m →
      ∀ ws : List Res, (ws.foldl (Group.write lat) m).ref = k.ref ∧ (ws.foldl (Group.write lat) m).frags = k.frags ∧
        SameSpecial k (ws.foldl (Group.write lat) m) ∧ (ws.foldl (Group.write lat) m).flags = k.flags ∧
        SameRegs (ws.foldl Group.put k) (ws.foldl (Group.write lat) m) from
    H g g rfl rfl ⟨rfl, rfl, rfl, rfl, rfl, rfl, rfl, rfl, rfl, rfl, rfl, rfl, rfl, rfl⟩ rfl ⟨rfl, rfl, rfl, rfl⟩ ws
  intro k m hr hf hs hfl hreg ws
  induction ws generalizing k m with
  | nil => exact ⟨hr, hf, hs, hfl, hreg⟩
  | cons w r ih =>
    have hk := hput k w
    have hm := hput m w
    have hw : (m.write lat w).ref = (m.put w).ref ∧ (m.write lat w).frags = (m.put w).frags ∧
        SameSpecial (m.put w) (m.write lat w) ∧ (m.write lat w).flags = (m.put w).flags ∧
        SameRegs (m.put w) (m.write lat w) :=
      ⟨rfl, rfl, ⟨rfl, rfl, rfl, rfl, rfl, rfl, rfl, rfl, rfl, rfl, rfl, rfl, rfl, rfl⟩, rfl, ⟨rfl, rfl, rfl, rfl⟩⟩
    have hthreads : k.threads = m.threads := hs.2.2.1.symm
    have hput2 := hsame k m w hreg hthreads
    have := ih (k.put w) (m.write lat w) (by rw [hw.1, hm.1, hr, hk.1]) (by rw [hw.2.1, hm.2.1, hf, hk.2.1])
      (by
        obtain ⟨-, -, a1, -⟩ := hk
        obtain ⟨-, -, a2, -⟩ := hm
        obtain ⟨-, -, a3, -, -⟩ := hw
        simp only [SameSpecial] at *
        simp_all)
      (by rw [hw.2.2.2.1, hm.2.2.2, hfl, hk.2.2.2])
      (by
        obtain ⟨-, -, -, -, b⟩ := hw
        obtain ⟨b1, b2, b3, b4⟩ := b
        obtain ⟨c1, c2, c3, c4⟩ := hput2
        exact ⟨b1.trans c1, b2.trans c2, b3.trans c3, b4.trans c4⟩)
    obtain ⟨d1, d2, d3, d4, d5⟩ := this
    refine ⟨d1.trans hk.1, d2.trans hk.2.1, ?_, d4.trans hk.2.2.2, d5⟩
    obtain ⟨-, -, a1, -⟩ := hk
    simp only [SameSpecial] at *
    simp_all

/-- A change of the issuing group alone, then the end of the issue: nothing outside the group changes. -/
theorem step_outside {s : State} {x : Ctx} {h : Group} {f : Frag} (hr : x.g.ref = x.c.g) (hh : h.ref = x.c.g)
    (hf : h.frag? x.c.f = some f) (hw : f.wait = .no) (lanes act : Lanes) (pc : Nat) :
    let t := (x.finish .step (((s.setGroup x.g).setGroup h).countIssue x.g lanes act pc)).checkJlive x.c.g
    Outside s t x.c.g ∧ t.group? x.c.g = some (stepped x h f) := by
  have hg : ((s.setGroup x.g).setGroup h).group? x.c.g = some h := setGroup_group _ _ _ hh
  dsimp only
  rw [finish_step x _ h f hg hf hw]
  refine ⟨?_, setGroup_group _ _ _ (by rw [stepped_ref, hh])⟩
  have a1 := outside_setGroup s x.g
  rw [hr] at a1
  have a2 := outside_setGroup { s.setGroup x.g with cur := none } h
  rw [hh] at a2
  have a3 := outside_countIssue ((s.setGroup x.g).setGroup h) x.g lanes act pc x.c.g
  have a4 := outside_setGroup { ((s.setGroup x.g).setGroup h).countIssue x.g lanes act pc with cur := none } (stepped x h f)
  rw [stepped_ref, hh] at a4
  have a5 : Outside { s.setGroup x.g with cur := none } { (s.setGroup x.g).setGroup h with cur := none } x.c.g := a2
  have a6 : Outside { (s.setGroup x.g).setGroup h with cur := none }
      { ((s.setGroup x.g).setGroup h).countIssue x.g lanes act pc with cur := none } x.c.g :=
    ⟨by rw [a3.1], a3.2.1, a3.2.2⟩
  exact outside_trans a1 (outside_trans a5 (outside_trans a6 a4))

/-- An instruction whose body changes the issuing group alone, from `g0` on, and writes results of a fixed latency (R58,
R217). -/
theorem writes_done {s : State} {i : Instr} {x : Ctx} (h : Issues s i x) {body : Body} (g0 : Group) (lat : Nat) (ws : List Res)
    (hb : body x (s.setGroup x.g) = .ok ((s.setGroup x.g).setGroup (g0.writes lat ws), .step)) (h1 : g0.ref = x.g.ref)
    (h2 : g0.frags = x.g.frags) : ∃ t, s.run i body = .next t ∧ DoneFrom s x t g0 ws := by
  obtain ⟨-, hr, hf, -, -, -⟩ := issues_ctx h
  have hw := h.awake
  rw [run_go h, hb]
  obtain ⟨w1, w2, w3, w4, w5⟩ := writes_group lat g0 ws
  have hf' : (g0.writes lat ws).frag? x.c.f = some x.f := by unfold Group.frag?; rw [w2, h2]; exact hf
  obtain ⟨o1, o2⟩ := step_outside (s := s) hr ((w1.trans h1).trans hr) hf' hw x.f.lanes x.act x.c.pc
  exact ⟨_, rfl, o1, _, o2, stepped_movedOn x _ _ hf' rfl rfl hw, w5, w3, w4⟩

/-- A fixed-latency instruction that issues is done at once: its results are in the registers (R58, R217). -/
theorem fixed_done {s : State} {i : Instr} {x : Ctx} (h : Issues s i x) (lat : Nat) (f : Ctx → List Res) :
    ∃ t, s.fixed i lat f = .next t ∧ Done s x t (f x) :=
  writes_done h x.g (x.lat lat) (f x) rfl rfl rfl

/-- A flag-covered instruction that issues is under way: its operation is outstanding and counts in its flag (R53, R222). -/
theorem covered_started {s : State} {i : Instr} {x : Ctx} (h : Issues s i x) (f : Ctx → Out) :
    ∃ t, s.covered i f = .next t ∧ Started s i x t (if (f x).trap.isSome then [] else (f x).res)
      (if (f x).trap.isSome then 0 else (f x).sticky) (f x).trap := by
  obtain ⟨-, hr, hf, -, -, -⟩ := issues_ctx h
  have hw := h.awake
  unfold State.covered
  rw [run_go h]
  simp only [coveredBody]
  generalize hp : ({ entry := x.entry i, frag := x.f.lanes, res := if (f x).trap.isSome = true then [] else (f x).res,
                     sticky := if (f x).trap.isSome = true then 0 else (f x).sticky, trap := (f x).trap, regOnly := true } : Pend) = p
  have hb : (x.g.begin p).ref = x.g.ref ∧ (x.g.begin p).frags = x.g.frags ∧ SameRegs x.g (x.g.begin p) ∧
      SameSpecial x.g (x.g.begin p) ∧ (x.g.begin p).pend = x.g.pend ++ [{ p with gone := x.g.exited }] ∧
      (x.g.begin p).flags = (x.g.countIn p.entry.flag).flags := by
    unfold Group.begin Group.countIn Group.count
    cases p.entry.flag <;>
      exact ⟨rfl, rfl, ⟨rfl, rfl, rfl, rfl⟩, ⟨rfl, rfl, rfl, rfl, rfl, rfl, rfl, rfl, rfl, rfl, rfl, rfl, rfl, rfl⟩, rfl, rfl⟩
  obtain ⟨b1, b2, b3, b4, b5, b6⟩ := hb
  have hf' : (x.g.begin p).frag? x.c.f = some x.f := by unfold Group.frag?; rw [b2]; exact hf
  obtain ⟨o1, o2⟩ := step_outside (s := s) hr (b1.trans hr) hf' hw x.f.lanes x.act x.c.pc
  refine ⟨_, rfl, o1, _, { p with gone := x.g.exited }, o2, stepped_movedOn x _ _ hf' rfl rfl hw, b3, b4, ?_, b5, ?_, ?_, ?_, ?_, ?_⟩
  · rw [show (stepped x (x.g.begin p) x.f).flags = (x.g.begin p).flags from rfl, b6, ← hp]; rfl
  all_goals (subst hp; rfl)

end Sys2Proof.Laws
end

