-- ==== Sys2Proof/Laws/State.lean ====
section
/-! SUPPORT. What each update of the machine's state leaves: one law for each field and each update, and the value an update
writes. -/

namespace Sys2Proof.Laws

open Sys2Proof Sys2Proof.Machine

/-! ### State.setGroup -/

@[simp] theorem setGroup_tick (s : State) (g : Group) : (s.setGroup g).tick = s.tick := rfl
@[simp] theorem setGroup_agenda (s : State) (g : Group) : (s.setGroup g).agenda = s.agenda := rfl
@[simp] theorem setGroup_cur (s : State) (g : Group) : (s.setGroup g).cur = s.cur := rfl
@[simp] theorem setGroup_strikes (s : State) (g : Group) : (s.setGroup g).strikes = s.strikes := rfl
@[simp] theorem setGroup_time (s : State) (g : Group) : (s.setGroup g).time = s.time := rfl
@[simp] theorem setGroup_serial (s : State) (g : Group) : (s.setGroup g).serial = s.serial := rfl
@[simp] theorem setGroup_blocks (s : State) (g : Group) : (s.setGroup g).blocks = s.blocks := rfl
@[simp] theorem setGroup_launches (s : State) (g : Group) : (s.setGroup g).launches = s.launches := rfl
@[simp] theorem setGroup_copies (s : State) (g : Group) : (s.setGroup g).copies = s.copies := rfl
@[simp] theorem setGroup_landed (s : State) (g : Group) : (s.setGroup g).landed = s.landed := rfl
@[simp] theorem setGroup_quads (s : State) (g : Group) : (s.setGroup g).quads = s.quads := rfl
@[simp] theorem setGroup_lineages (s : State) (g : Group) : (s.setGroup g).lineages = s.lineages := rfl
@[simp] theorem setGroup_tileAdds (s : State) (g : Group) : (s.setGroup g).tileAdds = s.tileAdds := rfl
@[simp] theorem setGroup_chunks (s : State) (g : Group) : (s.setGroup g).chunks = s.chunks := rfl
@[simp] theorem setGroup_misses (s : State) (g : Group) : (s.setGroup g).misses = s.misses := rfl
@[simp] theorem setGroup_requests (s : State) (g : Group) : (s.setGroup g).requests = s.requests := rfl
@[simp] theorem setGroup_peerWaits (s : State) (g : Group) : (s.setGroup g).peerWaits = s.peerWaits := rfl
@[simp] theorem setGroup_colls (s : State) (g : Group) : (s.setGroup g).colls = s.colls := rfl
@[simp] theorem setGroup_members (s : State) (g : Group) : (s.setGroup g).members = s.members := rfl
@[simp] theorem setGroup_portsFailed (s : State) (g : Group) : (s.setGroup g).portsFailed = s.portsFailed := rfl
@[simp] theorem setGroup_sent (s : State) (g : Group) : (s.setGroup g).sent = s.sent := rfl
@[simp] theorem setGroup_hbm (s : State) (g : Group) : (s.setGroup g).hbm = s.hbm := rfl
@[simp] theorem setGroup_band (s : State) (g : Group) : (s.setGroup g).band = s.band := rfl
@[simp] theorem setGroup_host (s : State) (g : Group) : (s.setGroup g).host = s.host := rfl
@[simp] theorem setGroup_caches (s : State) (g : Group) : (s.setGroup g).caches = s.caches := rfl
@[simp] theorem setGroup_owners (s : State) (g : Group) : (s.setGroup g).owners = s.owners := rfl
@[simp] theorem setGroup_snoops (s : State) (g : Group) : (s.setGroup g).snoops = s.snoops := rfl
@[simp] theorem setGroup_filters (s : State) (g : Group) : (s.setGroup g).filters = s.filters := rfl
@[simp] theorem setGroup_filtersBuilt (s : State) (g : Group) : (s.setGroup g).filtersBuilt = s.filtersBuilt := rfl
@[simp] theorem setGroup_mshrs (s : State) (g : Group) : (s.setGroup g).mshrs = s.mshrs := rfl
@[simp] theorem setGroup_tlbs (s : State) (g : Group) : (s.setGroup g).tlbs = s.tlbs := rfl
@[simp] theorem setGroup_invals (s : State) (g : Group) : (s.setGroup g).invals = s.invals := rfl
@[simp] theorem setGroup_ilines (s : State) (g : Group) : (s.setGroup g).ilines = s.ilines := rfl
@[simp] theorem setGroup_split (s : State) (g : Group) : (s.setGroup g).split = s.split := rfl
@[simp] theorem setGroup_live (s : State) (g : Group) : (s.setGroup g).live = s.live := rfl
@[simp] theorem setGroup_chans (s : State) (g : Group) : (s.setGroup g).chans = s.chans := rfl
@[simp] theorem setGroup_reserved (s : State) (g : Group) : (s.setGroup g).reserved = s.reserved := rfl
@[simp] theorem setGroup_reservedBand (s : State) (g : Group) : (s.setGroup g).reservedBand = s.reservedBand := rfl
@[simp] theorem setGroup_devKver (s : State) (g : Group) : (s.setGroup g).devKver = s.devKver := rfl
@[simp] theorem setGroup_counters (s : State) (g : Group) : (s.setGroup g).counters = s.counters := rfl
@[simp] theorem setGroup_perf (s : State) (g : Group) : (s.setGroup g).perf = s.perf := rfl
@[simp] theorem setGroup_patrolHours (s : State) (g : Group) : (s.setGroup g).patrolHours = s.patrolHours := rfl
@[simp] theorem setGroup_vifs (s : State) (g : Group) : (s.setGroup g).vifs = s.vifs := rfl
@[simp] theorem setGroup_errors (s : State) (g : Group) : (s.setGroup g).errors = s.errors := rfl
@[simp] theorem setGroup_windowPages (s : State) (g : Group) : (s.setGroup g).windowPages = s.windowPages := rfl
@[simp] theorem setGroup_linksFailed (s : State) (g : Group) : (s.setGroup g).linksFailed = s.linksFailed := rfl
@[simp] theorem setGroup_lostDies (s : State) (g : Group) : (s.setGroup g).lostDies = s.lostDies := rfl
@[simp] theorem setGroup_failedDies (s : State) (g : Group) : (s.setGroup g).failedDies = s.failedDies := rfl
@[simp] theorem setGroup_degraded (s : State) (g : Group) : (s.setGroup g).degraded = s.degraded := rfl
@[simp] theorem setGroup_fwVersion (s : State) (g : Group) : (s.setGroup g).fwVersion = s.fwVersion := rfl
@[simp] theorem setGroup_fwMin (s : State) (g : Group) : (s.setGroup g).fwMin = s.fwMin := rfl
@[simp] theorem setGroup_flash (s : State) (g : Group) : (s.setGroup g).flash = s.flash := rfl
@[simp] theorem setGroup_recovery (s : State) (g : Group) : (s.setGroup g).recovery = s.recovery := rfl
@[simp] theorem setGroup_powerLimit (s : State) (g : Group) : (s.setGroup g).powerLimit = s.powerLimit := rfl
@[simp] theorem setGroup_freq (s : State) (g : Group) : (s.setGroup g).freq = s.freq := rfl
@[simp] theorem setGroup_freqBounds (s : State) (g : Group) : (s.setGroup g).freqBounds = s.freqBounds := rfl

/-! ### State.setBlock -/

@[simp] theorem setBlock_tick (s : State) (b : Block) : (s.setBlock b).tick = s.tick := rfl
@[simp] theorem setBlock_agenda (s : State) (b : Block) : (s.setBlock b).agenda = s.agenda := rfl
@[simp] theorem setBlock_cur (s : State) (b : Block) : (s.setBlock b).cur = s.cur := rfl
@[simp] theorem setBlock_strikes (s : State) (b : Block) : (s.setBlock b).strikes = s.strikes := rfl
@[simp] theorem setBlock_time (s : State) (b : Block) : (s.setBlock b).time = s.time := rfl
@[simp] theorem setBlock_serial (s : State) (b : Block) : (s.setBlock b).serial = s.serial := rfl
@[simp] theorem setBlock_groups (s : State) (b : Block) : (s.setBlock b).groups = s.groups := rfl
@[simp] theorem setBlock_launches (s : State) (b : Block) : (s.setBlock b).launches = s.launches := rfl
@[simp] theorem setBlock_copies (s : State) (b : Block) : (s.setBlock b).copies = s.copies := rfl
@[simp] theorem setBlock_landed (s : State) (b : Block) : (s.setBlock b).landed = s.landed := rfl
@[simp] theorem setBlock_quads (s : State) (b : Block) : (s.setBlock b).quads = s.quads := rfl
@[simp] theorem setBlock_lineages (s : State) (b : Block) : (s.setBlock b).lineages = s.lineages := rfl
@[simp] theorem setBlock_tileAdds (s : State) (b : Block) : (s.setBlock b).tileAdds = s.tileAdds := rfl
@[simp] theorem setBlock_chunks (s : State) (b : Block) : (s.setBlock b).chunks = s.chunks := rfl
@[simp] theorem setBlock_misses (s : State) (b : Block) : (s.setBlock b).misses = s.misses := rfl
@[simp] theorem setBlock_requests (s : State) (b : Block) : (s.setBlock b).requests = s.requests := rfl
@[simp] theorem setBlock_peerWaits (s : State) (b : Block) : (s.setBlock b).peerWaits = s.peerWaits := rfl
@[simp] theorem setBlock_colls (s : State) (b : Block) : (s.setBlock b).colls = s.colls := rfl
@[simp] theorem setBlock_members (s : State) (b : Block) : (s.setBlock b).members = s.members := rfl
@[simp] theorem setBlock_portsFailed (s : State) (b : Block) : (s.setBlock b).portsFailed = s.portsFailed := rfl
@[simp] theorem setBlock_sent (s : State) (b : Block) : (s.setBlock b).sent = s.sent := rfl
@[simp] theorem setBlock_hbm (s : State) (b : Block) : (s.setBlock b).hbm = s.hbm := rfl
@[simp] theorem setBlock_band (s : State) (b : Block) : (s.setBlock b).band = s.band := rfl
@[simp] theorem setBlock_host (s : State) (b : Block) : (s.setBlock b).host = s.host := rfl
@[simp] theorem setBlock_caches (s : State) (b : Block) : (s.setBlock b).caches = s.caches := rfl
@[simp] theorem setBlock_owners (s : State) (b : Block) : (s.setBlock b).owners = s.owners := rfl
@[simp] theorem setBlock_snoops (s : State) (b : Block) : (s.setBlock b).snoops = s.snoops := rfl
@[simp] theorem setBlock_filters (s : State) (b : Block) : (s.setBlock b).filters = s.filters := rfl
@[simp] theorem setBlock_filtersBuilt (s : State) (b : Block) : (s.setBlock b).filtersBuilt = s.filtersBuilt := rfl
@[simp] theorem setBlock_mshrs (s : State) (b : Block) : (s.setBlock b).mshrs = s.mshrs := rfl
@[simp] theorem setBlock_tlbs (s : State) (b : Block) : (s.setBlock b).tlbs = s.tlbs := rfl
@[simp] theorem setBlock_invals (s : State) (b : Block) : (s.setBlock b).invals = s.invals := rfl
@[simp] theorem setBlock_ilines (s : State) (b : Block) : (s.setBlock b).ilines = s.ilines := rfl
@[simp] theorem setBlock_split (s : State) (b : Block) : (s.setBlock b).split = s.split := rfl
@[simp] theorem setBlock_live (s : State) (b : Block) : (s.setBlock b).live = s.live := rfl
@[simp] theorem setBlock_chans (s : State) (b : Block) : (s.setBlock b).chans = s.chans := rfl
@[simp] theorem setBlock_reserved (s : State) (b : Block) : (s.setBlock b).reserved = s.reserved := rfl
@[simp] theorem setBlock_reservedBand (s : State) (b : Block) : (s.setBlock b).reservedBand = s.reservedBand := rfl
@[simp] theorem setBlock_devKver (s : State) (b : Block) : (s.setBlock b).devKver = s.devKver := rfl
@[simp] theorem setBlock_counters (s : State) (b : Block) : (s.setBlock b).counters = s.counters := rfl
@[simp] theorem setBlock_perf (s : State) (b : Block) : (s.setBlock b).perf = s.perf := rfl
@[simp] theorem setBlock_patrolHours (s : State) (b : Block) : (s.setBlock b).patrolHours = s.patrolHours := rfl
@[simp] theorem setBlock_vifs (s : State) (b : Block) : (s.setBlock b).vifs = s.vifs := rfl
@[simp] theorem setBlock_errors (s : State) (b : Block) : (s.setBlock b).errors = s.errors := rfl
@[simp] theorem setBlock_windowPages (s : State) (b : Block) : (s.setBlock b).windowPages = s.windowPages := rfl
@[simp] theorem setBlock_linksFailed (s : State) (b : Block) : (s.setBlock b).linksFailed = s.linksFailed := rfl
@[simp] theorem setBlock_lostDies (s : State) (b : Block) : (s.setBlock b).lostDies = s.lostDies := rfl
@[simp] theorem setBlock_failedDies (s : State) (b : Block) : (s.setBlock b).failedDies = s.failedDies := rfl
@[simp] theorem setBlock_degraded (s : State) (b : Block) : (s.setBlock b).degraded = s.degraded := rfl
@[simp] theorem setBlock_fwVersion (s : State) (b : Block) : (s.setBlock b).fwVersion = s.fwVersion := rfl
@[simp] theorem setBlock_fwMin (s : State) (b : Block) : (s.setBlock b).fwMin = s.fwMin := rfl
@[simp] theorem setBlock_flash (s : State) (b : Block) : (s.setBlock b).flash = s.flash := rfl
@[simp] theorem setBlock_recovery (s : State) (b : Block) : (s.setBlock b).recovery = s.recovery := rfl
@[simp] theorem setBlock_powerLimit (s : State) (b : Block) : (s.setBlock b).powerLimit = s.powerLimit := rfl
@[simp] theorem setBlock_freq (s : State) (b : Block) : (s.setBlock b).freq = s.freq := rfl
@[simp] theorem setBlock_freqBounds (s : State) (b : Block) : (s.setBlock b).freqBounds = s.freqBounds := rfl

/-! ### State.setLaunch -/

@[simp] theorem setLaunch_tick (s : State) (l : Launch) : (s.setLaunch l).tick = s.tick := rfl
@[simp] theorem setLaunch_agenda (s : State) (l : Launch) : (s.setLaunch l).agenda = s.agenda := rfl
@[simp] theorem setLaunch_cur (s : State) (l : Launch) : (s.setLaunch l).cur = s.cur := rfl
@[simp] theorem setLaunch_strikes (s : State) (l : Launch) : (s.setLaunch l).strikes = s.strikes := rfl
@[simp] theorem setLaunch_time (s : State) (l : Launch) : (s.setLaunch l).time = s.time := rfl
@[simp] theorem setLaunch_serial (s : State) (l : Launch) : (s.setLaunch l).serial = s.serial := rfl
@[simp] theorem setLaunch_groups (s : State) (l : Launch) : (s.setLaunch l).groups = s.groups := rfl
@[simp] theorem setLaunch_blocks (s : State) (l : Launch) : (s.setLaunch l).blocks = s.blocks := rfl
@[simp] theorem setLaunch_copies (s : State) (l : Launch) : (s.setLaunch l).copies = s.copies := rfl
@[simp] theorem setLaunch_landed (s : State) (l : Launch) : (s.setLaunch l).landed = s.landed := rfl
@[simp] theorem setLaunch_quads (s : State) (l : Launch) : (s.setLaunch l).quads = s.quads := rfl
@[simp] theorem setLaunch_lineages (s : State) (l : Launch) : (s.setLaunch l).lineages = s.lineages := rfl
@[simp] theorem setLaunch_tileAdds (s : State) (l : Launch) : (s.setLaunch l).tileAdds = s.tileAdds := rfl
@[simp] theorem setLaunch_chunks (s : State) (l : Launch) : (s.setLaunch l).chunks = s.chunks := rfl
@[simp] theorem setLaunch_misses (s : State) (l : Launch) : (s.setLaunch l).misses = s.misses := rfl
@[simp] theorem setLaunch_requests (s : State) (l : Launch) : (s.setLaunch l).requests = s.requests := rfl
@[simp] theorem setLaunch_peerWaits (s : State) (l : Launch) : (s.setLaunch l).peerWaits = s.peerWaits := rfl
@[simp] theorem setLaunch_colls (s : State) (l : Launch) : (s.setLaunch l).colls = s.colls := rfl
@[simp] theorem setLaunch_members (s : State) (l : Launch) : (s.setLaunch l).members = s.members := rfl
@[simp] theorem setLaunch_portsFailed (s : State) (l : Launch) : (s.setLaunch l).portsFailed = s.portsFailed := rfl
@[simp] theorem setLaunch_sent (s : State) (l : Launch) : (s.setLaunch l).sent = s.sent := rfl
@[simp] theorem setLaunch_hbm (s : State) (l : Launch) : (s.setLaunch l).hbm = s.hbm := rfl
@[simp] theorem setLaunch_band (s : State) (l : Launch) : (s.setLaunch l).band = s.band := rfl
@[simp] theorem setLaunch_host (s : State) (l : Launch) : (s.setLaunch l).host = s.host := rfl
@[simp] theorem setLaunch_caches (s : State) (l : Launch) : (s.setLaunch l).caches = s.caches := rfl
@[simp] theorem setLaunch_owners (s : State) (l : Launch) : (s.setLaunch l).owners = s.owners := rfl
@[simp] theorem setLaunch_snoops (s : State) (l : Launch) : (s.setLaunch l).snoops = s.snoops := rfl
@[simp] theorem setLaunch_filters (s : State) (l : Launch) : (s.setLaunch l).filters = s.filters := rfl
@[simp] theorem setLaunch_filtersBuilt (s : State) (l : Launch) : (s.setLaunch l).filtersBuilt = s.filtersBuilt := rfl
@[simp] theorem setLaunch_mshrs (s : State) (l : Launch) : (s.setLaunch l).mshrs = s.mshrs := rfl
@[simp] theorem setLaunch_tlbs (s : State) (l : Launch) : (s.setLaunch l).tlbs = s.tlbs := rfl
@[simp] theorem setLaunch_invals (s : State) (l : Launch) : (s.setLaunch l).invals = s.invals := rfl
@[simp] theorem setLaunch_ilines (s : State) (l : Launch) : (s.setLaunch l).ilines = s.ilines := rfl
@[simp] theorem setLaunch_split (s : State) (l : Launch) : (s.setLaunch l).split = s.split := rfl
@[simp] theorem setLaunch_live (s : State) (l : Launch) : (s.setLaunch l).live = s.live := rfl
@[simp] theorem setLaunch_chans (s : State) (l : Launch) : (s.setLaunch l).chans = s.chans := rfl
@[simp] theorem setLaunch_reserved (s : State) (l : Launch) : (s.setLaunch l).reserved = s.reserved := rfl
@[simp] theorem setLaunch_reservedBand (s : State) (l : Launch) : (s.setLaunch l).reservedBand = s.reservedBand := rfl
@[simp] theorem setLaunch_devKver (s : State) (l : Launch) : (s.setLaunch l).devKver = s.devKver := rfl
@[simp] theorem setLaunch_counters (s : State) (l : Launch) : (s.setLaunch l).counters = s.counters := rfl
@[simp] theorem setLaunch_perf (s : State) (l : Launch) : (s.setLaunch l).perf = s.perf := rfl
@[simp] theorem setLaunch_patrolHours (s : State) (l : Launch) : (s.setLaunch l).patrolHours = s.patrolHours := rfl
@[simp] theorem setLaunch_vifs (s : State) (l : Launch) : (s.setLaunch l).vifs = s.vifs := rfl
@[simp] theorem setLaunch_errors (s : State) (l : Launch) : (s.setLaunch l).errors = s.errors := rfl
@[simp] theorem setLaunch_windowPages (s : State) (l : Launch) : (s.setLaunch l).windowPages = s.windowPages := rfl
@[simp] theorem setLaunch_linksFailed (s : State) (l : Launch) : (s.setLaunch l).linksFailed = s.linksFailed := rfl
@[simp] theorem setLaunch_lostDies (s : State) (l : Launch) : (s.setLaunch l).lostDies = s.lostDies := rfl
@[simp] theorem setLaunch_failedDies (s : State) (l : Launch) : (s.setLaunch l).failedDies = s.failedDies := rfl
@[simp] theorem setLaunch_degraded (s : State) (l : Launch) : (s.setLaunch l).degraded = s.degraded := rfl
@[simp] theorem setLaunch_fwVersion (s : State) (l : Launch) : (s.setLaunch l).fwVersion = s.fwVersion := rfl
@[simp] theorem setLaunch_fwMin (s : State) (l : Launch) : (s.setLaunch l).fwMin = s.fwMin := rfl
@[simp] theorem setLaunch_flash (s : State) (l : Launch) : (s.setLaunch l).flash = s.flash := rfl
@[simp] theorem setLaunch_recovery (s : State) (l : Launch) : (s.setLaunch l).recovery = s.recovery := rfl
@[simp] theorem setLaunch_powerLimit (s : State) (l : Launch) : (s.setLaunch l).powerLimit = s.powerLimit := rfl
@[simp] theorem setLaunch_freq (s : State) (l : Launch) : (s.setLaunch l).freq = s.freq := rfl
@[simp] theorem setLaunch_freqBounds (s : State) (l : Launch) : (s.setLaunch l).freqBounds = s.freqBounds := rfl

/-! ### State.setVif -/

@[simp] theorem setVif_tick (s : State) (n : Nat) (v : Vif) : (s.setVif n v).tick = s.tick := rfl
@[simp] theorem setVif_agenda (s : State) (n : Nat) (v : Vif) : (s.setVif n v).agenda = s.agenda := rfl
@[simp] theorem setVif_cur (s : State) (n : Nat) (v : Vif) : (s.setVif n v).cur = s.cur := rfl
@[simp] theorem setVif_strikes (s : State) (n : Nat) (v : Vif) : (s.setVif n v).strikes = s.strikes := rfl
@[simp] theorem setVif_time (s : State) (n : Nat) (v : Vif) : (s.setVif n v).time = s.time := rfl
@[simp] theorem setVif_serial (s : State) (n : Nat) (v : Vif) : (s.setVif n v).serial = s.serial := rfl
@[simp] theorem setVif_groups (s : State) (n : Nat) (v : Vif) : (s.setVif n v).groups = s.groups := rfl
@[simp] theorem setVif_blocks (s : State) (n : Nat) (v : Vif) : (s.setVif n v).blocks = s.blocks := rfl
@[simp] theorem setVif_launches (s : State) (n : Nat) (v : Vif) : (s.setVif n v).launches = s.launches := rfl
@[simp] theorem setVif_copies (s : State) (n : Nat) (v : Vif) : (s.setVif n v).copies = s.copies := rfl
@[simp] theorem setVif_landed (s : State) (n : Nat) (v : Vif) : (s.setVif n v).landed = s.landed := rfl
@[simp] theorem setVif_quads (s : State) (n : Nat) (v : Vif) : (s.setVif n v).quads = s.quads := rfl
@[simp] theorem setVif_lineages (s : State) (n : Nat) (v : Vif) : (s.setVif n v).lineages = s.lineages := rfl
@[simp] theorem setVif_tileAdds (s : State) (n : Nat) (v : Vif) : (s.setVif n v).tileAdds = s.tileAdds := rfl
@[simp] theorem setVif_chunks (s : State) (n : Nat) (v : Vif) : (s.setVif n v).chunks = s.chunks := rfl
@[simp] theorem setVif_misses (s : State) (n : Nat) (v : Vif) : (s.setVif n v).misses = s.misses := rfl
@[simp] theorem setVif_requests (s : State) (n : Nat) (v : Vif) : (s.setVif n v).requests = s.requests := rfl
@[simp] theorem setVif_peerWaits (s : State) (n : Nat) (v : Vif) : (s.setVif n v).peerWaits = s.peerWaits := rfl
@[simp] theorem setVif_colls (s : State) (n : Nat) (v : Vif) : (s.setVif n v).colls = s.colls := rfl
@[simp] theorem setVif_members (s : State) (n : Nat) (v : Vif) : (s.setVif n v).members = s.members := rfl
@[simp] theorem setVif_portsFailed (s : State) (n : Nat) (v : Vif) : (s.setVif n v).portsFailed = s.portsFailed := rfl
@[simp] theorem setVif_sent (s : State) (n : Nat) (v : Vif) : (s.setVif n v).sent = s.sent := rfl
@[simp] theorem setVif_hbm (s : State) (n : Nat) (v : Vif) : (s.setVif n v).hbm = s.hbm := rfl
@[simp] theorem setVif_band (s : State) (n : Nat) (v : Vif) : (s.setVif n v).band = s.band := rfl
@[simp] theorem setVif_host (s : State) (n : Nat) (v : Vif) : (s.setVif n v).host = s.host := rfl
@[simp] theorem setVif_caches (s : State) (n : Nat) (v : Vif) : (s.setVif n v).caches = s.caches := rfl
@[simp] theorem setVif_owners (s : State) (n : Nat) (v : Vif) : (s.setVif n v).owners = s.owners := rfl
@[simp] theorem setVif_snoops (s : State) (n : Nat) (v : Vif) : (s.setVif n v).snoops = s.snoops := rfl
@[simp] theorem setVif_filters (s : State) (n : Nat) (v : Vif) : (s.setVif n v).filters = s.filters := rfl
@[simp] theorem setVif_filtersBuilt (s : State) (n : Nat) (v : Vif) : (s.setVif n v).filtersBuilt = s.filtersBuilt := rfl
@[simp] theorem setVif_mshrs (s : State) (n : Nat) (v : Vif) : (s.setVif n v).mshrs = s.mshrs := rfl
@[simp] theorem setVif_tlbs (s : State) (n : Nat) (v : Vif) : (s.setVif n v).tlbs = s.tlbs := rfl
@[simp] theorem setVif_invals (s : State) (n : Nat) (v : Vif) : (s.setVif n v).invals = s.invals := rfl
@[simp] theorem setVif_ilines (s : State) (n : Nat) (v : Vif) : (s.setVif n v).ilines = s.ilines := rfl
@[simp] theorem setVif_split (s : State) (n : Nat) (v : Vif) : (s.setVif n v).split = s.split := rfl
@[simp] theorem setVif_live (s : State) (n : Nat) (v : Vif) : (s.setVif n v).live = s.live := rfl
@[simp] theorem setVif_chans (s : State) (n : Nat) (v : Vif) : (s.setVif n v).chans = s.chans := rfl
@[simp] theorem setVif_reserved (s : State) (n : Nat) (v : Vif) : (s.setVif n v).reserved = s.reserved := rfl
@[simp] theorem setVif_reservedBand (s : State) (n : Nat) (v : Vif) : (s.setVif n v).reservedBand = s.reservedBand := rfl
@[simp] theorem setVif_devKver (s : State) (n : Nat) (v : Vif) : (s.setVif n v).devKver = s.devKver := rfl
@[simp] theorem setVif_counters (s : State) (n : Nat) (v : Vif) : (s.setVif n v).counters = s.counters := rfl
@[simp] theorem setVif_perf (s : State) (n : Nat) (v : Vif) : (s.setVif n v).perf = s.perf := rfl
@[simp] theorem setVif_patrolHours (s : State) (n : Nat) (v : Vif) : (s.setVif n v).patrolHours = s.patrolHours := rfl
@[simp] theorem setVif_errors (s : State) (n : Nat) (v : Vif) : (s.setVif n v).errors = s.errors := rfl
@[simp] theorem setVif_windowPages (s : State) (n : Nat) (v : Vif) : (s.setVif n v).windowPages = s.windowPages := rfl
@[simp] theorem setVif_linksFailed (s : State) (n : Nat) (v : Vif) : (s.setVif n v).linksFailed = s.linksFailed := rfl
@[simp] theorem setVif_lostDies (s : State) (n : Nat) (v : Vif) : (s.setVif n v).lostDies = s.lostDies := rfl
@[simp] theorem setVif_failedDies (s : State) (n : Nat) (v : Vif) : (s.setVif n v).failedDies = s.failedDies := rfl
@[simp] theorem setVif_degraded (s : State) (n : Nat) (v : Vif) : (s.setVif n v).degraded = s.degraded := rfl
@[simp] theorem setVif_fwVersion (s : State) (n : Nat) (v : Vif) : (s.setVif n v).fwVersion = s.fwVersion := rfl
@[simp] theorem setVif_fwMin (s : State) (n : Nat) (v : Vif) : (s.setVif n v).fwMin = s.fwMin := rfl
@[simp] theorem setVif_flash (s : State) (n : Nat) (v : Vif) : (s.setVif n v).flash = s.flash := rfl
@[simp] theorem setVif_recovery (s : State) (n : Nat) (v : Vif) : (s.setVif n v).recovery = s.recovery := rfl
@[simp] theorem setVif_powerLimit (s : State) (n : Nat) (v : Vif) : (s.setVif n v).powerLimit = s.powerLimit := rfl
@[simp] theorem setVif_freq (s : State) (n : Nat) (v : Vif) : (s.setVif n v).freq = s.freq := rfl
@[simp] theorem setVif_freqBounds (s : State) (n : Nat) (v : Vif) : (s.setVif n v).freqBounds = s.freqBounds := rfl

/-! ### State.setCache -/

@[simp] theorem setCache_tick (s : State) (c : Cache) : (s.setCache c).tick = s.tick := rfl
@[simp] theorem setCache_agenda (s : State) (c : Cache) : (s.setCache c).agenda = s.agenda := rfl
@[simp] theorem setCache_cur (s : State) (c : Cache) : (s.setCache c).cur = s.cur := rfl
@[simp] theorem setCache_strikes (s : State) (c : Cache) : (s.setCache c).strikes = s.strikes := rfl
@[simp] theorem setCache_time (s : State) (c : Cache) : (s.setCache c).time = s.time := rfl
@[simp] theorem setCache_serial (s : State) (c : Cache) : (s.setCache c).serial = s.serial := rfl
@[simp] theorem setCache_groups (s : State) (c : Cache) : (s.setCache c).groups = s.groups := rfl
@[simp] theorem setCache_blocks (s : State) (c : Cache) : (s.setCache c).blocks = s.blocks := rfl
@[simp] theorem setCache_launches (s : State) (c : Cache) : (s.setCache c).launches = s.launches := rfl
@[simp] theorem setCache_copies (s : State) (c : Cache) : (s.setCache c).copies = s.copies := rfl
@[simp] theorem setCache_landed (s : State) (c : Cache) : (s.setCache c).landed = s.landed := rfl
@[simp] theorem setCache_quads (s : State) (c : Cache) : (s.setCache c).quads = s.quads := rfl
@[simp] theorem setCache_lineages (s : State) (c : Cache) : (s.setCache c).lineages = s.lineages := rfl
@[simp] theorem setCache_tileAdds (s : State) (c : Cache) : (s.setCache c).tileAdds = s.tileAdds := rfl
@[simp] theorem setCache_chunks (s : State) (c : Cache) : (s.setCache c).chunks = s.chunks := rfl
@[simp] theorem setCache_misses (s : State) (c : Cache) : (s.setCache c).misses = s.misses := rfl
@[simp] theorem setCache_requests (s : State) (c : Cache) : (s.setCache c).requests = s.requests := rfl
@[simp] theorem setCache_peerWaits (s : State) (c : Cache) : (s.setCache c).peerWaits = s.peerWaits := rfl
@[simp] theorem setCache_colls (s : State) (c : Cache) : (s.setCache c).colls = s.colls := rfl
@[simp] theorem setCache_members (s : State) (c : Cache) : (s.setCache c).members = s.members := rfl
@[simp] theorem setCache_portsFailed (s : State) (c : Cache) : (s.setCache c).portsFailed = s.portsFailed := rfl
@[simp] theorem setCache_sent (s : State) (c : Cache) : (s.setCache c).sent = s.sent := rfl
@[simp] theorem setCache_hbm (s : State) (c : Cache) : (s.setCache c).hbm = s.hbm := rfl
@[simp] theorem setCache_band (s : State) (c : Cache) : (s.setCache c).band = s.band := rfl
@[simp] theorem setCache_host (s : State) (c : Cache) : (s.setCache c).host = s.host := rfl
@[simp] theorem setCache_owners (s : State) (c : Cache) : (s.setCache c).owners = s.owners := rfl
@[simp] theorem setCache_snoops (s : State) (c : Cache) : (s.setCache c).snoops = s.snoops := rfl
@[simp] theorem setCache_filters (s : State) (c : Cache) : (s.setCache c).filters = s.filters := rfl
@[simp] theorem setCache_filtersBuilt (s : State) (c : Cache) : (s.setCache c).filtersBuilt = s.filtersBuilt := rfl
@[simp] theorem setCache_mshrs (s : State) (c : Cache) : (s.setCache c).mshrs = s.mshrs := rfl
@[simp] theorem setCache_tlbs (s : State) (c : Cache) : (s.setCache c).tlbs = s.tlbs := rfl
@[simp] theorem setCache_invals (s : State) (c : Cache) : (s.setCache c).invals = s.invals := rfl
@[simp] theorem setCache_ilines (s : State) (c : Cache) : (s.setCache c).ilines = s.ilines := rfl
@[simp] theorem setCache_split (s : State) (c : Cache) : (s.setCache c).split = s.split := rfl
@[simp] theorem setCache_live (s : State) (c : Cache) : (s.setCache c).live = s.live := rfl
@[simp] theorem setCache_chans (s : State) (c : Cache) : (s.setCache c).chans = s.chans := rfl
@[simp] theorem setCache_reserved (s : State) (c : Cache) : (s.setCache c).reserved = s.reserved := rfl
@[simp] theorem setCache_reservedBand (s : State) (c : Cache) : (s.setCache c).reservedBand = s.reservedBand := rfl
@[simp] theorem setCache_devKver (s : State) (c : Cache) : (s.setCache c).devKver = s.devKver := rfl
@[simp] theorem setCache_counters (s : State) (c : Cache) : (s.setCache c).counters = s.counters := rfl
@[simp] theorem setCache_perf (s : State) (c : Cache) : (s.setCache c).perf = s.perf := rfl
@[simp] theorem setCache_patrolHours (s : State) (c : Cache) : (s.setCache c).patrolHours = s.patrolHours := rfl
@[simp] theorem setCache_vifs (s : State) (c : Cache) : (s.setCache c).vifs = s.vifs := rfl
@[simp] theorem setCache_errors (s : State) (c : Cache) : (s.setCache c).errors = s.errors := rfl
@[simp] theorem setCache_windowPages (s : State) (c : Cache) : (s.setCache c).windowPages = s.windowPages := rfl
@[simp] theorem setCache_linksFailed (s : State) (c : Cache) : (s.setCache c).linksFailed = s.linksFailed := rfl
@[simp] theorem setCache_lostDies (s : State) (c : Cache) : (s.setCache c).lostDies = s.lostDies := rfl
@[simp] theorem setCache_failedDies (s : State) (c : Cache) : (s.setCache c).failedDies = s.failedDies := rfl
@[simp] theorem setCache_degraded (s : State) (c : Cache) : (s.setCache c).degraded = s.degraded := rfl
@[simp] theorem setCache_fwVersion (s : State) (c : Cache) : (s.setCache c).fwVersion = s.fwVersion := rfl
@[simp] theorem setCache_fwMin (s : State) (c : Cache) : (s.setCache c).fwMin = s.fwMin := rfl
@[simp] theorem setCache_flash (s : State) (c : Cache) : (s.setCache c).flash = s.flash := rfl
@[simp] theorem setCache_recovery (s : State) (c : Cache) : (s.setCache c).recovery = s.recovery := rfl
@[simp] theorem setCache_powerLimit (s : State) (c : Cache) : (s.setCache c).powerLimit = s.powerLimit := rfl
@[simp] theorem setCache_freq (s : State) (c : Cache) : (s.setCache c).freq = s.freq := rfl
@[simp] theorem setCache_freqBounds (s : State) (c : Cache) : (s.setCache c).freqBounds = s.freqBounds := rfl

/-! ### State.setQuad -/

@[simp] theorem setQuad_tick (s : State) (q : Quad) : (s.setQuad q).tick = s.tick := rfl
@[simp] theorem setQuad_agenda (s : State) (q : Quad) : (s.setQuad q).agenda = s.agenda := rfl
@[simp] theorem setQuad_cur (s : State) (q : Quad) : (s.setQuad q).cur = s.cur := rfl
@[simp] theorem setQuad_strikes (s : State) (q : Quad) : (s.setQuad q).strikes = s.strikes := rfl
@[simp] theorem setQuad_time (s : State) (q : Quad) : (s.setQuad q).time = s.time := rfl
@[simp] theorem setQuad_serial (s : State) (q : Quad) : (s.setQuad q).serial = s.serial := rfl
@[simp] theorem setQuad_groups (s : State) (q : Quad) : (s.setQuad q).groups = s.groups := rfl
@[simp] theorem setQuad_blocks (s : State) (q : Quad) : (s.setQuad q).blocks = s.blocks := rfl
@[simp] theorem setQuad_launches (s : State) (q : Quad) : (s.setQuad q).launches = s.launches := rfl
@[simp] theorem setQuad_copies (s : State) (q : Quad) : (s.setQuad q).copies = s.copies := rfl
@[simp] theorem setQuad_landed (s : State) (q : Quad) : (s.setQuad q).landed = s.landed := rfl
@[simp] theorem setQuad_lineages (s : State) (q : Quad) : (s.setQuad q).lineages = s.lineages := rfl
@[simp] theorem setQuad_tileAdds (s : State) (q : Quad) : (s.setQuad q).tileAdds = s.tileAdds := rfl
@[simp] theorem setQuad_chunks (s : State) (q : Quad) : (s.setQuad q).chunks = s.chunks := rfl
@[simp] theorem setQuad_misses (s : State) (q : Quad) : (s.setQuad q).misses = s.misses := rfl
@[simp] theorem setQuad_requests (s : State) (q : Quad) : (s.setQuad q).requests = s.requests := rfl
@[simp] theorem setQuad_peerWaits (s : State) (q : Quad) : (s.setQuad q).peerWaits = s.peerWaits := rfl
@[simp] theorem setQuad_colls (s : State) (q : Quad) : (s.setQuad q).colls = s.colls := rfl
@[simp] theorem setQuad_members (s : State) (q : Quad) : (s.setQuad q).members = s.members := rfl
@[simp] theorem setQuad_portsFailed (s : State) (q : Quad) : (s.setQuad q).portsFailed = s.portsFailed := rfl
@[simp] theorem setQuad_sent (s : State) (q : Quad) : (s.setQuad q).sent = s.sent := rfl
@[simp] theorem setQuad_hbm (s : State) (q : Quad) : (s.setQuad q).hbm = s.hbm := rfl
@[simp] theorem setQuad_band (s : State) (q : Quad) : (s.setQuad q).band = s.band := rfl
@[simp] theorem setQuad_host (s : State) (q : Quad) : (s.setQuad q).host = s.host := rfl
@[simp] theorem setQuad_caches (s : State) (q : Quad) : (s.setQuad q).caches = s.caches := rfl
@[simp] theorem setQuad_owners (s : State) (q : Quad) : (s.setQuad q).owners = s.owners := rfl
@[simp] theorem setQuad_snoops (s : State) (q : Quad) : (s.setQuad q).snoops = s.snoops := rfl
@[simp] theorem setQuad_filters (s : State) (q : Quad) : (s.setQuad q).filters = s.filters := rfl
@[simp] theorem setQuad_filtersBuilt (s : State) (q : Quad) : (s.setQuad q).filtersBuilt = s.filtersBuilt := rfl
@[simp] theorem setQuad_mshrs (s : State) (q : Quad) : (s.setQuad q).mshrs = s.mshrs := rfl
@[simp] theorem setQuad_tlbs (s : State) (q : Quad) : (s.setQuad q).tlbs = s.tlbs := rfl
@[simp] theorem setQuad_invals (s : State) (q : Quad) : (s.setQuad q).invals = s.invals := rfl
@[simp] theorem setQuad_ilines (s : State) (q : Quad) : (s.setQuad q).ilines = s.ilines := rfl
@[simp] theorem setQuad_split (s : State) (q : Quad) : (s.setQuad q).split = s.split := rfl
@[simp] theorem setQuad_live (s : State) (q : Quad) : (s.setQuad q).live = s.live := rfl
@[simp] theorem setQuad_chans (s : State) (q : Quad) : (s.setQuad q).chans = s.chans := rfl
@[simp] theorem setQuad_reserved (s : State) (q : Quad) : (s.setQuad q).reserved = s.reserved := rfl
@[simp] theorem setQuad_reservedBand (s : State) (q : Quad) : (s.setQuad q).reservedBand = s.reservedBand := rfl
@[simp] theorem setQuad_devKver (s : State) (q : Quad) : (s.setQuad q).devKver = s.devKver := rfl
@[simp] theorem setQuad_counters (s : State) (q : Quad) : (s.setQuad q).counters = s.counters := rfl
@[simp] theorem setQuad_perf (s : State) (q : Quad) : (s.setQuad q).perf = s.perf := rfl
@[simp] theorem setQuad_patrolHours (s : State) (q : Quad) : (s.setQuad q).patrolHours = s.patrolHours := rfl
@[simp] theorem setQuad_vifs (s : State) (q : Quad) : (s.setQuad q).vifs = s.vifs := rfl
@[simp] theorem setQuad_errors (s : State) (q : Quad) : (s.setQuad q).errors = s.errors := rfl
@[simp] theorem setQuad_windowPages (s : State) (q : Quad) : (s.setQuad q).windowPages = s.windowPages := rfl
@[simp] theorem setQuad_linksFailed (s : State) (q : Quad) : (s.setQuad q).linksFailed = s.linksFailed := rfl
@[simp] theorem setQuad_lostDies (s : State) (q : Quad) : (s.setQuad q).lostDies = s.lostDies := rfl
@[simp] theorem setQuad_failedDies (s : State) (q : Quad) : (s.setQuad q).failedDies = s.failedDies := rfl
@[simp] theorem setQuad_degraded (s : State) (q : Quad) : (s.setQuad q).degraded = s.degraded := rfl
@[simp] theorem setQuad_fwVersion (s : State) (q : Quad) : (s.setQuad q).fwVersion = s.fwVersion := rfl
@[simp] theorem setQuad_fwMin (s : State) (q : Quad) : (s.setQuad q).fwMin = s.fwMin := rfl
@[simp] theorem setQuad_flash (s : State) (q : Quad) : (s.setQuad q).flash = s.flash := rfl
@[simp] theorem setQuad_recovery (s : State) (q : Quad) : (s.setQuad q).recovery = s.recovery := rfl
@[simp] theorem setQuad_powerLimit (s : State) (q : Quad) : (s.setQuad q).powerLimit = s.powerLimit := rfl
@[simp] theorem setQuad_freq (s : State) (q : Quad) : (s.setQuad q).freq = s.freq := rfl
@[simp] theorem setQuad_freqBounds (s : State) (q : Quad) : (s.setQuad q).freqBounds = s.freqBounds := rfl

/-! ### State.setChan -/

@[simp] theorem setChan_tick (s : State) (d n : Nat) (c : Chan) : (s.setChan d n c).tick = s.tick := rfl
@[simp] theorem setChan_agenda (s : State) (d n : Nat) (c : Chan) : (s.setChan d n c).agenda = s.agenda := rfl
@[simp] theorem setChan_cur (s : State) (d n : Nat) (c : Chan) : (s.setChan d n c).cur = s.cur := rfl
@[simp] theorem setChan_strikes (s : State) (d n : Nat) (c : Chan) : (s.setChan d n c).strikes = s.strikes := rfl
@[simp] theorem setChan_time (s : State) (d n : Nat) (c : Chan) : (s.setChan d n c).time = s.time := rfl
@[simp] theorem setChan_serial (s : State) (d n : Nat) (c : Chan) : (s.setChan d n c).serial = s.serial := rfl
@[simp] theorem setChan_groups (s : State) (d n : Nat) (c : Chan) : (s.setChan d n c).groups = s.groups := rfl
@[simp] theorem setChan_blocks (s : State) (d n : Nat) (c : Chan) : (s.setChan d n c).blocks = s.blocks := rfl
@[simp] theorem setChan_launches (s : State) (d n : Nat) (c : Chan) : (s.setChan d n c).launches = s.launches := rfl
@[simp] theorem setChan_copies (s : State) (d n : Nat) (c : Chan) : (s.setChan d n c).copies = s.copies := rfl
@[simp] theorem setChan_landed (s : State) (d n : Nat) (c : Chan) : (s.setChan d n c).landed = s.landed := rfl
@[simp] theorem setChan_quads (s : State) (d n : Nat) (c : Chan) : (s.setChan d n c).quads = s.quads := rfl
@[simp] theorem setChan_lineages (s : State) (d n : Nat) (c : Chan) : (s.setChan d n c).lineages = s.lineages := rfl
@[simp] theorem setChan_tileAdds (s : State) (d n : Nat) (c : Chan) : (s.setChan d n c).tileAdds = s.tileAdds := rfl
@[simp] theorem setChan_chunks (s : State) (d n : Nat) (c : Chan) : (s.setChan d n c).chunks = s.chunks := rfl
@[simp] theorem setChan_misses (s : State) (d n : Nat) (c : Chan) : (s.setChan d n c).misses = s.misses := rfl
@[simp] theorem setChan_requests (s : State) (d n : Nat) (c : Chan) : (s.setChan d n c).requests = s.requests := rfl
@[simp] theorem setChan_peerWaits (s : State) (d n : Nat) (c : Chan) : (s.setChan d n c).peerWaits = s.peerWaits := rfl
@[simp] theorem setChan_colls (s : State) (d n : Nat) (c : Chan) : (s.setChan d n c).colls = s.colls := rfl
@[simp] theorem setChan_members (s : State) (d n : Nat) (c : Chan) : (s.setChan d n c).members = s.members := rfl
@[simp] theorem setChan_portsFailed (s : State) (d n : Nat) (c : Chan) : (s.setChan d n c).portsFailed = s.portsFailed := rfl
@[simp] theorem setChan_sent (s : State) (d n : Nat) (c : Chan) : (s.setChan d n c).sent = s.sent := rfl
@[simp] theorem setChan_hbm (s : State) (d n : Nat) (c : Chan) : (s.setChan d n c).hbm = s.hbm := rfl
@[simp] theorem setChan_band (s : State) (d n : Nat) (c : Chan) : (s.setChan d n c).band = s.band := rfl
@[simp] theorem setChan_host (s : State) (d n : Nat) (c : Chan) : (s.setChan d n c).host = s.host := rfl
@[simp] theorem setChan_caches (s : State) (d n : Nat) (c : Chan) : (s.setChan d n c).caches = s.caches := rfl
@[simp] theorem setChan_owners (s : State) (d n : Nat) (c : Chan) : (s.setChan d n c).owners = s.owners := rfl
@[simp] theorem setChan_snoops (s : State) (d n : Nat) (c : Chan) : (s.setChan d n c).snoops = s.snoops := rfl
@[simp] theorem setChan_filters (s : State) (d n : Nat) (c : Chan) : (s.setChan d n c).filters = s.filters := rfl
@[simp] theorem setChan_filtersBuilt (s : State) (d n : Nat) (c : Chan) : (s.setChan d n c).filtersBuilt = s.filtersBuilt := rfl
@[simp] theorem setChan_mshrs (s : State) (d n : Nat) (c : Chan) : (s.setChan d n c).mshrs = s.mshrs := rfl
@[simp] theorem setChan_tlbs (s : State) (d n : Nat) (c : Chan) : (s.setChan d n c).tlbs = s.tlbs := rfl
@[simp] theorem setChan_invals (s : State) (d n : Nat) (c : Chan) : (s.setChan d n c).invals = s.invals := rfl
@[simp] theorem setChan_ilines (s : State) (d n : Nat) (c : Chan) : (s.setChan d n c).ilines = s.ilines := rfl
@[simp] theorem setChan_split (s : State) (d n : Nat) (c : Chan) : (s.setChan d n c).split = s.split := rfl
@[simp] theorem setChan_live (s : State) (d n : Nat) (c : Chan) : (s.setChan d n c).live = s.live := rfl
@[simp] theorem setChan_reserved (s : State) (d n : Nat) (c : Chan) : (s.setChan d n c).reserved = s.reserved := rfl
@[simp] theorem setChan_reservedBand (s : State) (d n : Nat) (c : Chan) : (s.setChan d n c).reservedBand = s.reservedBand := rfl
@[simp] theorem setChan_devKver (s : State) (d n : Nat) (c : Chan) : (s.setChan d n c).devKver = s.devKver := rfl
@[simp] theorem setChan_counters (s : State) (d n : Nat) (c : Chan) : (s.setChan d n c).counters = s.counters := rfl
@[simp] theorem setChan_perf (s : State) (d n : Nat) (c : Chan) : (s.setChan d n c).perf = s.perf := rfl
@[simp] theorem setChan_patrolHours (s : State) (d n : Nat) (c : Chan) : (s.setChan d n c).patrolHours = s.patrolHours := rfl
@[simp] theorem setChan_vifs (s : State) (d n : Nat) (c : Chan) : (s.setChan d n c).vifs = s.vifs := rfl
@[simp] theorem setChan_errors (s : State) (d n : Nat) (c : Chan) : (s.setChan d n c).errors = s.errors := rfl
@[simp] theorem setChan_windowPages (s : State) (d n : Nat) (c : Chan) : (s.setChan d n c).windowPages = s.windowPages := rfl
@[simp] theorem setChan_linksFailed (s : State) (d n : Nat) (c : Chan) : (s.setChan d n c).linksFailed = s.linksFailed := rfl
@[simp] theorem setChan_lostDies (s : State) (d n : Nat) (c : Chan) : (s.setChan d n c).lostDies = s.lostDies := rfl
@[simp] theorem setChan_failedDies (s : State) (d n : Nat) (c : Chan) : (s.setChan d n c).failedDies = s.failedDies := rfl
@[simp] theorem setChan_degraded (s : State) (d n : Nat) (c : Chan) : (s.setChan d n c).degraded = s.degraded := rfl
@[simp] theorem setChan_fwVersion (s : State) (d n : Nat) (c : Chan) : (s.setChan d n c).fwVersion = s.fwVersion := rfl
@[simp] theorem setChan_fwMin (s : State) (d n : Nat) (c : Chan) : (s.setChan d n c).fwMin = s.fwMin := rfl
@[simp] theorem setChan_flash (s : State) (d n : Nat) (c : Chan) : (s.setChan d n c).flash = s.flash := rfl
@[simp] theorem setChan_recovery (s : State) (d n : Nat) (c : Chan) : (s.setChan d n c).recovery = s.recovery := rfl
@[simp] theorem setChan_powerLimit (s : State) (d n : Nat) (c : Chan) : (s.setChan d n c).powerLimit = s.powerLimit := rfl
@[simp] theorem setChan_freq (s : State) (d n : Nat) (c : Chan) : (s.setChan d n c).freq = s.freq := rfl
@[simp] theorem setChan_freqBounds (s : State) (d n : Nat) (c : Chan) : (s.setChan d n c).freqBounds = s.freqBounds := rfl

/-! ### State.setCopy -/

@[simp] theorem setCopy_tick (s : State) (c : Copy) : (s.setCopy c).tick = s.tick := rfl
@[simp] theorem setCopy_agenda (s : State) (c : Copy) : (s.setCopy c).agenda = s.agenda := rfl
@[simp] theorem setCopy_cur (s : State) (c : Copy) : (s.setCopy c).cur = s.cur := rfl
@[simp] theorem setCopy_strikes (s : State) (c : Copy) : (s.setCopy c).strikes = s.strikes := rfl
@[simp] theorem setCopy_time (s : State) (c : Copy) : (s.setCopy c).time = s.time := rfl
@[simp] theorem setCopy_serial (s : State) (c : Copy) : (s.setCopy c).serial = s.serial := rfl
@[simp] theorem setCopy_groups (s : State) (c : Copy) : (s.setCopy c).groups = s.groups := rfl
@[simp] theorem setCopy_blocks (s : State) (c : Copy) : (s.setCopy c).blocks = s.blocks := rfl
@[simp] theorem setCopy_launches (s : State) (c : Copy) : (s.setCopy c).launches = s.launches := rfl
@[simp] theorem setCopy_landed (s : State) (c : Copy) : (s.setCopy c).landed = s.landed := rfl
@[simp] theorem setCopy_quads (s : State) (c : Copy) : (s.setCopy c).quads = s.quads := rfl
@[simp] theorem setCopy_lineages (s : State) (c : Copy) : (s.setCopy c).lineages = s.lineages := rfl
@[simp] theorem setCopy_tileAdds (s : State) (c : Copy) : (s.setCopy c).tileAdds = s.tileAdds := rfl
@[simp] theorem setCopy_chunks (s : State) (c : Copy) : (s.setCopy c).chunks = s.chunks := rfl
@[simp] theorem setCopy_misses (s : State) (c : Copy) : (s.setCopy c).misses = s.misses := rfl
@[simp] theorem setCopy_requests (s : State) (c : Copy) : (s.setCopy c).requests = s.requests := rfl
@[simp] theorem setCopy_peerWaits (s : State) (c : Copy) : (s.setCopy c).peerWaits = s.peerWaits := rfl
@[simp] theorem setCopy_colls (s : State) (c : Copy) : (s.setCopy c).colls = s.colls := rfl
@[simp] theorem setCopy_members (s : State) (c : Copy) : (s.setCopy c).members = s.members := rfl
@[simp] theorem setCopy_portsFailed (s : State) (c : Copy) : (s.setCopy c).portsFailed = s.portsFailed := rfl
@[simp] theorem setCopy_sent (s : State) (c : Copy) : (s.setCopy c).sent = s.sent := rfl
@[simp] theorem setCopy_hbm (s : State) (c : Copy) : (s.setCopy c).hbm = s.hbm := rfl
@[simp] theorem setCopy_band (s : State) (c : Copy) : (s.setCopy c).band = s.band := rfl
@[simp] theorem setCopy_host (s : State) (c : Copy) : (s.setCopy c).host = s.host := rfl
@[simp] theorem setCopy_caches (s : State) (c : Copy) : (s.setCopy c).caches = s.caches := rfl
@[simp] theorem setCopy_owners (s : State) (c : Copy) : (s.setCopy c).owners = s.owners := rfl
@[simp] theorem setCopy_snoops (s : State) (c : Copy) : (s.setCopy c).snoops = s.snoops := rfl
@[simp] theorem setCopy_filters (s : State) (c : Copy) : (s.setCopy c).filters = s.filters := rfl
@[simp] theorem setCopy_filtersBuilt (s : State) (c : Copy) : (s.setCopy c).filtersBuilt = s.filtersBuilt := rfl
@[simp] theorem setCopy_mshrs (s : State) (c : Copy) : (s.setCopy c).mshrs = s.mshrs := rfl
@[simp] theorem setCopy_tlbs (s : State) (c : Copy) : (s.setCopy c).tlbs = s.tlbs := rfl
@[simp] theorem setCopy_invals (s : State) (c : Copy) : (s.setCopy c).invals = s.invals := rfl
@[simp] theorem setCopy_ilines (s : State) (c : Copy) : (s.setCopy c).ilines = s.ilines := rfl
@[simp] theorem setCopy_split (s : State) (c : Copy) : (s.setCopy c).split = s.split := rfl
@[simp] theorem setCopy_live (s : State) (c : Copy) : (s.setCopy c).live = s.live := rfl
@[simp] theorem setCopy_chans (s : State) (c : Copy) : (s.setCopy c).chans = s.chans := rfl
@[simp] theorem setCopy_reserved (s : State) (c : Copy) : (s.setCopy c).reserved = s.reserved := rfl
@[simp] theorem setCopy_reservedBand (s : State) (c : Copy) : (s.setCopy c).reservedBand = s.reservedBand := rfl
@[simp] theorem setCopy_devKver (s : State) (c : Copy) : (s.setCopy c).devKver = s.devKver := rfl
@[simp] theorem setCopy_counters (s : State) (c : Copy) : (s.setCopy c).counters = s.counters := rfl
@[simp] theorem setCopy_perf (s : State) (c : Copy) : (s.setCopy c).perf = s.perf := rfl
@[simp] theorem setCopy_patrolHours (s : State) (c : Copy) : (s.setCopy c).patrolHours = s.patrolHours := rfl
@[simp] theorem setCopy_vifs (s : State) (c : Copy) : (s.setCopy c).vifs = s.vifs := rfl
@[simp] theorem setCopy_errors (s : State) (c : Copy) : (s.setCopy c).errors = s.errors := rfl
@[simp] theorem setCopy_windowPages (s : State) (c : Copy) : (s.setCopy c).windowPages = s.windowPages := rfl
@[simp] theorem setCopy_linksFailed (s : State) (c : Copy) : (s.setCopy c).linksFailed = s.linksFailed := rfl
@[simp] theorem setCopy_lostDies (s : State) (c : Copy) : (s.setCopy c).lostDies = s.lostDies := rfl
@[simp] theorem setCopy_failedDies (s : State) (c : Copy) : (s.setCopy c).failedDies = s.failedDies := rfl
@[simp] theorem setCopy_degraded (s : State) (c : Copy) : (s.setCopy c).degraded = s.degraded := rfl
@[simp] theorem setCopy_fwVersion (s : State) (c : Copy) : (s.setCopy c).fwVersion = s.fwVersion := rfl
@[simp] theorem setCopy_fwMin (s : State) (c : Copy) : (s.setCopy c).fwMin = s.fwMin := rfl
@[simp] theorem setCopy_flash (s : State) (c : Copy) : (s.setCopy c).flash = s.flash := rfl
@[simp] theorem setCopy_recovery (s : State) (c : Copy) : (s.setCopy c).recovery = s.recovery := rfl
@[simp] theorem setCopy_powerLimit (s : State) (c : Copy) : (s.setCopy c).powerLimit = s.powerLimit := rfl
@[simp] theorem setCopy_freq (s : State) (c : Copy) : (s.setCopy c).freq = s.freq := rfl
@[simp] theorem setCopy_freqBounds (s : State) (c : Copy) : (s.setCopy c).freqBounds = s.freqBounds := rfl

/-! ### State.setLineage -/

@[simp] theorem setLineage_tick (s : State) (l : Lineage) : (s.setLineage l).tick = s.tick := rfl
@[simp] theorem setLineage_agenda (s : State) (l : Lineage) : (s.setLineage l).agenda = s.agenda := rfl
@[simp] theorem setLineage_cur (s : State) (l : Lineage) : (s.setLineage l).cur = s.cur := rfl
@[simp] theorem setLineage_strikes (s : State) (l : Lineage) : (s.setLineage l).strikes = s.strikes := rfl
@[simp] theorem setLineage_time (s : State) (l : Lineage) : (s.setLineage l).time = s.time := rfl
@[simp] theorem setLineage_serial (s : State) (l : Lineage) : (s.setLineage l).serial = s.serial := rfl
@[simp] theorem setLineage_groups (s : State) (l : Lineage) : (s.setLineage l).groups = s.groups := rfl
@[simp] theorem setLineage_blocks (s : State) (l : Lineage) : (s.setLineage l).blocks = s.blocks := rfl
@[simp] theorem setLineage_launches (s : State) (l : Lineage) : (s.setLineage l).launches = s.launches := rfl
@[simp] theorem setLineage_copies (s : State) (l : Lineage) : (s.setLineage l).copies = s.copies := rfl
@[simp] theorem setLineage_landed (s : State) (l : Lineage) : (s.setLineage l).landed = s.landed := rfl
@[simp] theorem setLineage_quads (s : State) (l : Lineage) : (s.setLineage l).quads = s.quads := rfl
@[simp] theorem setLineage_tileAdds (s : State) (l : Lineage) : (s.setLineage l).tileAdds = s.tileAdds := rfl
@[simp] theorem setLineage_chunks (s : State) (l : Lineage) : (s.setLineage l).chunks = s.chunks := rfl
@[simp] theorem setLineage_misses (s : State) (l : Lineage) : (s.setLineage l).misses = s.misses := rfl
@[simp] theorem setLineage_requests (s : State) (l : Lineage) : (s.setLineage l).requests = s.requests := rfl
@[simp] theorem setLineage_peerWaits (s : State) (l : Lineage) : (s.setLineage l).peerWaits = s.peerWaits := rfl
@[simp] theorem setLineage_colls (s : State) (l : Lineage) : (s.setLineage l).colls = s.colls := rfl
@[simp] theorem setLineage_members (s : State) (l : Lineage) : (s.setLineage l).members = s.members := rfl
@[simp] theorem setLineage_portsFailed (s : State) (l : Lineage) : (s.setLineage l).portsFailed = s.portsFailed := rfl
@[simp] theorem setLineage_sent (s : State) (l : Lineage) : (s.setLineage l).sent = s.sent := rfl
@[simp] theorem setLineage_hbm (s : State) (l : Lineage) : (s.setLineage l).hbm = s.hbm := rfl
@[simp] theorem setLineage_band (s : State) (l : Lineage) : (s.setLineage l).band = s.band := rfl
@[simp] theorem setLineage_host (s : State) (l : Lineage) : (s.setLineage l).host = s.host := rfl
@[simp] theorem setLineage_caches (s : State) (l : Lineage) : (s.setLineage l).caches = s.caches := rfl
@[simp] theorem setLineage_owners (s : State) (l : Lineage) : (s.setLineage l).owners = s.owners := rfl
@[simp] theorem setLineage_snoops (s : State) (l : Lineage) : (s.setLineage l).snoops = s.snoops := rfl
@[simp] theorem setLineage_filters (s : State) (l : Lineage) : (s.setLineage l).filters = s.filters := rfl
@[simp] theorem setLineage_filtersBuilt (s : State) (l : Lineage) : (s.setLineage l).filtersBuilt = s.filtersBuilt := rfl
@[simp] theorem setLineage_mshrs (s : State) (l : Lineage) : (s.setLineage l).mshrs = s.mshrs := rfl
@[simp] theorem setLineage_tlbs (s : State) (l : Lineage) : (s.setLineage l).tlbs = s.tlbs := rfl
@[simp] theorem setLineage_invals (s : State) (l : Lineage) : (s.setLineage l).invals = s.invals := rfl
@[simp] theorem setLineage_ilines (s : State) (l : Lineage) : (s.setLineage l).ilines = s.ilines := rfl
@[simp] theorem setLineage_split (s : State) (l : Lineage) : (s.setLineage l).split = s.split := rfl
@[simp] theorem setLineage_live (s : State) (l : Lineage) : (s.setLineage l).live = s.live := rfl
@[simp] theorem setLineage_chans (s : State) (l : Lineage) : (s.setLineage l).chans = s.chans := rfl
@[simp] theorem setLineage_reserved (s : State) (l : Lineage) : (s.setLineage l).reserved = s.reserved := rfl
@[simp] theorem setLineage_reservedBand (s : State) (l : Lineage) : (s.setLineage l).reservedBand = s.reservedBand := rfl
@[simp] theorem setLineage_devKver (s : State) (l : Lineage) : (s.setLineage l).devKver = s.devKver := rfl
@[simp] theorem setLineage_counters (s : State) (l : Lineage) : (s.setLineage l).counters = s.counters := rfl
@[simp] theorem setLineage_perf (s : State) (l : Lineage) : (s.setLineage l).perf = s.perf := rfl
@[simp] theorem setLineage_patrolHours (s : State) (l : Lineage) : (s.setLineage l).patrolHours = s.patrolHours := rfl
@[simp] theorem setLineage_vifs (s : State) (l : Lineage) : (s.setLineage l).vifs = s.vifs := rfl
@[simp] theorem setLineage_errors (s : State) (l : Lineage) : (s.setLineage l).errors = s.errors := rfl
@[simp] theorem setLineage_windowPages (s : State) (l : Lineage) : (s.setLineage l).windowPages = s.windowPages := rfl
@[simp] theorem setLineage_linksFailed (s : State) (l : Lineage) : (s.setLineage l).linksFailed = s.linksFailed := rfl
@[simp] theorem setLineage_lostDies (s : State) (l : Lineage) : (s.setLineage l).lostDies = s.lostDies := rfl
@[simp] theorem setLineage_failedDies (s : State) (l : Lineage) : (s.setLineage l).failedDies = s.failedDies := rfl
@[simp] theorem setLineage_degraded (s : State) (l : Lineage) : (s.setLineage l).degraded = s.degraded := rfl
@[simp] theorem setLineage_fwVersion (s : State) (l : Lineage) : (s.setLineage l).fwVersion = s.fwVersion := rfl
@[simp] theorem setLineage_fwMin (s : State) (l : Lineage) : (s.setLineage l).fwMin = s.fwMin := rfl
@[simp] theorem setLineage_flash (s : State) (l : Lineage) : (s.setLineage l).flash = s.flash := rfl
@[simp] theorem setLineage_recovery (s : State) (l : Lineage) : (s.setLineage l).recovery = s.recovery := rfl
@[simp] theorem setLineage_powerLimit (s : State) (l : Lineage) : (s.setLineage l).powerLimit = s.powerLimit := rfl
@[simp] theorem setLineage_freq (s : State) (l : Lineage) : (s.setLineage l).freq = s.freq := rfl
@[simp] theorem setLineage_freqBounds (s : State) (l : Lineage) : (s.setLineage l).freqBounds = s.freqBounds := rfl

/-! ### State.hbmWrite -/

@[simp] theorem hbmWrite_tick (s : State) (a : Nat) (bs : List Byte) : (s.hbmWrite a bs).tick = s.tick := rfl
@[simp] theorem hbmWrite_agenda (s : State) (a : Nat) (bs : List Byte) : (s.hbmWrite a bs).agenda = s.agenda := rfl
@[simp] theorem hbmWrite_cur (s : State) (a : Nat) (bs : List Byte) : (s.hbmWrite a bs).cur = s.cur := rfl
@[simp] theorem hbmWrite_strikes (s : State) (a : Nat) (bs : List Byte) : (s.hbmWrite a bs).strikes = s.strikes := rfl
@[simp] theorem hbmWrite_time (s : State) (a : Nat) (bs : List Byte) : (s.hbmWrite a bs).time = s.time := rfl
@[simp] theorem hbmWrite_serial (s : State) (a : Nat) (bs : List Byte) : (s.hbmWrite a bs).serial = s.serial := rfl
@[simp] theorem hbmWrite_groups (s : State) (a : Nat) (bs : List Byte) : (s.hbmWrite a bs).groups = s.groups := rfl
@[simp] theorem hbmWrite_blocks (s : State) (a : Nat) (bs : List Byte) : (s.hbmWrite a bs).blocks = s.blocks := rfl
@[simp] theorem hbmWrite_launches (s : State) (a : Nat) (bs : List Byte) : (s.hbmWrite a bs).launches = s.launches := rfl
@[simp] theorem hbmWrite_copies (s : State) (a : Nat) (bs : List Byte) : (s.hbmWrite a bs).copies = s.copies := rfl
@[simp] theorem hbmWrite_landed (s : State) (a : Nat) (bs : List Byte) : (s.hbmWrite a bs).landed = s.landed := rfl
@[simp] theorem hbmWrite_quads (s : State) (a : Nat) (bs : List Byte) : (s.hbmWrite a bs).quads = s.quads := rfl
@[simp] theorem hbmWrite_lineages (s : State) (a : Nat) (bs : List Byte) : (s.hbmWrite a bs).lineages = s.lineages := rfl
@[simp] theorem hbmWrite_tileAdds (s : State) (a : Nat) (bs : List Byte) : (s.hbmWrite a bs).tileAdds = s.tileAdds := rfl
@[simp] theorem hbmWrite_chunks (s : State) (a : Nat) (bs : List Byte) : (s.hbmWrite a bs).chunks = s.chunks := rfl
@[simp] theorem hbmWrite_misses (s : State) (a : Nat) (bs : List Byte) : (s.hbmWrite a bs).misses = s.misses := rfl
@[simp] theorem hbmWrite_requests (s : State) (a : Nat) (bs : List Byte) : (s.hbmWrite a bs).requests = s.requests := rfl
@[simp] theorem hbmWrite_peerWaits (s : State) (a : Nat) (bs : List Byte) : (s.hbmWrite a bs).peerWaits = s.peerWaits := rfl
@[simp] theorem hbmWrite_colls (s : State) (a : Nat) (bs : List Byte) : (s.hbmWrite a bs).colls = s.colls := rfl
@[simp] theorem hbmWrite_members (s : State) (a : Nat) (bs : List Byte) : (s.hbmWrite a bs).members = s.members := rfl
@[simp] theorem hbmWrite_portsFailed (s : State) (a : Nat) (bs : List Byte) : (s.hbmWrite a bs).portsFailed = s.portsFailed := rfl
@[simp] theorem hbmWrite_sent (s : State) (a : Nat) (bs : List Byte) : (s.hbmWrite a bs).sent = s.sent := rfl
@[simp] theorem hbmWrite_band (s : State) (a : Nat) (bs : List Byte) : (s.hbmWrite a bs).band = s.band := rfl
@[simp] theorem hbmWrite_host (s : State) (a : Nat) (bs : List Byte) : (s.hbmWrite a bs).host = s.host := rfl
@[simp] theorem hbmWrite_caches (s : State) (a : Nat) (bs : List Byte) : (s.hbmWrite a bs).caches = s.caches := rfl
@[simp] theorem hbmWrite_owners (s : State) (a : Nat) (bs : List Byte) : (s.hbmWrite a bs).owners = s.owners := rfl
@[simp] theorem hbmWrite_snoops (s : State) (a : Nat) (bs : List Byte) : (s.hbmWrite a bs).snoops = s.snoops := rfl
@[simp] theorem hbmWrite_filters (s : State) (a : Nat) (bs : List Byte) : (s.hbmWrite a bs).filters = s.filters := rfl
@[simp] theorem hbmWrite_filtersBuilt (s : State) (a : Nat) (bs : List Byte) : (s.hbmWrite a bs).filtersBuilt = s.filtersBuilt := rfl
@[simp] theorem hbmWrite_mshrs (s : State) (a : Nat) (bs : List Byte) : (s.hbmWrite a bs).mshrs = s.mshrs := rfl
@[simp] theorem hbmWrite_tlbs (s : State) (a : Nat) (bs : List Byte) : (s.hbmWrite a bs).tlbs = s.tlbs := rfl
@[simp] theorem hbmWrite_invals (s : State) (a : Nat) (bs : List Byte) : (s.hbmWrite a bs).invals = s.invals := rfl
@[simp] theorem hbmWrite_ilines (s : State) (a : Nat) (bs : List Byte) : (s.hbmWrite a bs).ilines = s.ilines := rfl
@[simp] theorem hbmWrite_split (s : State) (a : Nat) (bs : List Byte) : (s.hbmWrite a bs).split = s.split := rfl
@[simp] theorem hbmWrite_live (s : State) (a : Nat) (bs : List Byte) : (s.hbmWrite a bs).live = s.live := rfl
@[simp] theorem hbmWrite_chans (s : State) (a : Nat) (bs : List Byte) : (s.hbmWrite a bs).chans = s.chans := rfl
@[simp] theorem hbmWrite_reserved (s : State) (a : Nat) (bs : List Byte) : (s.hbmWrite a bs).reserved = s.reserved := rfl
@[simp] theorem hbmWrite_reservedBand (s : State) (a : Nat) (bs : List Byte) : (s.hbmWrite a bs).reservedBand = s.reservedBand := rfl
@[simp] theorem hbmWrite_devKver (s : State) (a : Nat) (bs : List Byte) : (s.hbmWrite a bs).devKver = s.devKver := rfl
@[simp] theorem hbmWrite_counters (s : State) (a : Nat) (bs : List Byte) : (s.hbmWrite a bs).counters = s.counters := rfl
@[simp] theorem hbmWrite_perf (s : State) (a : Nat) (bs : List Byte) : (s.hbmWrite a bs).perf = s.perf := rfl
@[simp] theorem hbmWrite_patrolHours (s : State) (a : Nat) (bs : List Byte) : (s.hbmWrite a bs).patrolHours = s.patrolHours := rfl
@[simp] theorem hbmWrite_vifs (s : State) (a : Nat) (bs : List Byte) : (s.hbmWrite a bs).vifs = s.vifs := rfl
@[simp] theorem hbmWrite_errors (s : State) (a : Nat) (bs : List Byte) : (s.hbmWrite a bs).errors = s.errors := rfl
@[simp] theorem hbmWrite_windowPages (s : State) (a : Nat) (bs : List Byte) : (s.hbmWrite a bs).windowPages = s.windowPages := rfl
@[simp] theorem hbmWrite_linksFailed (s : State) (a : Nat) (bs : List Byte) : (s.hbmWrite a bs).linksFailed = s.linksFailed := rfl
@[simp] theorem hbmWrite_lostDies (s : State) (a : Nat) (bs : List Byte) : (s.hbmWrite a bs).lostDies = s.lostDies := rfl
@[simp] theorem hbmWrite_failedDies (s : State) (a : Nat) (bs : List Byte) : (s.hbmWrite a bs).failedDies = s.failedDies := rfl
@[simp] theorem hbmWrite_degraded (s : State) (a : Nat) (bs : List Byte) : (s.hbmWrite a bs).degraded = s.degraded := rfl
@[simp] theorem hbmWrite_fwVersion (s : State) (a : Nat) (bs : List Byte) : (s.hbmWrite a bs).fwVersion = s.fwVersion := rfl
@[simp] theorem hbmWrite_fwMin (s : State) (a : Nat) (bs : List Byte) : (s.hbmWrite a bs).fwMin = s.fwMin := rfl
@[simp] theorem hbmWrite_flash (s : State) (a : Nat) (bs : List Byte) : (s.hbmWrite a bs).flash = s.flash := rfl
@[simp] theorem hbmWrite_recovery (s : State) (a : Nat) (bs : List Byte) : (s.hbmWrite a bs).recovery = s.recovery := rfl
@[simp] theorem hbmWrite_powerLimit (s : State) (a : Nat) (bs : List Byte) : (s.hbmWrite a bs).powerLimit = s.powerLimit := rfl
@[simp] theorem hbmWrite_freq (s : State) (a : Nat) (bs : List Byte) : (s.hbmWrite a bs).freq = s.freq := rfl
@[simp] theorem hbmWrite_freqBounds (s : State) (a : Nat) (bs : List Byte) : (s.hbmWrite a bs).freqBounds = s.freqBounds := rfl

/-! ### State.hostWrite -/

@[simp] theorem hostWrite_tick (s : State) (a : Nat) (bs : List Byte) : (s.hostWrite a bs).tick = s.tick := rfl
@[simp] theorem hostWrite_agenda (s : State) (a : Nat) (bs : List Byte) : (s.hostWrite a bs).agenda = s.agenda := rfl
@[simp] theorem hostWrite_cur (s : State) (a : Nat) (bs : List Byte) : (s.hostWrite a bs).cur = s.cur := rfl
@[simp] theorem hostWrite_strikes (s : State) (a : Nat) (bs : List Byte) : (s.hostWrite a bs).strikes = s.strikes := rfl
@[simp] theorem hostWrite_time (s : State) (a : Nat) (bs : List Byte) : (s.hostWrite a bs).time = s.time := rfl
@[simp] theorem hostWrite_serial (s : State) (a : Nat) (bs : List Byte) : (s.hostWrite a bs).serial = s.serial := rfl
@[simp] theorem hostWrite_groups (s : State) (a : Nat) (bs : List Byte) : (s.hostWrite a bs).groups = s.groups := rfl
@[simp] theorem hostWrite_blocks (s : State) (a : Nat) (bs : List Byte) : (s.hostWrite a bs).blocks = s.blocks := rfl
@[simp] theorem hostWrite_launches (s : State) (a : Nat) (bs : List Byte) : (s.hostWrite a bs).launches = s.launches := rfl
@[simp] theorem hostWrite_copies (s : State) (a : Nat) (bs : List Byte) : (s.hostWrite a bs).copies = s.copies := rfl
@[simp] theorem hostWrite_landed (s : State) (a : Nat) (bs : List Byte) : (s.hostWrite a bs).landed = s.landed := rfl
@[simp] theorem hostWrite_quads (s : State) (a : Nat) (bs : List Byte) : (s.hostWrite a bs).quads = s.quads := rfl
@[simp] theorem hostWrite_lineages (s : State) (a : Nat) (bs : List Byte) : (s.hostWrite a bs).lineages = s.lineages := rfl
@[simp] theorem hostWrite_tileAdds (s : State) (a : Nat) (bs : List Byte) : (s.hostWrite a bs).tileAdds = s.tileAdds := rfl
@[simp] theorem hostWrite_chunks (s : State) (a : Nat) (bs : List Byte) : (s.hostWrite a bs).chunks = s.chunks := rfl
@[simp] theorem hostWrite_misses (s : State) (a : Nat) (bs : List Byte) : (s.hostWrite a bs).misses = s.misses := rfl
@[simp] theorem hostWrite_requests (s : State) (a : Nat) (bs : List Byte) : (s.hostWrite a bs).requests = s.requests := rfl
@[simp] theorem hostWrite_peerWaits (s : State) (a : Nat) (bs : List Byte) : (s.hostWrite a bs).peerWaits = s.peerWaits := rfl
@[simp] theorem hostWrite_colls (s : State) (a : Nat) (bs : List Byte) : (s.hostWrite a bs).colls = s.colls := rfl
@[simp] theorem hostWrite_members (s : State) (a : Nat) (bs : List Byte) : (s.hostWrite a bs).members = s.members := rfl
@[simp] theorem hostWrite_portsFailed (s : State) (a : Nat) (bs : List Byte) : (s.hostWrite a bs).portsFailed = s.portsFailed := rfl
@[simp] theorem hostWrite_sent (s : State) (a : Nat) (bs : List Byte) : (s.hostWrite a bs).sent = s.sent := rfl
@[simp] theorem hostWrite_hbm (s : State) (a : Nat) (bs : List Byte) : (s.hostWrite a bs).hbm = s.hbm := rfl
@[simp] theorem hostWrite_band (s : State) (a : Nat) (bs : List Byte) : (s.hostWrite a bs).band = s.band := rfl
@[simp] theorem hostWrite_caches (s : State) (a : Nat) (bs : List Byte) : (s.hostWrite a bs).caches = s.caches := rfl
@[simp] theorem hostWrite_owners (s : State) (a : Nat) (bs : List Byte) : (s.hostWrite a bs).owners = s.owners := rfl
@[simp] theorem hostWrite_snoops (s : State) (a : Nat) (bs : List Byte) : (s.hostWrite a bs).snoops = s.snoops := rfl
@[simp] theorem hostWrite_filters (s : State) (a : Nat) (bs : List Byte) : (s.hostWrite a bs).filters = s.filters := rfl
@[simp] theorem hostWrite_filtersBuilt (s : State) (a : Nat) (bs : List Byte) : (s.hostWrite a bs).filtersBuilt = s.filtersBuilt := rfl
@[simp] theorem hostWrite_mshrs (s : State) (a : Nat) (bs : List Byte) : (s.hostWrite a bs).mshrs = s.mshrs := rfl
@[simp] theorem hostWrite_tlbs (s : State) (a : Nat) (bs : List Byte) : (s.hostWrite a bs).tlbs = s.tlbs := rfl
@[simp] theorem hostWrite_invals (s : State) (a : Nat) (bs : List Byte) : (s.hostWrite a bs).invals = s.invals := rfl
@[simp] theorem hostWrite_ilines (s : State) (a : Nat) (bs : List Byte) : (s.hostWrite a bs).ilines = s.ilines := rfl
@[simp] theorem hostWrite_split (s : State) (a : Nat) (bs : List Byte) : (s.hostWrite a bs).split = s.split := rfl
@[simp] theorem hostWrite_live (s : State) (a : Nat) (bs : List Byte) : (s.hostWrite a bs).live = s.live := rfl
@[simp] theorem hostWrite_chans (s : State) (a : Nat) (bs : List Byte) : (s.hostWrite a bs).chans = s.chans := rfl
@[simp] theorem hostWrite_reserved (s : State) (a : Nat) (bs : List Byte) : (s.hostWrite a bs).reserved = s.reserved := rfl
@[simp] theorem hostWrite_reservedBand (s : State) (a : Nat) (bs : List Byte) : (s.hostWrite a bs).reservedBand = s.reservedBand := rfl
@[simp] theorem hostWrite_devKver (s : State) (a : Nat) (bs : List Byte) : (s.hostWrite a bs).devKver = s.devKver := rfl
@[simp] theorem hostWrite_counters (s : State) (a : Nat) (bs : List Byte) : (s.hostWrite a bs).counters = s.counters := rfl
@[simp] theorem hostWrite_perf (s : State) (a : Nat) (bs : List Byte) : (s.hostWrite a bs).perf = s.perf := rfl
@[simp] theorem hostWrite_patrolHours (s : State) (a : Nat) (bs : List Byte) : (s.hostWrite a bs).patrolHours = s.patrolHours := rfl
@[simp] theorem hostWrite_vifs (s : State) (a : Nat) (bs : List Byte) : (s.hostWrite a bs).vifs = s.vifs := rfl
@[simp] theorem hostWrite_errors (s : State) (a : Nat) (bs : List Byte) : (s.hostWrite a bs).errors = s.errors := rfl
@[simp] theorem hostWrite_windowPages (s : State) (a : Nat) (bs : List Byte) : (s.hostWrite a bs).windowPages = s.windowPages := rfl
@[simp] theorem hostWrite_linksFailed (s : State) (a : Nat) (bs : List Byte) : (s.hostWrite a bs).linksFailed = s.linksFailed := rfl
@[simp] theorem hostWrite_lostDies (s : State) (a : Nat) (bs : List Byte) : (s.hostWrite a bs).lostDies = s.lostDies := rfl
@[simp] theorem hostWrite_failedDies (s : State) (a : Nat) (bs : List Byte) : (s.hostWrite a bs).failedDies = s.failedDies := rfl
@[simp] theorem hostWrite_degraded (s : State) (a : Nat) (bs : List Byte) : (s.hostWrite a bs).degraded = s.degraded := rfl
@[simp] theorem hostWrite_fwVersion (s : State) (a : Nat) (bs : List Byte) : (s.hostWrite a bs).fwVersion = s.fwVersion := rfl
@[simp] theorem hostWrite_fwMin (s : State) (a : Nat) (bs : List Byte) : (s.hostWrite a bs).fwMin = s.fwMin := rfl
@[simp] theorem hostWrite_flash (s : State) (a : Nat) (bs : List Byte) : (s.hostWrite a bs).flash = s.flash := rfl
@[simp] theorem hostWrite_recovery (s : State) (a : Nat) (bs : List Byte) : (s.hostWrite a bs).recovery = s.recovery := rfl
@[simp] theorem hostWrite_powerLimit (s : State) (a : Nat) (bs : List Byte) : (s.hostWrite a bs).powerLimit = s.powerLimit := rfl
@[simp] theorem hostWrite_freq (s : State) (a : Nat) (bs : List Byte) : (s.hostWrite a bs).freq = s.freq := rfl
@[simp] theorem hostWrite_freqBounds (s : State) (a : Nat) (bs : List Byte) : (s.hostWrite a bs).freqBounds = s.freqBounds := rfl

end Sys2Proof.Laws
end

