-- ==== Sys2Proof/Tests/Slice0.lean ====
section
/-! SUPPORT. Tests: words written out from the encoding tables of the spec, operands that the well-formedness checks refuse, single
steps on small states, and a state for the hypotheses of each obligation. -/

namespace Sys2Proof.Tests

open Sys2Proof Sys2Proof.Machine

set_option maxRecDepth 100000

/-! ### Decoding: the fields of Table 3-2, with each table's codes -/

/-- An instruction word: opcode [61:52], d [47:39], a [38:30], b [29:21], c [20:12], hold [11:9], mod [8:0]. -/
def word (op d a b c hold mod : Nat) : Nat :=
  op * 2 ^ 52 + d * 2 ^ 39 + a * 2 ^ 30 + b * 2 ^ 21 + c * 2 ^ 12 + hold * 2 ^ 9 + mod

/-- An extension word (Table 3-1). -/
def ext (x : Nat) : Nat := 2 ^ 62 + x

/-- No dist, flag A. -/
def k0 : Ctl := ⟨0, false⟩

/-- The words decode to the instruction, and to nothing more. -/
def reads (ws : List Nat) (i : Instr) : Bool := decide (decode 3 ws = .ok (i, []))

/-- A vector source without hold. -/
def v (n : VReg) : Src := .v n false

/-- Table 3-2: dist [51:49] and fsel [48]; R53: fsel of an instruction that counts in flag B. -/
theorem test_decode_ctl : reads [word 0x001 0 0 0 0 0 0 + 5 * 2 ^ 49] (.nop ⟨5, false⟩) = true ∧
    reads [word 0x386 391 9 0 0 0 0 + 2 ^ 48] (.mstat ⟨0, true⟩ 7 9) = true := by decide

/-- Table 17-1. -/
theorem test_decode_control :
    (reads [word 0x002 0 0 0 0 0 0] (.exit k0) && reads [word 0x003 0 0 0 0 0 0, ext 0x240] (.bra k0 0x240) &&
      reads [word 0x004 0 6 0 0 0 1, ext 0x80] (.brc k0 true 6 0x80) && reads [word 0x005 0 (384 + 9) 0 0 0 0] (.brx k0 (.s 9)) &&
      reads [word 0x006 0 0 0 0 0 0, ext 0x100] (.call k0 0x100) && reads [word 0x007 0 300 0 0 4 0] (.callx k0 (.v 300 true)) &&
      reads [word 0x008 0 0 0 0 0 0] (.ret k0) && reads [word 0x009 5 0 0 0 0 1] (.join k0 .or 5) &&
      reads [word 0x00A 0 7 0 0 0 0] (.jwait k0 7) && reads [word 0x00B 0 (384 + 2) 0 0 0 0, ext 0xF] (.reform k0 (.s 2) 0xF) &&
      reads [word 0x00C 0 3 0 0 0 1, ext 0x6] (.reorder k0 true ⟨3, false⟩ 0x6)) = true := by decide

/-- Tables 10-7 and 12-9, the uniform instructions: mod [7] .d64. -/
theorem test_decode_scalar :
    (reads [word 0x040 (384 + 4) (384 + 6) 0 0 0 1] (.smov k0 true 4 6) && reads [word 0x041 (384 + 1) 0 0 0 0 0, ext 0xFFFFFFFF] (.simm k0 1 0xFFFFFFFF) &&
      reads [word 0x042 (384 + 1) (384 + 2) (384 + 3) 0 0 1] (.sadd k0 .sats false 1 2 3) &&
      reads [word 0x043 (384 + 2) (384 + 4) (384 + 6) 0 0 0x82] (.ssub k0 .satu true 2 4 6) &&
      reads [word 0x044 (384 + 1) (384 + 2) (384 + 3) 0 0 0] (.smul k0 1 2 3) && reads [word 0x045 (384 + 1) (384 + 2) (384 + 3) 0 0 1] (.smulh k0 true 1 2 3) &&
      reads [word 0x046 (384 + 1) (384 + 2) (384 + 3) (384 + 4) 0 0] (.smad k0 1 2 3 4) &&
      reads [word 0x047 (384 + 2) (384 + 4) (384 + 6) 0 0 0x80] (.sand k0 true 2 4 6) && reads [word 0x048 (384 + 1) (384 + 2) (384 + 3) 0 0 0] (.sor k0 false 1 2 3) &&
      reads [word 0x049 (384 + 1) (384 + 2) (384 + 3) 0 0 0] (.sxor k0 false 1 2 3) && reads [word 0x04A (384 + 1) (384 + 2) 0 0 0 0] (.snot k0 false 1 2) &&
      reads [word 0x04B (384 + 2) (384 + 4) (384 + 7) 0 0 0x80] (.sshl k0 true 2 4 7) && reads [word 0x04C (384 + 1) (384 + 2) (384 + 3) 0 0 0] (.sshr k0 false 1 2 3) &&
      reads [word 0x04D (384 + 1) (384 + 2) (384 + 3) 0 0 0] (.ssar k0 false 1 2 3) && reads [word 0x04E (384 + 1) (384 + 2) (384 + 3) 0 0 1] (.smin k0 true false 1 2 3) &&
      reads [word 0x04F (384 + 2) (384 + 4) (384 + 6) 0 0 0x80] (.smax k0 false true 2 4 6) &&
      reads [word 0x050 3 (384 + 2) (384 + 4) 0 0 0x9C] (.scmp k0 .gt true true (.p 3) 2 4) && reads [word 0x050 (384 + 3) (384 + 2) (384 + 4) 0 0 1] (.scmp k0 .ne false false (.s 3) 2 4) &&
      reads [word 0x051 (384 + 1) (384 + 2) (384 + 3) (384 + 4) 0 0] (.ssel k0 false 1 2 3 4) && reads [word 0x052 (384 + 1) (384 + 2) (384 + 3) 0 0 1] (.sdivu k0 true false 1 2 3)) = true := by
  decide

/-- Tables 10-7 and 12-3, the vector integer instructions. -/
theorem test_decode_vector :
    (reads [word 0x100 2 4 0 0 0 1] (.vmov k0 true 2 (v 4)) && reads [word 0x101 382 0 0 0 0 0, ext 7] (.vimm k0 382 7) &&
      reads [word 0x102 1 2 3 0 2 1] (.vadd k0 .sats 1 (v 2) (.v 3 true)) && reads [word 0x103 1 2 (384 + 3) 0 0 2] (.vsub k0 .satu 1 (v 2) (.s 3)) &&
      reads [word 0x104 1 2 3 6 0 0xD] (.vaddc k0 true 1 5 (v 2) (v 3) (some 6)) && reads [word 0x104 1 2 3 0 0 0x12] (.vaddc k0 false 1 2 (v 2) (v 3) none) &&
      reads [word 0x105 1 2 3 0 0 0x100] (.vmul k0 true 1 (v 2) (v 3)) && reads [word 0x106 1 2 3 0 0 1] (.vmulh k0 true 1 (v 2) (v 3)) &&
      reads [word 0x107 1 2 3 4 1 0] (.vmad k0 false 1 (v 2) (v 3) (.v 4 true)) && reads [word 0x108 1 2 3 0 0 0] (.vand k0 1 (v 2) (v 3)) &&
      reads [word 0x109 1 2 3 0 0 0] (.vor k0 1 (v 2) (v 3)) && reads [word 0x10A 1 2 3 0 0 0] (.vxor k0 1 (v 2) (v 3)) && reads [word 0x10B 1 2 0 0 0 0] (.vnot k0 1 (v 2)) &&
      reads [word 0x10C 1 2 3 0 0 0] (.vshl k0 1 (v 2) (v 3)) && reads [word 0x10D 1 2 3 0 0 0] (.vshr k0 1 (v 2) (v 3)) && reads [word 0x10E 1 2 3 0 0 0] (.vsar k0 1 (v 2) (v 3)) &&
      reads [word 0x10F 1 2 3 0 0 0] (.vmin k0 false 1 (v 2) (v 3)) && reads [word 0x110 1 2 3 0 0 1] (.vmax k0 true 1 (v 2) (v 3)) && reads [word 0x111 1 2 0 0 0 1] (.vabs k0 true 1 (v 2)) &&
      reads [word 0x112 1 2 0 0 0 0] (.vneg k0 false 1 (v 2)) && reads [word 0x113 1 2 0 0 0 0] (.vclz k0 1 (v 2)) && reads [word 0x114 1 2 0 0 0 0] (.vpopc k0 1 (v 2)) &&
      reads [word 0x115 1 2 3 0 0 1] (.vbfe k0 true 1 (v 2) (v 3)) && reads [word 0x116 1 2 3 4 0 0] (.vbfi k0 1 (v 2) (v 3) (v 4)) && reads [word 0x117 1 2 3 5 0 0] (.vsel k0 1 (v 2) (v 3) 5) &&
      reads [word 0x118 4 2 3 0 0 0xB] (.vcmp k0 .le true 4 (v 2) (v 3))) = true := by decide

/-- Table 12-4: mod [0] format, [2:1] rounding, [8] .rc. -/
theorem test_decode_float :
    (reads [word 0x200 2 4 6 0 0 0x103] (.vfadd k0 .f64 .rz true 2 (v 4) (v 6)) && reads [word 0x201 1 2 3 0 0 4] (.vfsub k0 .f32 .rup 1 (v 2) (v 3)) &&
      reads [word 0x202 1 2 3 0 0 6] (.vfmul k0 .f32 .rdn false 1 (v 2) (v 3)) && reads [word 0x203 1 2 3 4 0 0x30] (.vfma k0 .f32 .rne true true false 1 (v 2) (v 3) (v 4)) &&
      reads [word 0x204 1 2 3 0 0 0] (.vfmin k0 .f32 1 (v 2) (v 3)) && reads [word 0x205 2 4 6 0 0 1] (.vfmax k0 .f64 2 (v 4) (v 6)) &&
      reads [word 0x206 3 2 3 0 0 0x60] (.vfcmp k0 .f32 .un 3 (v 2) (v 3)) && reads [word 0x207 1 2 0 0 0 2] (.vrcp k0 .rz 1 (v 2)) && reads [word 0x208 1 2 0 0 0 0] (.vrsq k0 .rne 1 (v 2)) &&
      reads [word 0x209 2 4 0 0 0 1] (.vsqrt k0 .f64 .rne 2 (v 4)) && reads [word 0x20A 1 2 0 0 0 0] (.vexp2 k0 1 (v 2)) && reads [word 0x20B 1 2 0 0 0 0] (.vlog2 k0 1 (v 2)) &&
      reads [word 0x20C 1 2 0 0 0 0] (.vsin k0 1 (v 2)) && reads [word 0x20D 1 2 0 0 0 0] (.vcos k0 1 (v 2)) && reads [word 0x20E 2 4 7 0 0 1] (.vldexp k0 .f64 .rne 2 (v 4) (v 7))) = true := by
  decide

/-- Tables 11-6 and 11-8, R253, R254. -/
theorem test_decode_conversion :
    (reads [word 0x280 1 2 0 1 0 0x026] (.vcvt k0 .sint8 .f16 .rz false 1 ⟨2, false⟩) && reads [word 0x281 1 2 3 2 0 0x104] (.vpack k0 (.h2 true .rup true 1 ⟨2, false⟩ ⟨3, false⟩)) &&
      reads [word 0x281 1 4 0 0 0 0x9] (.vpack k0 (.b4 .sint8 .rne false 1 ⟨4, false⟩)) && reads [word 0x281 1 2 (384 + 3) 0 0 0x16] (.vpack k0 (.blk .rne false 1 3 ⟨2, false⟩ 5)) &&
      reads [word 0x282 4 2 0 0 0 0x4] (.vunpk k0 (.h2 true 4 ⟨2, false⟩)) && reads [word 0x282 4 2 0 0 0 0x5] (.vunpk k0 (.b4 .e5m2 4 ⟨2, false⟩)) &&
      reads [word 0x282 1 2 (384 + 3) 0 0 0x0E] (.vunpk k0 (.blk 1 ⟨2, false⟩ 3 3)) && reads [word 0x283 2 4 0 3 0 1] (.vrnd k0 .f64 .rdn 2 ⟨4, false⟩) &&
      reads [word 0x284 1 2 0 0 0 4] (.vclass k0 .e4m3 1 ⟨2, false⟩)) = true := by decide

/-- Table 10-7, lane exchange and predicates. -/
theorem test_decode_lanes :
    (reads [word 0x2C0 (384 + 1) 2 0 0 0 63] (.v2s k0 (.imm 63) 1 ⟨2, false⟩) && reads [word 0x2C1 1 (384 + 2) (384 + 3) 0 0 0x40] (.s2v k0 (.reg 3 0) 1 2) &&
      reads [word 0x2C2 1 2 0 0 0 0x80] (.vlane k0 .first 1 ⟨2, false⟩) && reads [word 0x2C3 1 2 3 0 0 0xC0] (.vshfl k0 (.idx ⟨3, false⟩) .w8 1 ⟨2, false⟩) &&
      reads [word 0x2C3 1 2 (384 + 5) 0 0 0x42] (.vshfl k0 (.by .up (.reg 5)) .w2 1 ⟨2, false⟩) && reads [word 0x2C4 1 2 0 9 0 0x144] (.vrot k0 .w32 1 ⟨2, false⟩ (.imm 9)) &&
      reads [word 0x2C5 (384 + 2) 3 0 0 0 0] (.vballot k0 2 3) && reads [word 0x2C6 (384 + 2) 3 0 0 0 10] (.vredu k0 .fmin .w64 (.s 2) ⟨3, false⟩) &&
      reads [word 0x2C7 2 3 0 0 0 0x111] (.vscan k0 .add true .w16 2 ⟨3, false⟩) && reads [word 0x2C8 1 2 3 0 0 1] (.pand k0 true false 1 2 3) && reads [word 0x2C9 1 2 3 0 0 2] (.por k0 false true 1 2 3) &&
      reads [word 0x2CA 1 2 3 0 0 3] (.pxor k0 true true 1 2 3) && reads [word 0x2CB 1 2 0 0 0 0] (.pnot k0 1 2) && reads [word 0x2CC 1 (384 + 2) 0 0 0 1] (.pmov k0 (.ps 1 2)) &&
      reads [word 0x2CC 7 2 0 0 0 4] (.pmov k0 (.vp 7 2)) && reads [word 0x2CD (384 + 7) 2 0 0 0 0] (.pcnt k0 (.count 7 2))) = true := by decide

/-- Tables 7-3 and 6-3, R141. -/
theorem test_decode_memory :
    (reads [word 0x300 (384 + 20) 2 0 0 0 0x57, ext 0xFFFFFFFF] (.ld k0 .x2 true .na (.s 20) 2 (.imm 0xFFFFFFFF)) && reads [word 0x301 0 2 (384 + 8) 30 0 0xA2] (.st k0 .x1 false true .ev 2 (.s 8) (v 30)) &&
      reads [word 0x302 9 2 8 30 0 0x65] (.atom k0 .cas (some (.v 9)) 2 (.v ⟨8, false⟩) (v 30)) && reads [word 0x303 0 2 30 0 0 4] (.atomf k0 .add none 2 .none (v 30)) &&
      reads [word 0x304 4 2 (384 + 30) 0 0 0xB, ext 1000, ext 3] (.waita k0 .ge 4 2 (.imm 3) 30 1000) && reads [word 0x305 0 2 0 0 0 0x14] (.pref k0 .cl true 2 .none) &&
      reads [word 0x306 0 2 0 0 0 0xA] (.cmo k0 .inv .rdc 2) && reads [word 0x307 (384 + 3) 2 (384 + 4) 0 0 0] (.locq k0 3 2 4)) = true := by decide

/-- Table 5-5, R112. -/
theorem test_decode_pointers :
    (reads [word 0x310 1 (384 + 8) 0 0 0 0] (.pmake k0 1 8) && reads [word 0x311 1 2 (384 + 4) (384 + 6) 0 0] (.psub k0 1 2 (.reg 4 6)) &&
      reads [word 0x312 1 2 0 0 0 1, ext 0x7FFFFFFFFF] (.padv k0 1 2 (.imm 0x7FFFFFFFFF)) && reads [word 0x313 (384 + 4) 2 0 0 0 4] (.pget k0 .attr 4 2) &&
      reads [word 0x314 1 2 0 0 0 0, ext 0x20] (.psetf k0 1 2 (.code 0x20)) && reads [word 0x315 1 2 0 0 0 3] (.pclass k0 .sync 1 2) && reads [word 0x316 3 2 7 0 0 3] (.pchk k0 true .x2 3 2 (v 7)) &&
      reads [word 0x317 1 2 0 0 0 3] (.narrow k0 .die 1 2) && reads [word 0x318 1 2 0 0 0 5] (.widen k0 .pod 1 2)) = true := by decide

/-- Table 8-2, R188, R194. -/
theorem test_decode_copies :
    (reads [word 0x340 3 2 (384 + 20) 4 0 0x7B, ext (5 + 48 * 2 ^ 5)] (.cpySt k0 ⟨3, true, 3, 2, 20, 4, some ⟨5, 48, true⟩⟩) &&
      reads [word 0x340 3 2 (384 + 20) 4 0 0] (.cpyLd k0 ⟨0, false, 3, 2, 20, 4, none⟩) && reads [word 0x341 3 2 (384 + 20) 4 0 0xC0] (.cpyrd k0 .max ⟨0, false, 3, 2, 20, 4, none⟩) &&
      reads [word 0x342 1 2 (384 + 5) 0 0 0] (.ctest k0 1 2 .none 5) && reads [word 0x343 1 2 (384 + 6) (384 + 5) 0 2, ext 9] (.cwait k0 1 2 (.s 6) 5 9) &&
      reads [word 0x344 1 2 (384 + 4) 0 0 2] (.enq k0 .w4 1 2 4) && reads [word 0x345 (384 + 4) 2 0 0 0 1] (.deq k0 .w2 4 2)) = true := by decide

/-- Tables 13-2 and 13-3. -/
theorem test_decode_matrix :
    (reads [word 0x380 2 4 8 40 0 0x0C9, ext (5 + 3 * 2 ^ 8 + 32 * 2 ^ 16), ext (7 + 12 * 2 ^ 32 + 13 * 2 ^ 39)]
        (.mloop k0 ⟨2, .ptr 4 1 (some (v 40)), 1, 8, true, 5, 3, 32, 7, 12, 13⟩) &&
      reads [word 0x380 2 4 8 0 0 0x118, ext 0, ext 0] (.mloop k0 ⟨2, .tile 4, 3, 8, false, 0, 0, 0, 0, 0, 0⟩) && reads [word 0x381 15 0 0 0 0 0] (.mzero k0 15) &&
      reads [word 0x382 3 4 (384 + 5) (384 + 6) 0 0] (.mload k0 3 4 5 6) && reads [word 0x383 16 3 0 0 0 0] (.mdrainReg k0 16 3) &&
      reads [word 0x383 4 3 (384 + 5) (384 + 6) 0 0x75] (.mdrainMem k0 5 .rz true 4 3 5 6) && reads [word 0x383 0 3 (384 + 6) 0 0 2] (.mdrainAdd k0 3 6) &&
      reads [word 0x384 1 2 3 (384 + 4) 0 0] (.tadd k0 1 2 3 4) && reads [word 0x385 1 2 0 (384 + 4) 0 0] (.tscale k0 1 2 4) && reads [word 0x386 (384 + 1) 2 0 0 0 0] (.mstat k0 1 2)) = true := by
  decide

/-- Tables 14-3 and 15-1. -/
theorem test_decode_adapters :
    (reads [word 0x390 0 (384 + 1) 0 0 0 0] (.aflush k0 (.id 1)) && reads [word 0x390 0 0 0 0 0 1] (.aflush k0 .all) && reads [word 0x391 0 (384 + 1) (384 + 2) 0 0 0x1FE] (.apref k0 (.a 1 2 255)) &&
      reads [word 0x391 0 (384 + 1) (384 + 2) 0 0 1] (.apref k0 (.b 1 2)) && reads [word 0x392 (384 + 3) (384 + 1) 0 0 0 0] (.astat k0 (.id 3 1)) &&
      reads [word 0x398 5 0 0 0 0 15] (.mpub k0 5 15) && reads [word 0x399 0 0 0 0 0 1] (.settle k0 .all) && reads [word 0x39A (384 + 3) 4 0 0 0 0] (.linq k0 3 4)) = true := by decide

/-- R360, Tables 16-5 and 20-6. -/
theorem test_decode_fabric :
    (reads [word 0x3C0 5 4 (384 + 8) 0 0 0x13A] (.coll k0 .max 9 2 5 4 8) && reads [word 0x3C1 (384 + 3) (384 + 4) 0 0 0 0xA] (.nbr k0 2 true 3 (.reg 4)) && reads [word 0x3C2 (384 + 3) 0 0 0 0 6] (.rank k0 (.coord 2) 3) &&
      reads [word 0x3C8 0 0 0 0 0 0] (.bar k0) && reads [word 0x3C9 0 0 0 0 0 0] (.cbar k0) && reads [word 0x3CA (384 + 3) 4 0 0 0 6] (.spawn k0 3 6 4) && reads [word 0x3CB (384 + 3) 0 0 0 0 0] (.cjoin k0 3) &&
      reads [word 0x3CC 0 0 0 0 0 1, ext 500] (.sleep k0 (.imm 500)) && reads [word 0x3CC 0 (384 + 4) 0 0 0 0] (.sleep k0 (.reg 4)) && reads [word 0x3CD 0 0 0 0 0 0] (.yield k0)) = true := by decide

/-- Tables 23-4 and 26-4, R454. -/
theorem test_decode_system :
    (reads [word 0x3E0 0 0 0 0 0 0, ext 0xBEEF] (.trap k0 0xBEEF) && reads [word 0x3E1 0 0 0 0 0 0] (.eret k0) && reads [word 0x3E2 0 0 0 0 0 0, ext 1] (.bkpt k0 1) &&
      reads [word 0x3E3 7 0 0 0 0 0] (.sread k0 0 (.v 7)) && reads [word 0x3E4 0 (384 + 7) 0 0 0 0x013] (.swrite k0 0x013 7) && reads [word 0x3E8 0 7 0 0 0 1, ext 3] (.mark k0 3 (v 7)) &&
      reads [word 0x3E9 (384 + 4) 0 0 0 0 0] (.clk k0 (.s 4)) && reads [word 0x3F0 (384 + 4) 0 0 0 0 0] (.ckpt k0 4)) = true := by decide

/-- The host's numbering of a word with an extension word (Table 18-1's SIMM form): the second word's bits count on. -/
theorem test_decode_table_word : decodeTableWord 128 (word 0x041 (384 + 7) 0 0 0 0 0 + ext 0x00060200 * 2 ^ 64) = some (.simm k0 7 0x60200) := by decide

/-- Table 3-4 and Table 3-6: the clause header and the prefix of the kernel of 02. -/
theorem test_decode_header : decodeHeader 3 0xC200200000000000 = some { count := 2, wait := 2, flagA := none, flagB := none, yld := false } ∧
    decodeHeader 3 0xC000000000000000 = none ∧ decodePblk 0x8880800000000000 = some { p := 1, inv := false, len := 2, pattern := 1 } := by decide


/-! ### Ill-formed terms: one for each check, which the check refuses -/

/-- An instruction that the checks refuse. -/
def ill (i : Instr) : Bool := !i.wellFormed

/-- R54: fsel set in an instruction that sets no flag. -/
theorem test_ill_fsel : (ill (.vadd ⟨0, true⟩ .wrap 1 (v 2) (v 3)) && ill (.vfmul ⟨0, true⟩ .f32 .rne false 1 (v 2) (v 3))) = true := by decide

/-- R45 and R279: even pairs of uniform registers, and the pairs of VMOV.x2 and SMOV.x2. -/
theorem test_ill_scalar_pairs :
    (ill (.smov k0 true 1 2) && ill (.smov k0 true 2 3) && ill (.vmov k0 true 1 (v 2)) && ill (.sadd k0 .wrap true 1 2 4) &&
      ill (.ssub k0 .sats true 2 3 4) && ill (.sand k0 true 2 4 5) && ill (.sor k0 true 3 4 6) && ill (.sxor k0 true 2 5 6) &&
      ill (.smin k0 true true 1 2 4) && ill (.smax k0 false true 2 4 7) && ill (.sdivu k0 true true 2 5 6) && ill (.snot k0 true 2 3) &&
      ill (.sshl k0 true 1 2 3) && ill (.sshr k0 true 2 5 3) && ill (.ssar k0 true 2 7 3) && ill (.scmp k0 .lt false true (.p 0) 1 2) &&
      ill (.ssel k0 true 2 4 5 1)) = true := by decide

/-- R45 and R245: float64 operands are even pairs. -/
theorem test_ill_float_pairs :
    (ill (.vfadd k0 .f64 .rne false 1 (v 2) (v 4)) && ill (.vfmul k0 .f64 .rne false 2 (v 3) (v 4)) && ill (.vfsub k0 .f64 .rne 2 (v 4) (v 5)) &&
      ill (.vfma k0 .f64 .rne false false false 2 (v 4) (v 6) (v 9)) && ill (.vfmin k0 .f64 3 (v 4) (v 6)) && ill (.vfmax k0 .f64 2 (v 5) (v 6)) &&
      ill (.vfcmp k0 .f64 .lt 0 (v 4) (v 7)) && ill (.vsqrt k0 .f64 .rne 2 (v 3)) && ill (.vldexp k0 .f64 .rne 3 (v 4) (v 1)) &&
      ill (.vrnd k0 .f64 .rne 3 ⟨4, false⟩) && ill (.vclass k0 .f64 1 ⟨3, false⟩)) = true := by decide

/-- R245 to R254: conversions. -/
theorem test_ill_conversions :
    (ill (.vcvt k0 .f64 .f32 .rne false 1 ⟨2, false⟩) && ill (.vcvt k0 .f32 .sint64 .rne false 1 ⟨3, false⟩) &&
      ill (.vcvt k0 .sint32 .f32 .rne true 1 ⟨2, false⟩) && ill (.vcvt k0 .sint8 .uint32 .rz false 1 ⟨2, false⟩) &&
      ill (.vpack k0 (.b4 .e4m3 .rne false 1 ⟨381, false⟩)) && ill (.vpack k0 (.b4 .uint8 .rz false 1 ⟨4, false⟩)) &&
      ill (.vunpk k0 (.h2 false 383 ⟨2, false⟩)) && ill (.vunpk k0 (.b4 .sint8 381 ⟨2, false⟩))) = true := by decide

/-- R45 and R231: the pairs and widths of the lane instructions. -/
theorem test_ill_lanes :
    (ill (.vballot k0 1 3) && ill (.vredu k0 .add .w32 (.s 2) ⟨3, false⟩) && ill (.pmov k0 (.ps 1 3)) && ill (.pmov k0 (.sp 3 1))) = true := by decide

/-- R154, R157: memory operands. -/
theorem test_ill_memory :
    (ill (.ld k0 .x1 false .none (.s 2) 2 (.v ⟨3, false⟩)) && ill (.st k0 .x1 true true .none 2 .none (v 3)) &&
      ill (.atom k0 .add (some (.s 1)) 2 (.v ⟨3, false⟩) (v 4)) && ill (.atomf k0 .max (some (.s 1)) 2 (.v ⟨3, false⟩) (v 4)) &&
      ill (.waita k0 .eq 1 2 (.v ⟨3, false⟩) 4 9) && ill (.waita k0 .nem 1 2 .none 5 9) && ill (.pref k0 .cl true 2 (.imm 4)) &&
      ill (.ctest k0 1 2 (.v ⟨3, false⟩) 4) && ill (.cwait k0 1 2 (.v ⟨3, false⟩) 4 9) && ill (.enq k0 .w4 1 2 125) && ill (.deq k0 .w2 127 2)) = true := by decide

/-- R104, R105: pointer operands. -/
theorem test_ill_pointers :
    (ill (.pmake k0 1 6) && ill (.psub k0 1 2 (.reg 4 7)) && ill (.padv k0 1 2 (.reg 5)) && ill (.pget k0 .quad 6 2) && ill (.pget k0 .base 5 2) &&
      ill (.pget k0 .len 7 2) && ill (.psetf k0 1 2 (.code 0x0E)) && ill (.psetf k0 1 2 (.code 0x19))) = true := by decide

/-- R292, R299, the tile form's chain, and the pairs and runs of the tile instructions. -/
theorem test_ill_matrix :
    (ill (.mloop k0 ⟨2, .ptr 4 1 none, 1, 8, false, 5, 6, 0, 0, 12, 13⟩) && ill (.mloop k0 ⟨2, .tile 4, 1, 8, false, 8, 0, 0, 0, 0, 0⟩) &&
      ill (.mloop k0 ⟨2, .tile 4, 1, 8, false, 0, 0, 16, 0, 0, 0⟩) && ill (.mloop k0 ⟨2, .tile 4, 1, 8, false, 0, 0, 0, 16, 0, 0⟩) &&
      ill (.mloop k0 ⟨2, .tile 15, 1, 8, false, 0, 0, 0, 0, 0, 0⟩) && ill (.mloop k0 ⟨5, .tile 4, 1, 8, false, 0, 0, 0, 0, 0, 0⟩) &&
      ill (.mdrainReg k0 369 3) && ill (.mdrainAdd k0 3 7) && ill (.tadd k0 1 2 3 5)) = true := by decide

/-- R427, R428: system registers. -/
theorem test_ill_system :
    (ill (.sread k0 0 (.s 7)) && ill (.sread k0 0x00E (.v 7)) && ill (.sread k0 0x012 (.s 6)) && ill (.sread k0 0x030 (.s 6)) &&
      ill (.swrite k0 0x002 6) && ill (.swrite k0 0x025 7) && ill (.clk k0 (.s 5))) = true := by decide

/-! ### States that meet the hypotheses of the statements -/

/-- What the fragment of a test executes. -/
def cur0 : Cur := { g := ⟨⟨1, 0⟩, 0⟩, f := 0, act := allLanes, pc := 72, npc := 80, word := 0, exts := [], covered := false, flagA := some 0, flagB := some 1, after := 576 }

/-- A state: one group of a launch on core 0, whose fragment executes an instruction. -/
def st (g : Group) (l : Launch := fetchLaunch) (c : Cur := cur0) : State :=
  { groups := [g], blocks := [{ ref := ⟨1, 0⟩, cores := [0] }], launches := [l], vifs := [(0, { accept := some 8191 })], cur := some c }

theorem st_group {g : Group} {l : Launch} {c : Cur} (h : g.ref = ⟨⟨1, 0⟩, 0⟩) : (st g l c).group? ⟨⟨1, 0⟩, 0⟩ = some g := by
  simp [st, State.group?, h]

theorem st_launch {g : Group} {l : Launch} {c : Cur} (h : l.id = 1) : (st g l c).launch? 1 = some l := by simp [st, State.launch?, h]

/-- The instruction issues in a state, in a context of which P holds. -/
def meets (s : State) (i : Instr) (P : Ctx → Bool := fun _ => true) : Bool :=
  match s.ctx? with
  | some y => decide (y.f.wait = .no) && decide (((y.atIssue i).gate s i) = .go) && !(y.atIssue i).softAhead && P (y.atIssue i)
  | none => false

theorem issues_of {s : State} {i : Instr} {P : Ctx → Bool} (h : meets s i P = true) : ∃ x, Issues s i x ∧ P x = true := by
  unfold meets at h
  split at h
  · rename_i y hy
    simp only [Bool.and_eq_true, decide_eq_true_eq, Bool.not_eq_true'] at h
    exact ⟨y.atIssue i, ⟨⟨y, hy, rfl⟩, h.1.1.1, h.1.1.2, h.1.2⟩, h.2⟩
  · cases h

/-- Every instruction of a list issues. -/
def allMeet (s : State) (is : List Instr) : Bool := is.all (fun i => meets s i)

/-- The instructions of a list issue, each in a context. -/
def Met (s : State) (is : List Instr) : Prop := ∀ i ∈ is, ∃ x, Issues s i x

theorem met_of {s : State} {is : List Instr} (h : allMeet s is = true) : Met s is := fun i hi =>
  let ⟨x, hx⟩ := issues_of (List.all_eq_true.mp h i hi)
  ⟨x, hx.1⟩

/-- A soft error that strikes bit 6 of the first value that lane 2 checks. -/
def strike2 : List (List Strike) := [[{ lane := 2, value := 0, bit := 6 }], []]

/-- A checked instruction, met where its check passes and where it fails in lane 2 (R283, R285). -/
def checkMeets (s : State) (i : Instr) (vals : LaneChecks) : Bool :=
  meets s i (fun x => decide ((x.check (some true) (vals x) s).1 = 0)) &&
    meets { s with strikes := strike2 } i (fun x => decide ((x.check (some true) (vals x) { s with strikes := strike2 }).1 = 4))

/-- A group whose v2 to v8 hold 1.0 as float32 in every lane; v4 and v5, v6 and v7 are float64 numbers too. -/
def onesGroup : Group := { fetchGroup with v := (List.range 7).map (fun k => (2 + k, List.replicate 64 0x3F800000)) }

theorem witness_VectorArithmetic : Met (st fetchGroup) [.vadd k0 .wrap 1 (v 2) (v 3), .vadd k0 .sats 1 (v 2) (.s 3), .vadd k0 .satu 1 (v 2) (v 3),
    .vsub k0 .wrap 1 (v 2) (v 3), .vsub k0 .sats 1 (v 2) (v 3), .vsub k0 .satu 383 (v 0) (v 382), .vaddc k0 true 1 5 (v 2) (v 3) (some 6),
    .vaddc k0 false 1 7 (v 2) (v 3) none, .vmul k0 false 1 (v 2) (v 3), .vmulh k0 true 1 (v 2) (v 3), .vmulh k0 false 1 (v 2) (v 3), .vmad k0 true 1 (v 2) (v 3) (v 4)] :=
  met_of (by decide)

theorem witness_checked :
    (checkMeets (st fetchGroup) (.vmul k0 true 1 (v 2) (v 3)) (vmulVals (v 2) (v 3)) &&
      checkMeets (st fetchGroup) (.vmad k0 true 1 (v 2) (v 3) (v 4)) (vmadVals (v 2) (v 3) (v 4)) &&
      checkMeets (st onesGroup) (.vfadd k0 .f32 .rne true 1 (v 2) (v 3)) (addVals .f32 (v 2) (v 3)) &&
      checkMeets (st onesGroup) (.vfmul k0 .f32 .rne true 1 (v 2) (v 3)) (mulVals .f32 (v 2) (v 3)) &&
      checkMeets (st onesGroup) (.vfma k0 .f64 .rz true true true 2 (v 4) (v 6) (v 8)) (fmaVals .f64 true true (v 4) (v 6) (v 8))) = true := by
  decide +kernel

/-- R284: an operation on zeros takes no check, so that a strike in it fails none. -/
theorem test_zero_unchecked : meets { st fetchGroup with strikes := strike2 } (.vfadd k0 .f32 .rne true 1 (v 2) (v 3))
    (fun x => decide ((x.check (some true) (addVals .f32 (v 2) (v 3) x) { st fetchGroup with strikes := strike2 }).1 = 0)) = true := by decide

theorem witness_VectorBits : Met (st fetchGroup) [.vand k0 1 (v 2) (v 3), .vor k0 1 (v 2) (v 3), .vxor k0 1 (v 2) (v 3), .vnot k0 1 (v 2), .vshl k0 1 (v 2) (v 3),
    .vshr k0 1 (v 2) (.s 127), .vsar k0 1 (v 2) (v 3), .vbfe k0 true 1 (v 2) (v 3), .vbfe k0 false 1 (v 2) (v 3), .vbfi k0 1 (v 2) (v 3) (v 4)] := met_of (by decide)

theorem witness_VectorSelection : Met (st fetchGroup) [.vmin k0 false 1 (v 2) (v 3), .vmin k0 true 1 (v 2) (v 3), .vmax k0 false 1 (v 2) (v 3), .vmax k0 true 1 (v 2) (v 3),
    .vneg k0 true 1 (v 2), .vabs k0 false 1 (v 2), .vclz k0 1 (v 2), .vpopc k0 1 (v 2), .vsel k0 1 (v 2) (v 3) 0, .vcmp k0 .ge true 7 (v 2) (v 3), .vcmp k0 .lt false 1 (v 2) (v 3),
    .vmov k0 false 1 (v 2), .vmov k0 true 382 (.s 126), .vimm k0 0 0xFFFFFFFF] := met_of (by decide)

theorem witness_ScalarOperations : Met (st fetchGroup) [.sadd k0 .wrap true 2 4 6, .sadd k0 .satu false 1 2 3, .sadd k0 .sats true 126 4 6, .ssub k0 .wrap false 1 2 3,
    .ssub k0 .satu true 2 4 6, .ssub k0 .sats false 127 2 3, .smul k0 1 2 3, .smulh k0 true 1 2 3, .smulh k0 false 1 2 3, .smad k0 1 2 3 4, .smov k0 true 2 4, .smov k0 false 1 3,
    .simm k0 1 7, .sand k0 true 2 4 6, .sor k0 false 1 2 3, .sxor k0 true 2 4 6, .snot k0 false 1 2, .sshl k0 true 2 4 7, .sshr k0 false 1 2 3, .ssar k0 true 2 4 5] :=
  met_of (by decide)

theorem witness_ScalarSelectAndDivide : Met (st fetchGroup) [.smin k0 true true 2 4 6, .smax k0 false false 1 2 3, .scmp k0 .eq false true (.s 1) 2 4,
    .scmp k0 .ge true false (.p 0) 2 3, .ssel k0 true 2 4 6 1, .sdivu k0 false true 2 4 6, .sdivu k0 true false 1 2 3] := met_of (by decide)

/-- No lane raises an enabled exception, and one does: every lane divides by 0 where FPE is enabled for it. -/
theorem witness_FloatArithmetic :
    Met (st fetchGroup) [.vfadd k0 .f32 .rne false 1 (v 2) (v 3), .vfsub k0 .f32 .rz 1 (v 2) (v 3), .vfmul k0 .f32 .rup true 1 (v 2) (v 3),
      .vfma k0 .f32 .rdn true true false 1 (v 2) (v 3) (v 4), .vfmin k0 .f32 1 (v 2) (v 3), .vfmax k0 .f32 1 (v 2) (v 3), .vldexp k0 .f32 .rne 1 (v 2) (v 3),
      .vfcmp k0 .f32 .un 0 (v 2) (v 3), .vfadd k0 .f64 .rne true 2 (v 4) (v 6), .vfsub k0 .f64 .rne 2 (v 4) (v 6), .vfmul k0 .f64 .rne false 2 (v 4) (v 6),
      .vfma k0 .f64 .rne false false true 2 (v 4) (v 6) (v 8), .vfmin k0 .f64 2 (v 4) (v 6), .vfmax k0 .f64 382 (v 4) (v 6), .vldexp k0 .f64 .rne 2 (v 4) (v 7),
      .vfcmp k0 .f64 .num 7 (v 4) (v 6)] ∧
    meets (st fetchGroup) (.vfadd k0 .f32 .rne false 1 (v 2) (v 3)) (fun x =>
      decide (excAll (x.perRow (fun l => fp32.add .rne x.l.flush false (x.u .a (v 2) l) (x.u .b (v 3) l))) &&& x.fpen = 0)) = true ∧
    meets (st { fetchGroup with v := [(2, List.replicate 64 0x7F800000), (3, List.replicate 64 0xFF800000)] } { fetchLaunch with fpen := 1 })
      (.vfadd k0 .f32 .rne false 1 (v 2) (v 3)) (fun x =>
        decide (excAll (x.perRow (fun l => fp32.add .rne x.l.flush false (x.u .a (v 2) l) (x.u .b (v 3) l))) &&& x.fpen ≠ 0)) = true :=
  ⟨met_of (by decide), by decide, by decide⟩

theorem witness_FloatTranscendentals :
    Met (st fetchGroup) [.vrcp k0 .rne 1 (v 2), .vrsq k0 .rz 1 (v 2), .vsqrt k0 .f32 .rup 1 (v 2), .vsqrt k0 .f64 .rdn 2 (v 4), .vexp2 k0 1 (v 2), .vlog2 k0 1 (v 2),
      .vsin k0 1 (v 2), .vcos k0 1 (v 2)] ∧
    meets (st fetchGroup { fetchLaunch with fpen := 2 }) (.vrcp k0 .rne 1 (v 2)) (fun x =>
      decide (excAll (x.perRow (fun l => fp32.rcp .rne x.l.flush (x.u .a (v 2) l))) &&& x.fpen ≠ 0)) = true := ⟨met_of (by decide), by decide⟩

/-- A launch whose slot 5 is a block format with a scale array (R252). -/
def blkLaunch : Launch := { fetchLaunch with slots := List.replicate 8 { fmt := 0x0C, scale := 1, sptr := 0 } }

theorem witness_Conversions :
    Met (st fetchGroup) [.vcvt k0 .sint64 .f64 .rz false 2 ⟨4, false⟩, .vcvt k0 .e4m3 .f32 .rne true 1 ⟨2, false⟩, .vpack k0 (.h2 true .rup true 1 ⟨2, false⟩ ⟨3, false⟩),
      .vpack k0 (.b4 .uint8 .rne false 1 ⟨380, false⟩), .vunpk k0 (.h2 false 382 ⟨2, false⟩), .vunpk k0 (.b4 .e5m2 380 ⟨2, false⟩), .vrnd k0 .f32 .rdn 1 ⟨2, false⟩,
      .vrnd k0 .f64 .rne 2 ⟨4, false⟩, .vclass k0 .f64 1 ⟨2, false⟩, .vclass k0 .e5m2 1 ⟨3, false⟩] ∧
    Met (st fetchGroup blkLaunch) [.vpack k0 (.blk .rne false 1 3 ⟨2, false⟩ 5), .vunpk k0 (.blk 1 ⟨2, false⟩ 3 7)] := ⟨met_of (by decide), met_of (by decide)⟩

theorem witness_LaneExchange : Met (st fetchGroup) [.v2s k0 (.imm 63) 1 ⟨2, false⟩, .v2s k0 (.reg 5 0) 1 ⟨2, false⟩, .s2v k0 .first 1 2, .vlane k0 (.imm 0) 1 ⟨2, false⟩,
    .vshfl k0 (.idx ⟨3, false⟩) .w8 1 ⟨2, false⟩, .vshfl k0 (.by .xor (.imm 63)) .w64 1 ⟨2, false⟩, .vshfl k0 (.by .up (.reg 5)) .w2 1 ⟨2, false⟩,
    .vshfl k0 (.by .down (.imm 1)) .w32 1 ⟨2, false⟩, .vrot k0 .w16 1 ⟨2, false⟩ (.imm 9), .vballot k0 2 3] := met_of (by decide)

theorem witness_LaneReductions : Met (st fetchGroup) [.vredu k0 .add .w2 (.v 1) ⟨2, false⟩, .vredu k0 .fmin .w64 (.s 2) ⟨3, false⟩, .vscan k0 .xor true .w16 2 ⟨3, false⟩,
    .vscan k0 .fadd false .w64 2 ⟨3, false⟩, .vredu k0 .fadd .w64 (.s 2) ⟨3, false⟩, .vredu k0 .fadd .w4 (.v 2) ⟨3, false⟩] := met_of (by decide)

theorem witness_PredicateInstructions : Met (st fetchGroup) [.pand k0 true false 1 2 3, .por k0 false true 1 2 3, .pxor k0 true true 0 7 3, .pnot k0 1 2, .pmov k0 (.pp 1 2),
    .pmov k0 (.ps 1 2), .pmov k0 (.sp 2 1), .pmov k0 (.pv 1 ⟨3, false⟩), .pmov k0 (.vp 3 1), .pcnt k0 (.count 7 2), .pcnt k0 (.below 7 2)] := met_of (by decide)

/-- A group whose registers are not all at reset. -/
def someGroup : Group := { fetchGroup with s := [(1, 7), (5, 9)], a := [(2, 1)], p := [(3, 5)], threads := List.replicate 63 (some 4) ++ [none] }

theorem witness_RegisterWrites : sortedKeys someGroup.s = true ∧ sortedKeys someGroup.a = true ∧ sortedKeys someGroup.p = true ∧ someGroup.threads.getD 63 none = none := by
  decide

theorem witness_FixedLatencyReads : someGroup.young = [] ∧ someGroup.pend = [] ∧ sortedKeys someGroup.s = true := by decide

/-- An operation under way that has finished. -/
def done0 : Pend := { entry := { seq := 3, word := 0, exts := [], lanes := 1, ops := {}, flag := some 2, tpc := 72 }, frag := allLanes, res := [.s 4 8], raced := [0] }

/-- Its group and its fragment. -/
def doneFrag : Frag := { lanes := allLanes, pc := 72 }
def doneGroup : Group := { fetchGroup with frags := [doneFrag], pend := [done0], flags := [(2, 1)] }

theorem witness_FlagCompletionWrites : (st doneGroup).group? ⟨⟨1, 0⟩, 0⟩ = some doneGroup ∧ doneGroup.op? 3 = some done0 ∧ done0.doing = .ready ∧
    done0.trap = none ∧ done0.watch = none ∧ (∀ m ∈ done0.raced, m = 0) ∧ doneGroup.frags.find? (fun f => doneGroup.owns f done0) = some doneFrag ∧
    doneGroup.retired = false := ⟨st_group rfl, by rfl, by rfl, by rfl, by rfl, by simp [done0], by rfl, by rfl⟩

/-! ### Control flow -/

theorem meets_prop {s : State} {i : Instr} {P : Ctx → Prop} [DecidablePred P] (h : meets s i (fun x => decide (P x)) = true) :
    ∃ x, Issues s i x ∧ P x :=
  let ⟨x, hx, hp⟩ := issues_of h
  ⟨x, hx, of_decide_eq_true hp⟩

/-- `Apart`, as a test. -/
def apartB (x : Ctx) : Bool :=
  x.g.frags.all (fun f => decide (f = x.f) || decide (f.lanes &&& x.f.lanes = 0)) && decide (x.act &&& ~~~x.f.lanes = 0) && x.c.inj.isNone

theorem apart_of {x : Ctx} (h : apartB x = true) : Apart x := by
  simp only [apartB, Bool.and_eq_true, List.all_eq_true, Bool.or_eq_true, decide_eq_true_eq, Option.isNone_iff_eq_none] at h
  exact ⟨h.1.1, h.1.2, h.2⟩

theorem meets_apart {s : State} {i : Instr} {P : Ctx → Prop} [DecidablePred P] (h : meets s i (fun x => apartB x && decide (P x)) = true) :
    ∃ x, Issues s i x ∧ Apart x ∧ P x :=
  let ⟨x, hx, hp⟩ := issues_of h
  ⟨x, hx, apart_of (Bool.and_eq_true_iff.mp hp).1, of_decide_eq_true (Bool.and_eq_true_iff.mp hp).2⟩

/-- The first line of a kernel's image: a clause header at offset 64 (Table 3-4) and NOPs from offset 72 on. -/
def line0 : ILine := { core := 0, vif := 0, ctx := 0, line := 0, bytes := List.replicate 64 0 ++ leBytes 8 0xFE00000000000000 ++ (List.range 7).flatMap (fun _ => leBytes 8 0x0010000000000000) }

/-- A state whose core holds that line. -/
def stc (g : Group) (l : Launch := fetchLaunch) (c : Cur := cur0) : State := { st g l c with ilines := [line0] }

/-- A group whose v5 and lk hold 64 in every lane, and whose s5 holds it too. -/
def at64 : Group := { fetchGroup with v := [(5, List.replicate 64 64), (383, List.replicate 64 64)], s := [(5, 64)] }

/-- The branch passes its check. -/
abbrev goesTo (s : State) (x : Ctx) (take : Lanes) (to_ : Nat → Nat) : Prop :=
  mkLanes (fun l => take.getLsbD l && (targetCheck s x take to_).1.1.contains (to_ l)) = 0 ∧ (targetCheck s x take to_).1.2 = []

/-- The word at 80 is no header: the branch fails its check in every lane that takes it. -/
theorem witness_Branching :
    Met (stc at64) [.nop k0] ∧
    (∃ x, Issues (stc at64) (.bra k0 64) x ∧ Apart x ∧ goesTo (stc at64) x x.act (fun _ => 64)) ∧
    (∃ x, Issues (stc at64) (.bra k0 80) x ∧ Apart x ∧ (targetCheck (stc at64) x x.act (fun _ => 80)).1.1 = [80]) ∧
    (∃ x, Issues (stc at64) (.brc k0 true 6 64) x ∧ Apart x ∧ goesTo (stc at64) x x.act (fun _ => 64)) ∧
    (∃ x, Issues (stc at64) (.brx k0 (.s 5)) x ∧ Apart x ∧ goesTo (stc at64) x x.act (fun _ => 64)) ∧
    (∃ x, Issues (stc at64) (.call k0 64) x ∧ Apart x ∧ goesTo (stc at64) x x.act (fun _ => 64)) ∧
    (∃ x, Issues (stc at64) (.callx k0 (v 5)) x ∧ Apart x ∧ goesTo (stc at64) x x.act (fun l => (x.src .a (v 5) 0 l).toNat)) := by
  refine ⟨met_of (by decide), meets_apart ?_, meets_apart ?_, meets_apart ?_, meets_apart ?_, meets_apart ?_, meets_apart ?_⟩ <;> decide

/-- A branch whose target's word has no page, one whose line is poison, and one whose page is in host memory. -/
def hostCode : State := { st at64 with
  tlbs := [{ unit := .l1 0, vif := 0, ctx := 0, level := 1, va := 0, entry := 2 ^ 63 + 2 ^ 61 + 2 ^ 57 + 2 ^ 8 + 2 ^ 7 }] }
theorem witness_Branching_fetch :
    (∃ x, Issues (st at64) (.bra k0 64) x ∧ Apart x ∧ ((targetCheck (st at64) x x.act (fun _ => 64)).1.1 = [] ∧
      (targetCheck (st at64) x x.act (fun _ => 64)).1.2.any (fun y => match y.2 with | .fault _ _ => true | _ => false) = true)) ∧
    (∃ x, Issues { stc at64 with ilines := [{ line0 with poison := [2] }] } (.bra k0 64) x ∧ Apart x ∧
      (targetCheck { stc at64 with ilines := [{ line0 with poison := [2] }] } x x.act (fun _ => 64)).1.2.any (fun y => y.2.isPoison) = true) ∧
    (∃ x, Issues hostCode (.bra k0 64) x ∧ Apart x ∧ (targetCheck hostCode x x.act (fun _ => 64)).1.2.any (fun y => y.2.isRefused) = true) := by
  refine ⟨meets_apart ?_, meets_apart ?_, meets_apart ?_⟩ <;> decide

/-- RET with every link slot at 64, and with every one 0. -/
theorem witness_Branching_ret :
    (∃ x, Issues (stc at64) (.ret k0) x ∧ Apart x ∧ mkLanes (fun l => x.act.getLsbD l && (x.v .a 383 0 l).toNat == 0) = 0 ∧
      (targetCheck (stc at64) x x.act (fun l => (x.v .a 383 0 l).toNat)).1 = ([], [])) ∧
    (∃ x, Issues (stc fetchGroup) (.ret k0) x ∧ Apart x ∧ mkLanes (fun l => x.act.getLsbD l && (x.v .a 383 0 l).toNat == 0) ≠ 0) := by
  refine ⟨meets_apart ?_, meets_apart ?_⟩ <;> decide

theorem witness_ExitRetiresLanes : ∃ x, Issues (st fetchGroup) (.exit k0) x ∧ x.c.inj = none := meets_prop (by decide)

/-- A group of two fragments: the lanes below 32, which execute, and the others. -/
def halves : Group := { fetchGroup with frags := [{ lanes := 0xFFFFFFFF, pc := 72, clause := some { head := 64, stop := 576, flagA := some 0, flagB := some 1, yld := false } },
  { lanes := 0xFFFFFFFF00000000, pc := 200 }] }

/-- Rejoin register 3 expects every lane; register 4 the lanes that execute, and register 5 has another wait PC. -/
def joined : Group := { halves with j := [(3, { expected := allLanes }), (4, { expected := 0xFFFFFFFF, wpc := some 72 }), (5, { expected := allLanes, wpc := some 80 })] }

/-- The context of the lower half. -/
def curHalf : Cur := { cur0 with act := 0xFFFFFFFF }

/-- Every clause: a JOIN; a JWAIT on a register that is not live; one that must wait; one that goes on; one with another wait PC. -/
theorem witness_RejoinMasks :
    sortedKeys joined.j = true ∧
    (∃ x, Issues (st joined fetchLaunch curHalf) (.join k0 .or 3) x ∧ x.c.inj = none ∧ (x.g.rejoin 3).wpc = none) ∧
    (∃ x, Issues (st joined fetchLaunch curHalf) (.jwait k0 7) x ∧ (x.g.rejoin 7).live = false) ∧
    (∃ x, Issues (st joined fetchLaunch curHalf) (.jwait k0 3) x ∧ (x.g.rejoin 3).live = true ∧ (x.g.rejoin 3).wpc = none ∧
      (x.g.rejoin 3).expected &&& x.g.live &&& ~~~((x.g.rejoin 3).arrived ||| x.f.lanes) ≠ 0 ∧
      (∃ f ∈ x.g.frags, f.lanes.getLsbD x.c.f = false ∧ f.jwaiting = false)) ∧
    (∃ x, Issues (st joined fetchLaunch curHalf) (.jwait k0 4) x ∧ (x.g.rejoin 4).live = true ∧ (x.g.rejoin 4).wpc = some x.c.pc ∧
      (x.g.rejoin 4).expected &&& x.g.live &&& ~~~((x.g.rejoin 4).arrived ||| x.f.lanes) = 0) ∧
    (∃ x, Issues (st joined fetchLaunch curHalf) (.jwait k0 5) x ∧ (x.g.rejoin 5).live = true ∧ (x.g.rejoin 5).wpc ≠ none ∧
      (x.g.rejoin 5).wpc ≠ some x.c.pc) := by
  refine ⟨by decide, meets_prop ?_, meets_prop ?_, meets_prop ?_, meets_prop ?_, meets_prop ?_⟩ <;> decide

theorem witness_GathersWait :
    (∃ x, Issues (stc at64) (.reform k0 (v 5) 0xF) x ∧ x.c.inj = none ∧ x.g.liveMask = 0 ∧
      (targetCheck (stc at64) x x.f.lanes (fun l => (x.src .a (v 5) 0 l).toNat)).1 = ([], [])) ∧
    (∃ x, Issues (st fetchGroup) (.reorder k0 true ⟨3, false⟩ 0x6) x ∧ x.c.inj = none ∧ x.g.liveMask = 0 ∧
      (((st fetchGroup).setGroup x.g).onCore x.c.g.b x.g.core).any (fun g => g.frags.any (fun f => f.reordersElse x.c.pc)) = false) ∧
    (∃ x, Issues (st joined fetchLaunch curHalf) (.reform k0 (v 5) 0xF) x ∧ x.g.liveMask ≠ 0) ∧
    (∃ x, Issues (st joined fetchLaunch curHalf) (.reorder k0 true ⟨3, false⟩ 0x6) x ∧ x.g.liveMask ≠ 0) := by
  refine ⟨meets_prop ?_, meets_prop ?_, meets_prop ?_, meets_prop ?_⟩ <;> decide

/-- A group all of whose threads wait at a REFORM with target 64. -/
def atReform0 : Group := { fetchGroup with frags := [{ lanes := allLanes, pc := 72, wait := .reform (List.replicate 64 64) 1 }] }

/-- A block with a bin of a single thread, whose age limit has passed, and a vacant group. -/
def binBlock : Block := { ref := ⟨1, 0⟩, cores := [0], bins := [{ core := 0, target := 64, threads := [{ thread := 5, from_ := 0, rows := [], preds := 0, lk := 9, mask := 0, at_ := 0 }] }] }
def vacantSt : State := { st { fetchGroup with threads := List.replicate 64 none, frags := [] } with blocks := [binBlock], time := 1000000 }

theorem witness_ReformFilesAndDraws :
    ((st atReform0).group? ⟨⟨1, 0⟩, 0⟩ = some atReform0 ∧ ((st atReform0).block? ⟨1, 0⟩).isSome = true ∧ (st atReform0).reformReady atReform0 = true) ∧
    vacantSt.block? ⟨1, 0⟩ = some binBlock ∧ vacantSt.drawBin binBlock 0 = binBlock.bins.head? ∧ (vacantSt.drawSlot ⟨1, 0⟩ 0).isSome = true :=
  ⟨⟨st_group rfl, by decide, by decide⟩, by rfl, by rfl, by decide⟩

/-- Two groups all of whose threads wait at one REORDER. -/
def atReorder (k : Nat) : Group := { fetchGroup with ref := ⟨⟨1, 0⟩, k⟩, frags := [{ lanes := allLanes, pc := 72, wait := .reorder 72 88 true 9 3 }] }
def reorderSt : State := { st (atReorder 0) with groups := [atReorder 0, atReorder 1] }
theorem witness_ReformFilesAndDraws_reorder :
    (reorderSt.group? ⟨⟨1, 0⟩, 0⟩).any (fun g => !reorderSt.reformReady g && g.core == 0) = true ∧ reorderSt.reorderReady ⟨1, 0⟩ 0 = true ∧
    reorderSt.groups.Pairwise (fun a b => a.ref ≠ b.ref) ∧ (reorderSt.liveOn ⟨1, 0⟩ 0).length = 2 ∧
    (reorderSt.liveOn ⟨1, 0⟩ 0).all (fun h => (List.range 64).all (fun l => (h.frag? l).isSome)) = true := by decide +kernel

/-! ### System registers, waits and traps -/

theorem witness_SystemRegisters : Met (st fetchGroup) [.sread k0 0x002 (.s 1), .sread k0 0x00E (.s 2), .sread k0 0x012 (.s 124), .sread k0 0x025 (.s 126), .sread k0 0x00A (.s 1), .sread k0 0x00B (.s 1),
    .sread k0 0x00C (.v 1), .sread k0 0x010 (.s 1), .sread k0 0x011 (.v 9), .sread k0 0x021 (.s 1), .sread k0 0x024 (.s 1), .sread k0 0x026 (.v 8), .sread k0 0x027 (.s 1), .sread k0 0x028 (.s 1),
    .sread k0 0x000 (.v 7), .sread k0 0x001 (.v 383), .clk k0 (.s 4), .swrite k0 0x010 1, .swrite k0 0x013 1, .swrite k0 0x018 1, .swrite k0 0x019 1, .swrite k0 0x020 1,
    .swrite k0 0x021 1, .swrite k0 0x024 1, .swrite k0 0x025 2, .swrite k0 0x026 2, .swrite k0 0x027 1, .swrite k0 0x028 1] := met_of (by decide)

/-- The largest value that DCTL, a BPC and a WCTL take, and the smallest that they do not. -/
theorem witness_SystemRegisters_swrite :
    (∃ x, Issues (st { fetchGroup with s := [(1, 3)] }) (.swrite k0 0x020 1) x ∧ (x.s .a 1 0).toNat < 4) ∧
    (∃ x, Issues (st { fetchGroup with s := [(1, 4)] }) (.swrite k0 0x020 1) x ∧ ¬(x.s .a 1 0).toNat < 4) ∧
    (∃ x, Issues (st { fetchGroup with s := [(1, 9)] }) (.swrite k0 0x021 1) x ∧ (x.s .a 1 0).toNat / 2 % 4 = 0) ∧
    (∃ x, Issues (st { fetchGroup with s := [(1, 2)] }) (.swrite k0 0x021 1) x ∧ (x.s .a 1 0).toNat / 2 % 4 ≠ 0) ∧
    (∃ x, Issues (st { fetchGroup with s := [(1, 0xFFFF0003)] }) (.swrite k0 0x028 1) x ∧ (x.s .a 1 0).toNat / 4 % 2 ^ 14 = 0) ∧
    (∃ x, Issues (st { fetchGroup with s := [(1, 4)] }) (.swrite k0 0x028 1) x ∧ (x.s .a 1 0).toNat / 4 % 2 ^ 14 ≠ 0) := by
  refine ⟨meets_prop ?_, meets_prop ?_, meets_prop ?_, meets_prop ?_, meets_prop ?_, meets_prop ?_⟩ <;> decide

/-- A state whose ring takes records of kind 1. -/
def ringSt : State := { st fetchGroup with vifs := [(0, { accept := some 8191, ringSlots := 16, ringKinds := 2 })] }

theorem witness_MarkWritesARecord : ∃ x, Issues ringSt (.mark k0 3 (.s 1)) x ∧ (ringSt.vif x.l.vif).ringSlots ≠ 0 ∧ (ringSt.vif x.l.vif).ringKinds.testBit 1 = true :=
  meets_prop (by decide)

/-- A group that sleeps until 100 ns. -/
def sleepFrag : Frag := { lanes := allLanes, pc := 72, wait := .sleep 100 }

theorem witness_SleepAndYield : Met (st fetchGroup) [.sleep k0 (.imm 0), .yield k0, .sleep k0 (.imm 1), .sleep k0 (.reg 5)] ∧
    (st { fetchGroup with frags := [sleepFrag] }).group? ⟨⟨1, 0⟩, 0⟩ = some { fetchGroup with frags := [sleepFrag] } ∧
    ({ fetchGroup with frags := [sleepFrag] } : Group).frag? 63 = some sleepFrag := ⟨met_of (by decide), st_group rfl, by rfl⟩

/-- A second group of the block, and a state with both. -/
def group1 : Group := { fetchGroup with ref := ⟨⟨1, 0⟩, 1⟩ }
def barGroup1 : Group := { group1 with frags := [{ lanes := allLanes, pc := 72, wait := .bar }] }

theorem witness_Barriers :
    (∃ x, Issues { st fetchGroup with groups := [fetchGroup, group1] } (.bar k0) x ∧ x.c.inj = none ∧
      ∃ g ∈ ({ st fetchGroup with groups := [fetchGroup, group1] } : State).groups, g.ref.b = x.c.g.b ∧ g.ref ≠ x.c.g ∧
        g.frags.any (fun f => !f.atBar && !f.atCbar && !f.jwaiting) = true) ∧
    (∃ x, Issues { st fetchGroup with groups := [fetchGroup, group1] } (.cbar k0) x ∧
      ∃ l ∈ ({ st fetchGroup with groups := [fetchGroup, group1] } : State).liveBlocks x.c.g.b.launch, l.ref = x.c.g.b) ∧
    (∃ x, Issues { st fetchGroup with groups := [fetchGroup, barGroup1] } (.bar k0) x ∧
      (∀ g ∈ ({ st fetchGroup with groups := [fetchGroup, barGroup1] } : State).groups, g.ref.b = x.c.g.b → g.ref ≠ x.c.g → g.frags.all Frag.atBar = true) ∧
      (∀ f ∈ x.g.frags, f.lanes.getLsbD x.c.f = true ∨ f.atBar = true) ∧ x.b.saved = [] ∧ x.b.binned = false) ∧
    [fetchGroup, barGroup1].Pairwise (fun g h => g.ref ≠ h.ref) := by
  refine ⟨meets_prop ?_, meets_prop ?_, meets_prop ?_, ?_⟩ <;> decide

/-- A group with a handler at 64, and the trap of a TRAP. -/
def handled : Group := { fetchGroup with thand := 64 }
def handledFrag : Frag := { lanes := allLanes, pc := 72, clause := some { head := 64, stop := 576, flagA := some 0, flagB := some 1, yld := false } }
def trap0 : Trap := { cause := .trapi, lanes := allLanes, tpc := 72, after := true }

theorem stc_group {g : Group} {l : Launch} {c : Cur} (h : g.ref = ⟨⟨1, 0⟩, 0⟩) : (stc g l c).group? ⟨⟨1, 0⟩, 0⟩ = some g := by
  simp [stc, st, State.group?, h]

theorem handled_handled : Handled (stc handled) ⟨⟨1, 0⟩, 0⟩ 0 trap0 :=
  ⟨handled, handledFrag, fetchLaunch, stc_group rfl, by rfl, by rfl, by rfl, by rfl, by decide, by decide⟩

/-- A trap with a handler, and one without. -/
theorem witness_TrapEntry : Handled (stc handled) ⟨⟨1, 0⟩, 0⟩ 0 trap0 ∧
    (stc fetchGroup).group? ⟨⟨1, 0⟩, 0⟩ = some fetchGroup ∧ fetchGroup.frag? 63 = some handledFrag ∧ (stc fetchGroup).launch? 1 = some fetchLaunch ∧
    ((stc fetchGroup).vif 0).debugger = false ∧ fetchGroup.frags.all (fun f => !f.handler) = true ∧ fetchGroup.thand = 0 ∧ fetchLaunch.ending = false ∧
    (stc fetchGroup).blocks.Pairwise (fun a b => a.ref ≠ b.ref) :=
  ⟨handled_handled, stc_group rfl, by rfl, by rfl, by rfl, by rfl, by rfl, by rfl, by decide⟩

theorem witness_SoftwareTraps :
    (∃ x, Issues (stc handled) (.trap k0 0xBEEF) x ∧ x.c.inj = none ∧ x.boundAhead = false) ∧
    (∃ x, Issues (stc handled) (.bkpt k0 1) x ∧ x.c.inj = none ∧ x.boundAhead = false) ∧
    Handled ((stc handled).setGroup (handled.setFrag 0 { handledFrag.advance 80 with stepped := true, last := handled.seq })) ⟨⟨1, 0⟩, 0⟩ 0 trap0 :=
  ⟨meets_prop (by decide), meets_prop (by decide), handled.setFrag 0 { handledFrag.advance 80 with stepped := true, last := handled.seq },
    { handledFrag.advance 80 with stepped := true, last := handled.seq },
    fetchLaunch, by rfl, by rfl, by rfl, by rfl, by decide, by decide, by decide⟩

/-- A fragment with a pending trap, and with a watched access. -/
def pending0 (c : Cause) : Frag := { handledFrag with traps := [{ cause := c, lanes := 1, prec := false }] }
def pendGroup (c : Cause) : Group := { handled with frags := [pending0 c] }

theorem witness_SoftwareTraps_pending :
    ((stc (pendGroup .memerr)).group? ⟨⟨1, 0⟩, 0⟩ = some (pendGroup .memerr) ∧ (pendGroup .memerr).frag? 0 = some (pending0 .memerr) ∧
      (pending0 .memerr).firstTrap = some { cause := .memerr, lanes := 1, prec := false } ∧ (pendGroup .memerr).mayTake (pending0 .memerr) = true) ∧
    (pendGroup .watch).mayTake (pending0 .watch) = true ∧
    Handled ((stc (pendGroup .memerr)).setGroup ((pendGroup .memerr).leave handledFrag)) ⟨⟨1, 0⟩, 0⟩ 0 { cause := .memerr, lanes := 1, prec := false } :=
  ⟨⟨stc_group rfl, by rfl, by rfl, by decide⟩, by decide, (pendGroup .memerr).leave handledFrag, handledFrag, fetchLaunch, by rfl, by rfl, by rfl, by rfl, by decide,
    by decide, by decide⟩

/-- A frame at the largest values that its fields hold. -/
def frame0 : Frame := { trap := { trap0 with rank := 4095, tpc := 2 ^ 32 - 8 }, pc := 80, frag := allLanes, sibs := 0, pfx := none, clause := none, entries := [], time := 0 }

/-- One inside a prefix range, its trap that of its second entry. -/
def entry0 (seq : Nat) : Entry := { seq, word := 0, exts := [], lanes := 1, ops := {}, flag := none, tpc := 72 }
def frame1 : Frame := { frame0 with trap := { frame0.trap with entry := some 4 }, pfx := some { mask := allLanes, pattern := 255, len := 8, pos := 7 }, entries := [entry0 3, entry0 4] }

theorem witness_FrameHeader : [frame0, frame1].all (fun f => decide (f.pc < 2 ^ 32 ∧ f.trap.tpc < 2 ^ 32 ∧ 1023 < 2 ^ 10 ∧ f.trap.rank < 2 ^ 12 ∧ f.entries.length ≤ 16) &&
      (match f.pfx with | some p => decide (p.pos < 8 ∧ 1 ≤ p.len ∧ p.len ≤ 8) | none => true)) = true ∧
    frame1.entries = [entry0 3] ++ entry0 4 :: [] ∧ frame1.trap.entry = some (entry0 4).seq ∧ (entry0 3).seq ≠ (entry0 4).seq ∧ frame0.pfx = none := by decide

/-- A group whose fragment is in its handler, its frame's PC in the code; and with a frame whose PC is not. -/
def inHandler (pc : Nat) : Group := { handled with frags := [{ handledFrag with handler := true, frame := some { frame0 with pc } }] }

/-- What an ERET's PC comes to: the one that the frame in memory holds against the one that the trap saved. -/
def eretPc (s : State) (x : Ctx) (fr : Frame) : Target :=
  let q := (s.setGroup x.g).readFrame x.g x.l.vif x.l.ctx fr
  if field q.1 320 32 = fr.pc then (if x.l.inCode (field q.1 320 32) then .good else .bad) else (q.2.2.target x.g.core x.l (field q.1 320 32)).1

abbrev eretHyps (s : State) (x : Ctx) (fr : Frame) (pc : Nat) : Prop :=
  let q := (s.setGroup x.g).readFrame x.g x.l.vif x.l.ctx fr
  x.c.inj = none ∧ x.g.frags.find? (fun f => f.handler) = some x.f ∧ x.f.frame = some fr ∧ x.f.lanes = fr.frag &&& ~~~x.g.exited ∧ headerReserved q.1 = false ∧
    field q.1 417 5 ≤ 16 ∧ field q.1 320 32 = pc ∧ (∀ e ∈ q.2.1, e.mtx = false) ∧ q.2.2.group? x.c.g = some x.g ∧ x.l.ending = false ∧ fr.wait = .no

/-- A frame that the core's L1 holds at 64 KiB with another PC, as a handler leaves it, and an image line that the core holds or lacks. -/
def editedSt (pc : Byte) (lines : List ILine) : State :=
  { st { inHandler 80 with tfp := BitVec.ofNat 128 0x10000 } with
    ilines := lines
    tlbs := [{ unit := .l1 0, vif := 0, ctx := 0, level := 1, va := 16, entry := 2 ^ 63 + 2 ^ 62 + 2 ^ 8 + 2 ^ 7 + 0x10000 }]
    caches := [{ id := .l1 0, poison := [], bytes := (List.range 256).map (fun k =>
      (0x10000 + k, { val := if k < 16 then 0xFF else if k = 40 then pc else 0, dirty := false, vif := 0 })) }] }

theorem witness_ReturnFromTrap :
    (∃ x, Issues (stc (inHandler 80)) (.eret k0) x ∧ eretHyps (stc (inHandler 80)) x { frame0 with pc := 80 } 80 ∧
      eretPc (stc (inHandler 80)) x { frame0 with pc := 80 } = .good) ∧
    (∃ x, Issues (stc (inHandler 4096)) (.eret k0) x ∧ eretHyps (stc (inHandler 4096)) x { frame0 with pc := 4096 } 4096 ∧
      eretPc (stc (inHandler 4096)) x { frame0 with pc := 4096 } = .bad) := by
  refine ⟨meets_prop ?_, meets_prop ?_⟩ <;> decide

/-- A handler has put a clause header's offset, an instruction's, and one whose page is missing into the frame. -/
theorem witness_ReturnFromTrap_edited :
    ([((64 : Byte), [line0], Target.good), (72, [line0], .bad), (64, [], .stop (.fault 64 0))].all (fun e => meets (editedSt e.1 e.2.1) (.eret k0) (fun x =>
      decide (eretHyps (editedSt e.1 e.2.1) x { frame0 with pc := 80 } e.1.toNat ∧ eretPc (editedSt e.1 e.2.1) x { frame0 with pc := 80 } = e.2.2)))) = true := by
  decide +kernel

/-- A state with a debugger. -/
def dbgSt (g : Group) : State := { stc g with vifs := [(0, { accept := some 8191, debugger := true })] }

theorem dbg_group {g : Group} (h : g.ref = ⟨⟨1, 0⟩, 0⟩) : (dbgSt g).group? ⟨⟨1, 0⟩, 0⟩ = some g := by simp [dbgSt, stc, st, State.group?, h]

/-- Groups that are due to stop: after a step; at a breakpoint; and one that has stopped. -/
def stepped0 : Frag := { handledFrag with stepped := true }
def stepGroup : Group := { fetchGroup with dctl := 1, frags := [stepped0] }
def bpGroup : Group := { fetchGroup with bpc := [(2, 73)] }
def stopped0 : Frag := { handledFrag with stopped := true }
def stopGroup : Group := { fetchGroup with frags := [stopped0] }

theorem witness_DebuggerStops : (st fetchGroup).feature 0 11 = true ∧ Debugged (dbgSt stepGroup) ⟨⟨1, 0⟩, 0⟩ ∧ stepped0.stepDue (dbgSt stepGroup) stepGroup = true ∧
    ((dbgSt bpGroup).bpDue bpGroup handledFrag).map (·.1) = some 2 ∧ (dbgSt bpGroup).quiet bpGroup = true ∧
    (pendGroup .watch).mayTake (pending0 .watch) = true ∧ (dbgSt stopGroup).group? ⟨⟨1, 0⟩, 0⟩ = some stopGroup ∧
    stopGroup.frags.filter (fun f => f.stopped) = [stopped0] ∧ stopGroup.frag? 0 = some stopped0 ∧
    ((dbgSt stopGroup).unstop stopGroup fetchLaunch stopped0).isSome = true :=
  ⟨by decide, ⟨fetchLaunch, by rfl, by rfl⟩, by decide, by decide, by decide, by decide, dbg_group rfl, by rfl, by rfl, by decide⟩

/-! ### Memory -/

/-- A pointer (Table 5-1) of 4096 bytes. -/
def ptr (base fmt space cls scope unit : Nat) (len : Nat := 4096) : PtrBits :=
  pFix (BitVec.ofNat 128 (base + 2 ^ 64 * len + 2 ^ 103 * fmt + 2 ^ 109 * space + 2 ^ 112 * cls + 2 ^ 114 * scope + 2 ^ 120 * unit))

/-- Pointers of a test: a1 this core's scratchpad, a2 global memory at 64 KiB, a3 host memory at 128 KiB, a4 rank 1 of a team, a5 global
memory that no table maps, a6 synchronising global memory, a7 read-shared global memory, a8 this core's scratchpad in float32, a9 global
float32, and a10 none. -/
def pointers : Sparse PtrBits :=
  [(1, ptr 0 4 1 0 0 0), (2, ptr 0x10000 4 0 0 3 0), (3, ptr 0x20000 4 4 0 3 0), (4, ptr (2 ^ 45) 4 3 0 4 0), (5, ptr 0x90000 4 0 0 3 0), (6, ptr 0x10000 4 0 2 3 0),
   (7, ptr 0x10000 4 0 1 3 0), (8, ptr 0 0x0A 1 0 0 0), (9, ptr 0x10000 0x0A 0 0 3 0)]

/-- The side band of a sector in order. -/
def band0 (sec : Nat) : Band := { kver := 0, vif := 0, poison := false, tag := (sec, 0, 0) }

/-- A group that holds them, and a state of one active lane in which the pages of a2 and a3 are mapped and the memory of a2's first sector is
readable. -/
def memGroup : Group := { fetchGroup with a := pointers }
def memLaunch : Launch := { fetchLaunch with team := 2 }
def memCur : Cur := { cur0 with act := 1 }
def memSt (g : Group := memGroup) (l : Launch := memLaunch) (c : Cur := memCur) : State :=
  { st g l c with
    tlbs := [{ unit := .l1 0, vif := 0, ctx := 0, level := 1, va := 16, entry := 2 ^ 63 + 2 ^ 62 + 2 ^ 8 + 2 ^ 7 + 0x10000 },
      { unit := .l1 0, vif := 0, ctx := 0, level := 1, va := 32, entry := 2 ^ 63 + 2 ^ 62 + 2 ^ 57 + 2 ^ 8 + 2 ^ 7 + 0x20000 }]
    band := [(2048, band0 2048)] }

/-- Every byte has been found, as a test. -/
def allFoundB (fs : List (Elem × Found)) : Bool := fs.all (fun e => match e.2 with | .at_ _ => true | _ => false)

theorem allFound_of {fs : List (Elem × Found)} (h : allFoundB fs = true) : AllFound fs := by
  intro e he
  have := List.all_eq_true.mp h e he
  split at this
  · exact ⟨_, by assumption⟩
  · cases this

/-- Where an access passes its checks and finds its bytes. -/
abbrev reaches (s : State) (x : Ctx) (p : AReg) (writes : Bool) (n : Nat) : Prop :=
  x.memChecks (s.setGroup x.g) (x.a .a p.val) true writes .none n = .ok () ∧
    allFoundB (x.locate (x.a .a p.val) writes (x.elems (x.a .a p.val) .none n [0]) (s.setGroup x.g)).1 = true

/-- The checks: an invalid pointer, a format that does not fit, a pointer of another core's scratchpad, a store through a read-shared
pointer, an index out of bounds, an odd element address, a place beyond the window, and one that passes. -/
theorem witness_PointerChecks :
    (∃ x, Issues (memSt) (.ld k0 .x1 false .none (.v 1) 10 .none) x ∧ pValid (x.a .a 10) = false) ∧
    (∃ x, Issues (memSt) (.atomf k0 .add none 1 .none (v 3)) x ∧ pValid (x.a .a 1) = true ∧ ¬pFmt (x.a .a 1) = 0x0A) ∧
    (∃ x, Issues (memSt { memGroup with a := [(1, ptr 0 4 1 0 0 1)] }) (.ld k0 .x1 false .none (.v 1) 1 .none) x ∧ pValid (x.a .a 1) = true ∧
      unitOk x.g.core x.b (x.a .a 1) = false) ∧
    (∃ x, Issues (memSt) (.st k0 .x1 false false .none 7 .none (v 3)) x ∧ unitOk x.g.core x.b (x.a .a 7) = true ∧ pClass (x.a .a 7) = 1) ∧
    (∃ x, Issues (memSt) (.st k0 .x1 false false .none 2 (.imm 1024) (v 3)) x ∧ mkLanes (fun l => x.act.getLsbD l && !inBounds (x.a .a 2) (x.idx (.imm 1024) l) 1) ≠ 0) ∧
    (∃ x, Issues (memSt { memGroup with a := [(1, ptr 2 4 1 0 0 0)] }) (.ld k0 .x1 false .none (.v 1) 1 .none) x ∧
      mkLanes (fun l => x.act.getLsbD l && !inBounds (x.a .a 1) (x.idx .none l) 1) = 0 ∧
      mkLanes (fun l => x.act.getLsbD l && decide (ebits (pFmt (x.a .a 1)) % 8 = 0) && elemByte (x.a .a 1) (x.idx .none l) % 4 != 0) ≠ 0) ∧
    (∃ x, Issues (memSt { memGroup with a := [(1, ptr (2 ^ 20) 4 1 0 0 0)] }) (.ld k0 .x1 false .none (.v 1) 1 .none) x ∧
      (x.elems (x.a .a 1) .none 1 [0]).all (fun e => x.inWindow (x.a .a 1) e.byte (e.bytes 32)) = false) ∧
    (∃ x, Issues (memSt) (.ld k0 .x1 false .none (.v 1) 1 (.imm 1023)) x ∧
      x.memChecks ((memSt).setGroup x.g) (x.a .a 1) true false (.imm 1023) 1 = .ok ()) := by
  refine ⟨meets_prop ?_, meets_prop ?_, meets_prop ?_, meets_prop ?_, meets_prop ?_, meets_prop ?_, meets_prop ?_, meets_prop ?_⟩ <;> decide

theorem reaches_of {s : State} {x : Ctx} {p : AReg} {w : Bool} {n : Nat} (h : reaches s x p w n) :
    x.memChecks (s.setGroup x.g) (x.a .a p.val) true w .none n = .ok () ∧
      AllFound (x.locate (x.a .a p.val) w (x.elems (x.a .a p.val) .none n [0]) (s.setGroup x.g)).1 := ⟨h.1, allFound_of h.2⟩

/-- An access that something keeps from its bytes: a page of another kind, or no table. -/
abbrev kept (s : State) (x : Ctx) (p : AReg) (w : Bool) (f : Found) : Prop :=
  (x.locate (x.a .a p.val) w (x.elems (x.a .a p.val) .none 1 [0]) (s.setGroup x.g)).1.map (·.2) = [f]

/-- LD of a peer, with every port failed and with none; of the host; of the scratchpad and of global memory, whose second sector is poison;
of a host pointer on a page of device memory; and of an address that no table maps. -/
theorem witness_Loads :
    (∃ x, Issues { memSt with portsFailed := List.range 12 } (.ld k0 .x1 false .none (.v 1) 4 .none) x ∧ x.remote (x.a .a 4) = true ∧
      x.memChecks ({ memSt with portsFailed := List.range 12 }.setGroup x.g) (x.a .a 4) true false .none 1 = .ok ()) ∧
    (∃ x, Issues memSt (.ld k0 .x1 false .none (.v 1) 4 .none) x ∧ x.remote (x.a .a 4) = true ∧ memSt.portsFailed.length < 12 ∧
      x.memChecks (memSt.setGroup x.g) (x.a .a 4) true false .none 1 = .ok ()) ∧
    (∃ x, Issues memSt (.ld k0 .x1 false .none (.v 1) 3 .none) x ∧ x.remote (x.a .a 3) = false ∧ pHost (x.a .a 3) = true ∧ reaches memSt x 3 false 1) ∧
    (∃ x, Issues memSt (.ld k0 .x4 false .none (.s 1) 1 .none) x ∧ x.remote (x.a .a 1) = false ∧ pHost (x.a .a 1) = false ∧ reaches memSt x 1 false 4) ∧
    (∃ x, Issues memSt (.ld k0 .x1 false .none (.v 1) 2 .none) x ∧ reaches memSt x 2 false 1 ∧ memSt.memPoisoned 0 2048 = false ∧ memSt.memPoisoned 0 2049 = true) ∧
    (∃ x, Issues (memSt { memGroup with a := [(1, ptr 0x10000 4 4 0 3 0)] }) (.ld k0 .x1 false .none (.v 1) 1 .none) x ∧
      kept (memSt { memGroup with a := [(1, ptr 0x10000 4 4 0 3 0)] }) x 1 false .mismatch) ∧
    (∃ x, Issues memSt (.ld k0 .x1 false .none (.v 1) 5 .none) x ∧ x.c.inj = none ∧ kept memSt x 5 false (.fault 0x90000 0)) := by
  refine ⟨meets_prop ?_, meets_prop ?_, meets_prop ?_, meets_prop ?_, meets_prop ?_, meets_prop ?_, meets_prop ?_⟩ <;> decide

/-- Every miss-status entry of the core is taken: a load whose sector its L1 lacks waits, and one of a line that has an entry does not. -/
def missSt : State := { memSt with mshrs := (List.range 512).map (fun k => { core := 0, vif := 0, line := 5000 + k, secs := [10000 + 2 * k] }) }
theorem witness_Loads_misses :
    (∃ x, Issues missSt (.ld k0 .x1 false .none (.v 1) 2 .none) x ∧ x.remote (x.a .a 2) = false ∧ pHost (x.a .a 2) = false ∧ reaches missSt x 2 false 1) ∧
    missSt.missing 0 [.mem 0x10000] = [2048] ∧ missSt.missRoom 0 [2048] = false ∧ missSt.missRoom 0 [10001] = true ∧ memSt.missRoom 0 [2048] = true ∧
    memSt.missRoom 0 [hostBase / 32] = true := by
  refine ⟨meets_prop ?_, ?_, ?_, ?_, ?_, ?_⟩ <;> decide +kernel

/-- ST to the scratchpad, to global memory, to the host, and to a peer. -/
theorem witness_Stores :
    (∃ x, Issues memSt (.st k0 .x1 false false .none 1 .none (v 3)) x ∧ x.remote (x.a .a 1) = false ∧ pHost (x.a .a 1) = false ∧ reaches memSt x 1 true 1 ∧
      x.watched (memSt.setGroup x.g) (x.a .a 1) false true (x.elems (x.a .a 1) .none 1 [0]) = none ∧ x.b.place ≠ .exited ∧ x.b.winPoison = []) ∧
    (∃ x, Issues memSt (.st k0 .x1 false false .na 2 .none (v 3)) x ∧ x.remote (x.a .a 2) = false ∧ reaches memSt x 2 true 1) ∧
    (∃ x, Issues memSt (.st k0 .x1 true false .ev 3 .none (.s 3)) x ∧ pHost (x.a .a 3) = true ∧ reaches memSt x 3 true 1) ∧
    (∃ x, Issues memSt (.st k0 .x1 false false .none 4 .none (v 3)) x ∧ x.remote (x.a .a 4) = true ∧
      x.memChecks (memSt.setGroup x.g) (x.a .a 4) true true .none 1 = .ok ()) := by
  refine ⟨meets_prop ?_, meets_prop ?_, meets_prop ?_, meets_prop ?_⟩ <;> decide

/-- A cluster cache that owes a sector's poison. -/
def badSt : State := { memSt with caches := [{ id := .cl 0, bytes := [], poison := [2048], bad := [(2048, 0)] }] }
/-- Every sector that owes poison reads as poison. -/
def owesPoison (s : State) : Bool := s.caches.all (fun c => c.bad.all (fun y => c.poison.contains y.1))

/-- The core of the state sees the sector that its memory answers for. -/
theorem witness_CoreStores : seesSector memSt 0 0 2048 = some (List.replicate 32 0) ∧ secIsHost 2048 = false ∧ memSt.lostDies.contains (homeDie 2048) = false ∧
    owesPoison memSt = true ∧ owesPoison badSt = true := by decide

/-- ATOM on a word of the scratchpad, of a peer and of the host, and ATOMF on global memory. -/
theorem witness_Atomics :
    (∃ x, Issues memSt (.atom k0 .cas (some (.v 9)) 1 .none (v 30)) x ∧ x.remote (x.a .a 1) = false ∧ x.l.ord = false ∧ reaches memSt x 1 true 1 ∧
      pOwnScratch (x.a .a 1) = true ∧ x.act = oneLane 0 ∧
      (List.range 4).map (fun k => memSt.winRead ⟨1, 0⟩ (winKey 0 0 k)) = [some 0, some 0, some 0, some 0] ∧ ((List.range 4).map (winKey 0 0)).Nodup) ∧
    (∃ x, Issues memSt (.atom k0 .add none 4 .none (v 30)) x ∧ x.remote (x.a .a 4) = true ∧ x.memChecks (memSt.setGroup x.g) (x.a .a 4) true true .none 1 = .ok ()) ∧
    (∃ x, Issues memSt (.atom k0 .incw none 3 .none (v 30)) x ∧ pHost (x.a .a 3) = true ∧ reaches memSt x 3 true 1) ∧
    (∃ x, Issues memSt (.atomf k0 .add none 9 .none (v 30)) x ∧ x.remote (x.a .a 9) = false ∧ reaches memSt x 9 true 1 ∧
      x.watched (memSt.setGroup x.g) (x.a .a 9) true true (x.elems (x.a .a 9) .none 1 [0]) = none ∧ memSt.missRoom x.g.core [2048] = true) ∧
    missSt.missRoom 0 [2048] = false := by
  refine ⟨meets_prop ?_, meets_prop ?_, meets_prop ?_, meets_prop ?_, ?_⟩ <;> decide +kernel

/-- A launch in the ordered mode; one whose core's log is full and which has no area; and the handler of ATOMLOG. -/
def ordLaunch : Launch := { memLaunch with ord := true }
def logEntry0 : LogEntry := { thread := 0, seq := 0, pa := 0, va := 0, op := .add, v := 0, spilled := false }
def fullSt : State := { memSt { memGroup with thand := 64 } ordLaunch with blocks := [{ ref := ⟨1, 0⟩, cores := [0], log := List.replicate 512 logEntry0 }], ilines := [line0] }

theorem witness_OrderedAtomicsLog :
    (∃ x, Issues (memSt memGroup ordLaunch) (.atomf k0 .add none 9 .none (v 30)) x ∧ x.l.ord = true ∧ pGlobal (x.a .a 9) = true ∧
      reaches (memSt memGroup ordLaunch) x 9 true 1 ∧ (memSt memGroup ordLaunch).atsRefuses x.l.vif (x.a .a 9) = false ∧ x.l.id = x.c.g.b.launch ∧ x.l.logUsed + 16 * (1 - (512 - x.b.log.length)) ≤ 0) ∧
    (∃ x, Issues fullSt (.atomf k0 .add none 9 .none (v 30)) x ∧ x.c.inj = none ∧ reaches fullSt x 9 true 1 ∧
      0 < x.l.logUsed + 16 * (1 - (512 - (x.b.log.filter (fun e => !e.spilled)).length)) ∧ pValid x.l.logPtr = false ∧ x.g.thand = 64) := by
  refine ⟨meets_prop ?_, meets_prop ?_⟩ <;> decide

/-- A fragment that waits on a test, of one word of its scratchpad. -/
def test0 (cmp : WaitCmp) (v : Word) : Test :=
  { ptr := ptr 0 4 1 0 0 0, idx := 0, cmp, all := false, spot := ⟨⟨1, 0⟩, 0⟩, v, mask := 0, t0 := 0, timeout := 1000, lastTest := 0, d := 1, act := 1
    entry := { seq := 0, word := 0, exts := [], lanes := 1, ops := {}, flag := none, tpc := 72 } }
def waitFrag (v : Word) : Frag := { lanes := allLanes, pc := 80, wait := .test (test0 .eq v) }
def waitGroup (v : Word) : Group := { memGroup with frags := [waitFrag v] }

/-- A waking test, one that has not timed out, and one that has. -/
theorem witness_WaitsAndTests :
    (∃ x, Issues memSt (.waita k0 .nem 4 1 .none 30 1000) x ∧ x.c.inj = none ∧ reaches memSt x 1 false 1) ∧
    (∃ x, Issues memSt (.cwait k0 1 1 .none 5 9) x ∧ x.memChecks (memSt.setGroup x.g) (x.a .a 1) true false .none 1 = .ok ()) ∧
    (∃ x, Issues memSt (.ctest k0 1 1 .none 5) x ∧ (List.range 4).map (fun k => memSt.winRead ⟨1, 0⟩ (winKey 0 0 k)) = [0, 0, 0, 0].map some) ∧
    ((memSt (waitGroup 0)).entryCtx (waitGroup 0) (waitFrag 0) (test0 .eq 0).entry).isSome = true ∧
    ((memSt (waitGroup 0)).entryCtx (waitGroup 0) (waitFrag 0) (test0 .eq 0).entry).any (fun x =>
      !x.remote (test0 .eq 0).ptr && !(memSt (waitGroup 0)).atsRefuses x.l.vif (test0 .eq 0).ptr &&
      decide (x.watched (memSt (waitGroup 0)) (test0 .eq 0).ptr true false [{ lane := 0, j := 0, bit := 0 }] = none) &&
      decide ((x.find (test0 .eq 0).ptr false 0 4 (memSt (waitGroup 0)) (some (test0 .eq 0).spot)).1 = .at_ ((List.range 4).map (fun k => Loc.win ⟨1, 0⟩ k))) &&
      (memSt (waitGroup 0)).missRoom 0 [] && !(memSt (waitGroup 0)).hostWriteAhead (waitGroup 0).ref 0 [] &&
      decide (((memSt (waitGroup 0)).pointRead (x.via (test0 .eq 0).ptr) ((List.range 4).map (fun k => Loc.win ⟨1, 0⟩ k))).1 = some [0, 0, 0, 0])) = true := by
  refine ⟨meets_prop ?_, meets_prop ?_, meets_prop ?_, ?_, ?_⟩ <;> decide

/-! ### Caches, pointers, copies and queues -/

/-- What a PREF, a CMO, a LOCQ and a scope change need of a pointer. -/
abbrev passes (x : Ctx) (p : AReg) : Prop :=
  pValid (x.a .a p.val) = true ∧ (pGlobal (x.a .a p.val) = true ∨ pHost (x.a .a p.val) = true) ∧ unitOk x.g.core x.b (x.a .a p.val) = true

/-- The state with a dirty byte of a2's first sector in the core's L1. -/
def dirtySt : State := { memSt with caches := [{ id := .l1 0, bytes := [(65536, { val := 7, dirty := true, vif := 0 })], poison := [] }] }

/-- A pointer that passes, one that is invalid, one of another space, and one of another core's unit. -/
theorem witness_CacheInstructions :
    (∃ x, Issues memSt (.pref k0 .l1 true 2 .none) x ∧ passes x 2 ∧ 0 < pLen (x.a .a 2) ∧
      ((memSt.setGroup x.g).translate { vif := 0, ctx := 0, tgt := 0, write := false, quiet := true } (coreTlbs x.g.core) (dieOf x.g.core) (pBase (x.a .a 2))).1 = .ok 0x10000 1 ∧
      (memSt.mshrs.filter (fun y => y.core == x.g.core)).length ≤ 510) ∧
    Met memSt [.pref k0 .die false 2 (.imm 9), .cmo k0 .inv .rdc 10, .cmo k0 .cln .l2 1] ∧
    (∃ x, Issues dirtySt (.cmo k0 .cinv .l2 2) x ∧ passes x 2 ∧ (2048, true) ∈ x.rangeSectors (x.a .a 2) false (dirtySt.setGroup x.g)) ∧
    (∃ x, Issues memSt (.cmo k0 .cln .l1 3) x ∧ passes x 3 ∧ owesPoison memSt = true ∧ owesPoison dirtySt = true) ∧ (∃ x, Issues memSt (.cmo k0 .inv .cl 10) x ∧ pValid (x.a .a 10) = false) ∧
    (∃ x, Issues memSt (.cmo k0 .inv .cl 1) x ∧ pValid (x.a .a 1) = true ∧ pGlobal (x.a .a 1) = false ∧ pHost (x.a .a 1) = false) ∧
    (∃ x, Issues (memSt { memGroup with a := [(2, ptr 0x10000 4 0 0 0 63)] }) (.cmo k0 .inv .cl 2) x ∧ pValid (x.a .a 2) = true ∧ unitOk x.g.core x.b (x.a .a 2) = false) ∧
    (∃ x, Issues memSt (.locq k0 3 2 4) x ∧ passes x 2 ∧ inBounds (x.a .a 2) (x.s .b 4 0).toInt 1 = true) ∧
    (∃ x, Issues (memSt { memGroup with s := [(4, 1024)] }) (.locq k0 3 2 4) x ∧ passes x 2 ∧ inBounds (x.a .a 2) (x.s .b 4 0).toInt 1 = false) := by
  refine ⟨meets_prop ?_, met_of ?_, meets_prop ?_, meets_prop ?_, meets_prop ?_, meets_prop ?_, meets_prop ?_, meets_prop ?_, meets_prop ?_⟩ <;> decide

/-- Derivations of a valid and of an invalid pointer, at the largest length and one beyond it. -/
theorem witness_PointerDerivations :
    Met memSt [.pmake k0 1 8, .psetf k0 1 2 (.code 0x20), .psetf k0 1 1 (.swz 7), .pclass k0 .rs 1 2, .pget k0 .quad 4 2, .pget k0 .base 4 2, .pget k0 .len 4 2, .pget k0 .form 4 2,
      .pget k0 .attr 4 2, .pchk k0 true .x4 3 2 (v 7)] ∧
    (∃ x, Issues memSt (.psub k0 1 2 (.imm 96 4000)) x ∧ pValid (x.a .a 2) = true ∧ 96 + 4000 ≤ pLen (x.a .a 2)) ∧
    (∃ x, Issues memSt (.psub k0 1 2 (.imm 97 4000)) x ∧ ¬97 + 4000 ≤ pLen (x.a .a 2)) ∧
    (∃ x, Issues memSt (.padv k0 1 2 (.imm 4096)) x ∧ 4096 ≤ pLen (x.a .a 2)) ∧ (∃ x, Issues memSt (.padv k0 1 2 (.imm 4097)) x ∧ ¬4097 ≤ pLen (x.a .a 2)) ∧
    (∃ x, Issues memSt (.pclass k0 .sync 1 7) x ∧ pClass (x.a .a 7) = 1) ∧ (∃ x, Issues memSt (.psub k0 1 10 (.reg 4 6)) x ∧ pValid (x.a .a 10) = false) := by
  refine ⟨met_of ?_, meets_prop ?_, meets_prop ?_, meets_prop ?_, meets_prop ?_, meets_prop ?_, meets_prop ?_⟩ <;> decide

theorem witness_ScopeChanges :
    (∃ x, Issues memSt (.narrow k0 .die 1 2) x ∧ passes x 2 ∧ 2 < pScope (x.a .a 2) ∧ pHost (x.a .a 2) = false) ∧
    (∃ x, Issues memSt (.narrow k0 .core 1 3) x ∧ passes x 3 ∧ pHost (x.a .a 3) = true) ∧ (∃ x, Issues memSt (.narrow k0 .core 1 10) x ∧ pValid (x.a .a 10) = false) ∧
    (∃ x, Issues memSt (.widen k0 .pod 1 2) x ∧ passes x 2 ∧ pScope (x.a .a 2) < 4) ∧ (∃ x, Issues memSt (.widen k0 .pkg 1 2) x ∧ ¬pScope (x.a .a 2) < 3) := by
  refine ⟨meets_prop ?_, meets_prop ?_, meets_prop ?_, meets_prop ?_, meets_prop ?_⟩ <;> decide

/-- A tensor layout record (Table 8-1) of four words at 64 KiB, its box one word, in this core's scratchpad at 0; a copy's pointers: a11 the
record, a12 its tile at 1024, a13 its bitmap at 2048, a14 its notify word at 2052. -/
def recordNat : Nat := (ptr 0x10000 4 0 0 3 0).toNat + 2 ^ 128 * 4
def copyGroup : Group :=
  { fetchGroup with a := [(10, ptr 0 4 1 0 0 0 63), (11, ptr 0 4 1 0 0 0), (12, ptr 1024 4 1 0 0 0 64), (13, ptr 2048 4 1 0 0 0 4), (14, ptr 2052 4 1 0 0 0 4), (15, ptr 4 4 1 0 0 0)] }
def recordWindow : Sparse Byte := (((List.range 64).zip (leBytes 64 recordNat)).filter (fun y => y.2 != 0))
def copySt : State := { memSt copyGroup with
  blocks := [{ ref := ⟨1, 0⟩, cores := [0], window := recordWindow }]
  tlbs := memSt.tlbs ++ [{ unit := .cl 0, vif := 0, ctx := 0, level := 1, va := 16, entry := 2 ^ 63 + 2 ^ 62 + 2 ^ 8 + 2 ^ 7 + 0x10000 }] }

/-- The operands of a copy whose leader is the lowest lane, and of one that has none. -/
def cpy0 (p : PReg) (r : AReg) : CpyArgs := { pL := p, ord := true, aT := 12, aR := r, sC := 20, aB := 13, notify := some ⟨14, 5, true⟩ }

theorem witness_Copies :
    (∃ x, Issues copySt (.cpyLd k0 (cpy0 3 11)) x ∧ x.leader 3 = none) ∧ (∃ x, Issues copySt (.cpySt k0 (cpy0 0 15)) x ∧ x.leader 0 = some 0 ∧ pBase (x.a .a 15) % 64 ≠ 0) ∧
    (∃ x, Issues copySt (.cpyrd k0 .max (cpy0 0 16)) x ∧ pValid (x.a .a 16) = false) ∧
    (∃ x, Issues copySt (.cpyLd k0 (cpy0 0 11)) x ∧ x.leader 0 = some 0 ∧ x.inWindow (x.a .a 11) 0 64 = true ∧ layoutWf recordNat [(x.s .b 20 0).toInt] = true ∧
      (x.alone 0).checkPtr (copySt.setGroup x.g) (x.a .a 11) true false = .ok () ∧ (x.alone 0).tensorChecks copySt .ld (layoutOf recordNat) [0] = .ok () ∧
      (x.alone 0).tileChecks copySt .ld (layoutOf recordNat) (x.a .d 12) (x.a .c 13) (some (x.a .d 14)) = .ok ()) := by
  refine ⟨meets_prop ?_, meets_prop ?_, meets_prop ?_, meets_prop ?_⟩ <;> decide

/-- The copy as its engine holds it. -/
def copy0 : Copy :=
  { id := 7, g := ⟨⟨1, 0⟩, 0⟩, lead := 0, seq := 0, cluster := 0, vif := 0, ctx := 0, word := 0, tpc := 72, op := .ld, ord := false, lay := layoutOf recordNat, coords := [0]
    tile := ptr 1024 4 1 0 0 0 64, tileAt := ⟨⟨1, 0⟩, 0⟩, bitmap := ptr 2048 4 1 0 0 0 4, bitmapAt := ⟨⟨1, 0⟩, 0⟩
    notify := some { ptr := ptr 2052 4 1 0 0 0 4, at_ := ⟨⟨1, 0⟩, 0⟩, v := 1, add := true }, chunks := 1 }

/-- A chunk that lands, one whose bit is set, one that faults, and the notify word's turn. -/
theorem witness_Copies_engine :
    (copy0.idle 0 = true ∧ copy0.remote copySt = false ∧ copySt.unstarted ⟨1, 0⟩ = false ∧ copy0.ordered copySt = false ∧
      (copy0.locate copySt false (copy0.inRange 0)).1 = ([(0, 0x10000), (1, 0x10001), (2, 0x10002), (3, 0x10003)], .none)) ∧
    ({ copySt with copies := [copy0] } : State).copy? 7 = some copy0 ∧ { copy0 with moved := [0] }.idle 0 = true ∧
    (copy0.locate { copySt with tlbs := [] } true (copy0.inRange 0)).1.2 = .faults [(0x10000, 0), (0x10001, 0), (0x10002, 0), (0x10003, 0)] ∧
    (List.range 4).map (fun j => copySt.winRead ⟨1, 0⟩ (winKey 0 0 (2052 + j))) = [0, 0, 0, 0].map some ∧ ((List.range 4).map (fun j => winKey 0 0 (2052 + j))).Nodup := by
  decide

/-- A queue of four words at 64 KiB, with one entry; one with none; and one that is full. -/
def queueSt (tail : Byte) (g : Group := memGroup) : State :=
  { memSt g with hbm := (if tail = 0 then [] else [(0x10004, tail)]) ++ [(0x1000B, 2), (0x1000C, 1)], band := (List.range 4).map (fun k => (2048 + k, band0 (2048 + k))) }

/-- What an ENQ and a DEQ find of a queue. -/
abbrev queueMeets (s : State) (x : Ctx) (t : Nat) : Prop :=
  x.checkPtr (s.setGroup x.g) (x.a .a 2) true true = .ok () ∧ pBase (x.a .a 2) % 64 = 0 ∧ 64 ≤ pLen (x.a .a 2) ∧
    (s.pointRead { core := 0, vif := 0, sync := true, scope := 3 } ((List.range 64).map (fun k => Loc.mem (0x10000 + k)))).1.map leNat = some (2 ^ 32 * t + 2 ^ 89 + 2 ^ 96) ∧
    s.deqWaiters 0x10000 = []

theorem witness_Queues :
    (∃ x, Issues (queueSt 1) (.enq k0 .w1 1 2 4) x ∧ queueMeets (queueSt 1) x 1) ∧ (∃ x, Issues (queueSt 4) (.enq k0 .w1 1 2 4) x ∧ queueMeets (queueSt 4) x 4) ∧
    (∃ x, Issues (queueSt 1) (.deq k0 .w1 4 2) x ∧ queueMeets (queueSt 1) x 1) ∧ (∃ x, Issues (queueSt 0) (.deq k0 .w1 4 2) x ∧ queueMeets (queueSt 0) x 0) ∧
    Met (queueSt 1) [.enq k0 .w4 1 2 4, .deq k0 .w2 4 10] := by
  refine ⟨meets_prop ?_, meets_prop ?_, meets_prop ?_, meets_prop ?_, met_of ?_⟩ <;> decide +kernel

/-- A fragment that sleeps at a DEQ of that queue: its turn has come. -/
def deqFrag : Frag := { lanes := allLanes, pc := 80, wait := .deq (ptr 0x10000 4 0 0 3 0) 0x10000 1 4 0 (test0 .eq 0).entry none }
def deqGroup : Group := { memGroup with frags := [deqFrag] }
theorem witness_Queues_wake : (queueSt 1 deqGroup).deqReady deqGroup 0x10000 0 = some { head := 0, tail := 1, lcap := 2, ew := 1 } ∧
    ((queueSt 1 deqGroup).entryCtx deqGroup deqFrag (test0 .eq 0).entry).isSome = true := by decide +kernel

/-! ### The matrix unit, adapters and the fabric -/

/-- A group whose a1 names its scratchpad in float16, s3 a row stride of 16, s4 and s5 the target of an add: tile 3 of this block, and tile 4 of
rank 1; and s6 and s7 no target. -/
def tileGroup : Group :=
  { fetchGroup with
    a := [(1, ptr 0 8 1 0 0 0), (2, ptr 0x90000 8 0 0 3 0)]
    s := [(3, 16), (4, 0), (5, 3), (6, 0), (7, 0x10014), (9, 0xFFFF0000)] }
def tileSt : State := st tileGroup memLaunch

/-- Every tile instruction issues with its quad's queue empty and no lineage; a target of this device and one of another. -/
theorem witness_TileInstructions :
    Met tileSt [.mzero k0 15, .tscale k0 1 2 4, .tadd k0 1 2 3 4, .mdrainReg k0 16 3, .mpub k0 5 15, .mpub k0 5 0, .settle k0 .all, .settle k0 (.tile 5), .mstat k0 1 2, .linq k0 3 4] ∧
    (tileSt.quadOf 0 0).queue = [] ∧ tileSt.lineages = [] ∧ tileSt.allOps = [] ∧
    (∃ x, Issues tileSt (.mload k0 3 1 2 3) x ∧ x.tileSpan (tileSt.setGroup x.g) (x.a .a 1) true false 2 3 = .ok (0, 16) ∧ pOwnScratch (x.a .a 1) = true) ∧
    (∃ x, Issues tileSt (.mdrainMem k0 5 .rz true 1 3 2 3) x ∧ (x.slot 5).fmt = 8 ∧ (x.slot 5).scale = 0 ∧
      x.tileSpan (tileSt.setGroup x.g) (x.a .d 1) true true 2 3 = .ok (0, 16) ∧ (spotOf x.b x.g.core (x.a .d 1)).b = x.c.g.b) ∧
    (∃ x, Issues tileSt (.mdrainAdd k0 3 4) x ∧ x.addOk (tileSt.setGroup x.g) (x.s2 .b 4) = true ∧ field (x.s2 .b 4) 48 1 = 0) ∧
    (∃ x, Issues tileSt (.mdrainAdd k0 3 6) x ∧ x.addOk (tileSt.setGroup x.g) (x.s2 .b 6) = true ∧ field (x.s2 .b 6) 48 1 = 1 ∧ field (x.s2 .b 6) 36 12 ≠ x.l.rank) ∧
    (∃ x, Issues tileSt (.mdrainAdd k0 3 8) x ∧ x.addOk (tileSt.setGroup x.g) (x.s2 .b 8) = false) := by
  refine ⟨met_of ?_, ?_, ?_, ?_, meets_prop ?_, meets_prop ?_, meets_prop ?_, meets_prop ?_, meets_prop ?_⟩ <;> decide

/-- An MLOOP of one step from the scratchpad, one from memory that no table maps, and one whose chain is no well-formed shape. -/
def mloop0 (a : AReg) : MloopArgs := ⟨2, .ptr a 1 none, 1, 8, false, 0, 0, 16, 0, 0, 0⟩

theorem witness_TileInstructions_mloop :
    (∃ x, Issues tileSt (.mloop k0 (mloop0 1)) x ∧ x.mloopShape (x.mjob (mloop0 1)) = true ∧ x.mloopReads (tileSt.setGroup x.g) (x.mjob (mloop0 1)) = .ok () ∧
      (x.mjob (mloop0 1)).ids = []) ∧
    (∃ x, Issues tileSt (.mloop k0 { mloop0 1 with sob := 3 }) x ∧ x.mloopShape (x.mjob { mloop0 1 with sob := 3 }) = false) := by
  refine ⟨meets_prop ?_, meets_prop ?_⟩ <;> decide

/-- A state after an instruction. -/
def after (i : Instr) (s : State) : State := match exec i s with | .next t => { t with cur := none } | _ => s

/-- A step of the MLOOP is due, and its block sums are there; the other one's access stops it. -/
theorem witness_TileProgress :
    ((after (.mloop k0 (mloop0 1)) tileSt).nextMloop 0 0).any (fun y => (y.2.2.opCtx y.1).any (fun x => match y.2.2.stepSums x y.1 y.2.1 y.1.step with
      | (.ok (vs, _), s2) => (s2.block? y.1.g.b).isSome && vs.length == 1024 && (x.blockCheck y.2.1.x.rc s2).1 && (s2.op? y.1.id == some y.1) &&
        (s2.group? y.1.g).any (fun g => !g.retired && !g.frags.isEmpty)
      | _ => false)) = true := by
  decide +kernel

/-- Its residue check fails where a soft error strikes. -/
theorem witness_TileProgress_struck :
    ((after (.mloop k0 { mloop0 1 with rc := true }) { tileSt with strikes := strike2 }).nextMloop 0 0).any (fun y => (y.2.2.opCtx y.1).any (fun x =>
      match y.2.2.stepSums x y.1 y.2.1 y.1.step with
      | (.ok _, s2) => !(x.blockCheck y.2.1.x.rc s2).1 && (s2.op? y.1.id == some y.1) && (s2.group? y.1.g).any (fun g => !g.frags.isEmpty)
      | _ => false)) = true := by
  decide +kernel

theorem witness_TileProgress_stop :
    ((after (.mloop k0 (mloop0 2)) tileSt).loopStop 0 0).any (fun y => (y.2.2.2.1.op? y.1.id == some y.1) && (y.2.2.2.1.group? y.1.g).any (fun g => !g.frags.isEmpty)) = true := by
  decide +kernel

/-- A tile add of this block, an add that answers a peer, and its second add; a lineage whose Δ is complete, and one that has settled. -/
def add0 : TileAdd := { id := 9, g := ⟨⟨1, 0⟩, 0⟩, seq := 0, rank := none, tgt := ⟨⟨1, 0⟩, 0, 15⟩, vals := [(0, 0x3F800000)], kind := .plain }
def add1 : TileAdd := { add0 with id := 10, src := some (3, 4) }
def add2 : TileAdd := { add0 with id := 11, kind := .second 10, src := some (3, 5) }
def lineage0 : Lineage := { core := 0, tag := 63, root := ⟨⟨1, 0⟩, 0, 2⟩, remote := false, opens := 0 }
def busySt : State := { tileSt with tileAdds := [add0, add1, add2], lineages := [lineage0, { lineage0 with tag := 1, complete := true }] }

theorem witness_TileProgress_adds :
    (busySt.tileAdds.find? (fun a => a.id == 9 && !a.out && (match a.kind with | .second _ => true | _ => false) == false)) = some add0 ∧
    (busySt.tileAdds.find? (fun a => a.id == 10 && !a.out && (match a.kind with | .second _ => true | _ => false) == false)) = some add1 ∧
    (busySt.tileAdds.find? (fun a => a.id == 11 && !a.out && (match a.kind with | .second _ => true | _ => false))) = some add2 ∧
    busySt.lineage? 0 63 = some lineage0 := ⟨by rfl, by rfl, by rfl, by rfl⟩

theorem witness_TileProgress_lands :
    (busySt.block? ⟨1, 0⟩).any (fun b => decide (b.place ≠ .exited)) = true ∧ (busySt.launch? 1).any (fun l => decide (0 < l.nblk ∧ 0 < l.gangs ∧ 15 < l.hdr.tiles)) = true ∧
    busySt.tileBusy add0.tgt = false ∧ busySt.allOps.isEmpty = true ∧ busySt.deltaDone lineage0 = true ∧ busySt.tileRead lineage0.root = false ∧
    ({ lineage0 with complete := true } : Lineage).settled = true :=
  ⟨by decide, by decide, by decide, by decide, by decide, by decide, by decide⟩

/-- An MLOAD whose page is unmapped stops at its quad. -/
def loadOp : TileOp :=
  { id := 5, g := ⟨⟨1, 0⟩, 0⟩, gang := 0, seq := 0, entry := { seq := 0, word := 0, exts := [], lanes := 1, ops := {}, flag := some 0, tpc := 72 }, frag := allLanes
    job := .mload 3 (ptr 0x90000 8 0 0 3 0) 0 16 }

theorem witness_TileProgress_quad : (({ tileSt with quads := [{ core := 0, quad := 0, queue := [loadOp] }] } : State).quadStop 0 0).any (fun y =>
    (y.2.2.2.2.1.op? 5 == some loadOp) && y.1 == loadOp && (y.2.2.2.2.1.group? ⟨⟨1, 0⟩, 0⟩).any (fun g => !g.frags.isEmpty)) = true := by decide +kernel

/-- A chunk of an adapter of this context, which nothing pins. -/
def chunk0 : AChunk := { core := 0, vif := 0, ctx := 0, dir := 0, id := 7, gen := 1, isB := false, c := 0, bytes := [], pins := [] }
def chunkSt : State := { st { fetchGroup with s := [(1, 7)] } { fetchLaunch with adirPtr := ptr 0 0 0 0 3 0 } with chunks := [chunk0] }

/-- No directory entry can be read: an APREF and an ASTAT find none. -/
theorem witness_AdapterInstructions :
    Met chunkSt [.aflush k0 (.id 1), .aflush k0 .all, .apref k0 (.a 1 2 255), .apref k0 (.b 1 2), .astat k0 (.id 3 1), .astat k0 (.cache 3)] ∧ chunk0.pinned = false ∧ { chunk0 with pins := [5] }.pinned = true ∧
    (∃ x, Issues chunkSt (.apref k0 (.b 1 2)) x ∧ (x.peekEntry 7 (chunkSt.setGroup x.g)).1 = none) := by
  refine ⟨met_of ?_, ?_, ?_, meets_prop ?_⟩ <;> decide

theorem witness_Collectives_rank : Met (st fetchGroup) [.rank k0 .rank 3, .rank k0 .size 3, .rank k0 (.coord 3) 3, .nbr k0 3 true 3 (.imm 1), .nbr k0 0 false 3 (.reg 4)] :=
  met_of (by decide)

/-- Two buffers of one float32 in the scratchpad: a1 the source, a2 the destination, a4 one that overlaps it. -/
def collGroup : Group :=
  { fetchGroup with a := [(1, ptr 0 0x0A 1 0 0 0), (2, ptr 4 0x0A 1 0 0 0), (3, ptr 8 4 1 0 0 0), (4, ptr 2 0x0A 1 0 0 0)], s := [(5, 1), (6, 4097), (7, 2)] }
def collSt : State := st collGroup

/-- What a COLL's pointers pass. -/
abbrev collPtrs (x : Ctx) (d s : AReg) : Prop :=
  (x.alone 0).checkPtr (collSt.setGroup x.g) (x.a .a s.val) true false = .ok () ∧ (x.alone 0).checkPtr (collSt.setGroup x.g) (x.a .d d.val) true true = .ok ()

theorem witness_Collectives :
    (∃ x, Issues collSt (.coll k0 .max 9 2 2 1 5) x ∧ x.leader 2 = none) ∧ (∃ x, Issues collSt (.coll k0 .max 9 0 2 10 5) x ∧ x.leader 0 = some 0 ∧ pValid (x.a .a 10) = false) ∧
    (∃ x, Issues collSt (.coll k0 .max 9 0 3 1 5) x ∧ collPtrs x 3 1 ∧ pFmt (x.a .a 1) ≠ pFmt (x.a .d 3)) ∧
    (∃ x, Issues collSt (.coll k0 .max 9 0 2 1 6) x ∧ collPtrs x 2 1 ∧ ¬(x.s .b 6 0).toNat ≤ 4096) ∧
    (∃ x, Issues collSt (.coll k0 .max 9 0 4 1 5) x ∧ collPtrs x 4 1 ∧ pBase (x.a .d 4) % 4 ≠ 0) ∧
    (∃ x, Issues collSt (.coll k0 .max 9 0 2 1 7) x ∧ collPtrs x 2 1 ∧ ¬(pBase (x.a .a 1) + 4 * 2 ≤ pBase (x.a .d 2))) ∧
    (∃ x, Issues collSt (.coll k0 .sum 9 0 2 1 5) x ∧ collPtrs x 2 1 ∧ (x.alone 0).inWindow (x.a .a 1) 0 4 = true ∧ (x.alone 0).inWindow (x.a .d 2) 4 4 = true ∧
      x.l.team = 1 ∧ allFoundB (x.locate (x.a .d 2) true (collElems 0 (x.a .d 2) 1) (collSt.setGroup x.g)).1 = true ∧
      allFoundB (x.locate (x.a .a 1) false (collElems 0 (x.a .a 1) 1) (collSt.setGroup x.g)).1 = true) := by
  refine ⟨meets_prop ?_, meets_prop ?_, meets_prop ?_, meets_prop ?_, meets_prop ?_, meets_prop ?_, meets_prop ?_⟩ <;> decide

/-- An accepted COLL of a team of two, and the other member's part. -/
def collReq : CollReq :=
  { ch := 9, inst := 0, g := ⟨⟨1, 0⟩, 0⟩, lead := 0, seq := 0, core := 0, op := .sum, fp := false, n := 1, dst := ptr 4 5 1 0 0 0, vals := [some 3], at_ := 0 }
def collPend : Pend := { entry := { seq := 0, word := 0, exts := [], lanes := 1, ops := {}, flag := some 0, tpc := 72 }, frag := allLanes, doing := .coll 9 }
def reduceSt : State := { st { collGroup with pend := [collPend] } { fetchLaunch with team := 2, key := 9 } with
  colls := [collReq], members := [{ valid := true, key := 9, vif := 0, ctx := 0, launch := 1, lbound := true }] }
def part1 : CollPart := { op := .sum, fp := false, vals := [some 4] }

theorem witness_Collectives_reduce : reduceSt.colls.find? (fun c => c.ch == 9) = some collReq ∧
    (reduceSt.collCtx collReq).any (fun x => allFoundB (({ x with g := { x.g with core := 0 } } : Ctx).locate collReq.dst true (collElems 0 collReq.dst 1) reduceSt).1) = true ∧
    (collReq.result reduceSt.tick [part1] 0).isSome = true ∧ (reduceSt.group? collReq.g).any (fun g => (g.frag? 0).any (fun f => decide (f.since ≤ collReq.seq))) = true ∧ (reduceSt.member? 9).isSome = true := by decide

/-- A launch record's pointer, one that is misaligned, and one too short; a group that waits at CJOIN; and a registered checkpoint set, one with
a cut, and one whose last granule has been copied. -/
def spawnGroup : Group := { fetchGroup with a := [(1, ptr 0x10000 0 0 0 3 0), (2, ptr 0x10020 0 0 0 3 0), (3, ptr 0x10000 0 0 0 3 0 639)] }
def spawnSt : State := memSt spawnGroup

theorem witness_ChildrenAndCheckpoints_spawn :
    (∃ x, Issues spawnSt (.spawn k0 3 6 1) x ∧ x.leader 6 = none) ∧ (∃ x, Issues spawnSt (.spawn k0 3 0 10) x ∧ x.leader 0 = some 0 ∧ pValid (x.a .a 10) = false) ∧
    (∃ x, Issues spawnSt (.spawn k0 3 0 2) x ∧ (x.alone 0).checkPtr (spawnSt.setGroup x.g) (x.a .a 2) true false = .ok () ∧ pBase (x.a .a 2) % 64 ≠ 0) ∧
    (∃ x, Issues spawnSt (.spawn k0 3 0 3) x ∧ (x.alone 0).checkPtr (spawnSt.setGroup x.g) (x.a .a 3) true false = .ok () ∧ pLen (x.a .a 3) < 640) ∧
    (∃ x, Issues spawnSt (.spawn k0 3 0 1) x ∧ (x.alone 0).checkPtr (spawnSt.setGroup x.g) (x.a .a 1) true false = .ok () ∧ pBase (x.a .a 1) % 64 = 0 ∧ 640 ≤ pLen (x.a .a 1)) ∧
    (∃ x, Issues spawnSt (.cjoin k0 3) x ∧ x.c.inj = none) := by
  refine ⟨meets_prop ?_, meets_prop ?_, meets_prop ?_, meets_prop ?_, meets_prop ?_, meets_prop ?_⟩ <;> decide

def cjoinGroup : Group := { fetchGroup with frags := [{ lanes := allLanes, pc := 80, wait := .cjoin 3 }] }
theorem witness_ChildrenAndCheckpoints_cjoin :
    ((st cjoinGroup).block? ⟨1, 0⟩).any (fun b => decide (b.place = .resident) && b.children.isEmpty) = true ∧ (st cjoinGroup).allAt ⟨1, 0⟩ Frag.atCjoin = true ∧
    ((st cjoinGroup).groupsOf ⟨1, 0⟩).any (fun g => g.frags.any Frag.atCjoin) = true := by decide

def ckpt0 : CkptSet := { regions := [(0, 65536)], pages := (List.range 16).map (16 + ·), dest := ptr (2 ^ 45) 0 3 0 4 0 65536, dirty := [0], passed := [2048] }
def cut0 (todo : List Nat) : Cut := { seq := 1, todo, changed := [] }
def ckptSt (c : CkptSet) : State := { memSt with vifs := [(0, { accept := some 8191, ckpt := some c })] }

theorem witness_ChildrenAndCheckpoints_ckpt : Met (ckptSt ckpt0) [.ckpt k0 4] ∧ Met (st fetchGroup) [.ckpt k0 4] ∧ ((ckptSt ckpt0).vif 0).ckpt = some ckpt0 ∧ ckpt0.cut = none ∧
    ((ckptSt { ckpt0 with cut := some (cut0 [0]) }).vif 0).ckpt.any (fun c => c.cut == some (cut0 [0])) = true ∧ (cut0 [0]).todo.contains 0 = true ∧ (cut0 [0]).changed.contains 0 = false ∧
    (ckptSt ckpt0).launch? 0 = none ∧ (ckptSt ckpt0).feature 0 8 = true ∧ (ckptSt ckpt0).readSet 0 64 = none := ⟨met_of (by decide), met_of (by decide), by decide⟩

/-- A walk that ends in a page, of three levels of table entries in the die's cache, and one that ends in a fault. -/
def walkSt : State := { memSt with
  vifs := [(0, { accept := some 8191, roots := [(0, 0x4000)] })]
  tlbs := [{ unit := .rdc 0, vif := 0, ctx := 0, level := 5, va := 0, entry := 2 ^ 63 + 0x5000 }, { unit := .rdc 0, vif := 0, ctx := 0, level := 4, va := 0, entry := 2 ^ 63 + 0x6000 },
    { unit := .rdc 0, vif := 0, ctx := 0, level := 4, va := 1, entry := 0 },
    { unit := .rdc 0, vif := 0, ctx := 0, level := 3, va := 0, entry := 2 ^ 63 + 2 ^ 62 + 2 ^ 60 + 2 ^ 8 + 2 ^ 7 }] }

/-- A CKPT finds the set as its release leaves it; a granule that is to be written to a peer; and a descriptor at 64 KiB of one region of 64 KiB, its
destination in host memory. -/
def descBytes : List Byte := leBytes 16 (ptr 0x40000 0 4 0 3 0 65536).toNat ++ List.replicate 16 0 ++ [1] ++ List.replicate 31 0 ++ leBytes 16 (65536 * 2 ^ 64)
def descSt : State := { walkSt with caches := [
  { id := .l2 0, poison := [], bytes := ((List.range 96).map (0x10000 + ·)).zip (descBytes.map (fun b => { val := b, dirty := false, vif := 0 }) ++
    List.replicate 16 { val := 0, dirty := false, vif := 0 }) }] }

theorem witness_ChildrenAndCheckpoints_cut :
    meets (ckptSt ckpt0) (.ckpt k0 4) (fun x => decide (x.l.vif = 0 ∧ ((((ckptSt ckpt0).setGroup x.g).release x.g.core 3).vif 0).ckpt = some ckpt0)) = true ∧
    meets (st fetchGroup) (.ckpt k0 4) (fun x => decide ((((st fetchGroup).setGroup x.g).release x.g.core 3).vif 0).ckpt.isNone) = true ∧
    pPeer ckpt0.dest = true ∧ memSt.portsFailed.length < 12 ∧ (descSt.readSet 0 0x10000).isSome = true ∧ descSt.feature 0 8 = true := by decide +kernel

/-- A passed sector that the patrol rewrites. -/
theorem witness_ChildrenAndCheckpoints_rekey : (0, (ckptSt ckpt0).vif 0) ∈ (ckptSt ckpt0).vifs ∧ 2048 ∈ ckpt0.passed ∧
    sget (ckptSt ckpt0).band 2048 = some (band0 2048) ∧ (band0 2048).tagOk 2048 = true ∧ (ckptSt ckpt0).answers 2048 = true ∧ (ckptSt ckpt0).versionOk 0 0 = true := by decide

/-- An MLOOP.ad whose steps are done and whose lowest row owes its term, with the chunks of its adapter in the core's cache; and one whose fill
is due. -/
def adEnt0 : AdEnt := { id := 7, gen := 1, rank := 1, alpha := 0x3F800000, slot := 0, ldn := 16, aptr := ptr 0x10000 8 0 0 3 0, bptr := ptr 0x10000 8 0 0 3 0 }
def adOp (rows : Lanes) (n : Nat) (ads : List AdEnt) : TileOp :=
  { id := 5, g := ⟨⟨1, 0⟩, 0⟩, gang := 0, seq := 0, entry := { seq := 0, word := 0, exts := [], lanes := allLanes, ops := {}, flag := some 0, tpc := 72 }, frag := allLanes
    job := .mloop ⟨2, .ptr 1 1 (some (v 40)), 1, 8, false, 0, 0, 16, 0, 0, 0⟩ (ptr 0 8 1 0 0 0) { fmt := 8, scale := 0, sptr := 0 } { fmt := 8, scale := 0, sptr := 0 } 0 0
      (List.replicate 64 7) ads 0 0
    begun := true, step := n, owed := 1, rows }
def adChunk (isB : Bool) : AChunk := { core := 0, vif := 0, ctx := 0, dir := 0, id := 7, gen := 1, isB, c := 0, bytes := List.replicate 128 (some 0), pins := [5] }
def adSt (o : TileOp) : State := { tileSt with quads := [{ core := 0, quad := 0, queue := [o] }], chunks := [adChunk false, adChunk true] }

theorem witness_AdapterInstructions_row :
    ((adOp 0 1 [adEnt0]).mjob.any (fun j => ((adSt (adOp 0 1 [adEnt0])).opCtx (adOp 0 1 [adEnt0])).any (fun x => (adOp 0 1 [adEnt0]).nextRow j == some 0 &&
      (j.ads.find? (fun e => e.id == j.ids.getD 0 0)).any (fun e => match (adSt (adOp 0 1 [adEnt0])).adTerm x (adOp 0 1 [adEnt0]) j e 0 with
        | (.ok vs, t) => (t.block? ⟨1, 0⟩).isSome && vs.length == 16 && (x.blockCheck j.x.rc t).1
        | _ => false)))) = true := by decide +kernel

/-- A row of an id that has been filled is replayed too. -/
theorem witness_AdapterInstructions_pending : (adOp 1 1 [adEnt0]).mjob.any (fun j => { adOp 1 1 [adEnt0] with filled := [7] }.nextRow j == some 0 && (adOp 1 1 [adEnt0]).nextRow j == none) = true := by
  decide +kernel

theorem witness_AdapterInstructions_fill :
    ((adOp 1 0 []).mjob.any (fun j => ((adSt (adOp 1 0 [])).opCtx (adOp 1 0 [])).any (fun x =>
      ((adSt (adOp 1 0 [])).fillNext x (adOp 1 0 []) j).isNone &&
        (match ({ adSt (adOp 1 0 []) with chunks := [] }.fillId x (adOp 1 0 []) j adEnt0).1 with | .error _ => true | .ok _ => false)))) = true ∧
    ((adOp 1 0 [adEnt0]).mjob.any (fun j => ((adSt (adOp 1 0 [adEnt0])).opCtx (adOp 1 0 [adEnt0])).any (fun x =>
      (((adSt (adOp 1 0 [adEnt0])).fillNext x (adOp 1 0 [adEnt0]) j).any (fun y => y.1 == 7 && y.2.op? 5 == some (adOp 1 0 [adEnt0])))))) = true := by decide +kernel

/-! ### The memory controllers, the package, and the rest of the device -/

/-- A sector whose stored symbols hold an error, or that is poisoned; a home L2 that holds a dirty byte of it; a bank at its limit; a miss of a
core; and a line that one image fills. -/
def bandSt (code : Nat) (poison : Bool) : State := { memSt with band := [(2048, { band0 2048 with poison, code })] }
def homeSt (poison : Bool) : State := { bandSt 0 poison with caches := [{ id := .l2 0, bytes := [(65536, { val := 7, dirty := true, vif := 0 })], poison := [] }] }
def bankSt : State := { memSt with chans := [(0, { postponed := [(5, 8)] })], mshrs := [{ core := 0, vif := 0, line := 1024, secs := [2048, 2049] }] }
def imageSt : State := { stc fetchGroup with ilines := [line0, { line0 with line := 1 }] }

theorem witness_MemoryController :
    ([0, 1, 2].all (fun e => (sget (bandSt e false).band 2048).any (fun b => b.code == e && !b.poison && !b.dead && b.tagOk 2048)) && (sget (bandSt 0 true).band 2048).any (fun b => b.poison)) = true ∧
    (memSt.inSet 2048 = false ∧ memSt.answers 2048 = true ∧ secIsHost 2048 = false ∧ (ckptSt { ckpt0 with pages := [65536] }).inSet 2048 = true) ∧
    sget ((homeSt false).cache (.l2 (homeDie 2048))).bytes (32 * 2048 + 0) = some { val := 7, dirty := true, vif := 0 } ∧
    ((homeSt false).memPoisoned 0 2048 = false ∧ (homeSt true).memPoisoned 0 2048 = true) ∧
    sgetD (bankSt.chan 0 0).postponed 5 0 = 8 ∧ (bankSt.missesOf 0).find? (fun m => m.secs.contains 2049 || (m.line == 2049 / 2 && bankSt.missBare m)) = some { core := 0, vif := 0, line := 1024, secs := [2048, 2049] } ∧
    (let bare : State := { memSt with mshrs := [{ core := 0, vif := 0, line := 1024, secs := [] }] };
      (bare.missesOf 0).find? (fun m => m.secs.contains 2049 || (m.line == 2049 / 2 && bare.missBare m)) = some { core := 0, vif := 0, line := 1024, secs := [] }) ∧
    ((dirtySt.cache (.l1 0)).holds (2 * 1024) = true ∧ sget (dirtySt.cache (.l1 0)).bytes (32 * 2048 + 0) = some { val := 7, dirty := true, vif := 0 } ∧
      (dirtySt.cache (.cl (clusterOf 0))).poisoned 2048 = false) ∧
    ((stc fetchGroup).imagesAt 0 9).isEmpty = true := by decide

theorem witness_RepairAndKeys :
    ((memSt.chan 3 63).copyA = some [] ∧ (memSt.chan 3 63).copyB = some [] ∧ (memSt.liveOf 3).contains 63 = true ∧ (memSt.chan 3 63).retired = false ∧ (memSt.chan 3 63).master = some []) ∧
    (({ memSt with chans := [(255, { copyA := none, copyB := none, master := none })] } : State).chan 3 63).master = none ∧
    memSt.masterAt 3 63 = 31 ∧ (memSt.dieMapped 0 = true ∧ memSt.dieMapped 3 = false) ∧ 48 < (memSt.liveOf 3).length ∧
    (({ memSt with live := [[], [], [], List.range 48] } : State).liveOf 3).length ≤ 48 ∧
    ({ memSt with vifs := [(0, { hasPrev := true, kver := 1 })] } : State).versionOk 0 0 = true ∧ (memSt.vif 0).hasPrev = false ∧ memSt.recovery = false ∧
    ({ memSt with vifs := [(0, { hasPrev := true, kver := 1 })] } : State).carriesOld 0 = true ∧ (band0 2048).dead = false := by decide

/-- A fragment that sleeps on a fault record alone. -/
def faultFrag : Frag := { lanes := allLanes, pc := 72, wait := .fault [(4, 1)] 0 false 0 }
def faultGroup : Group := { memGroup with frags := [faultFrag] }
def faultRec0 : FaultRec := { tag := 4, vif := 0, ctx := 0, va := 0x90000, kind := .read, cause := 0, launch := 1, source := 0, die := 0, block := 0, time := 0 }
def faultSt : State := { memSt faultGroup with vifs := [(0, { accept := some 8191, faults := [faultRec0] })] }

theorem witness_TranslationAndFaults :
    ((walkSt.translate { vif := 0, ctx := 0, tgt := 2, write := false, fetch := false } (coreTlbs 0) 0 0x10000).1 = .ok 0x10000 3 ∧
      (coreTlbs 0).all (fun u => [1, 6, 2, 3].all (fun level => (walkSt.tlb? u 0 0 level 0x10000).isNone)) = true ∧
      (memSt.translate { vif := 0, ctx := 0, tgt := 2, write := false, fetch := false } (coreTlbs 0) 0 0x90000).1 = .fault 0) ∧
    ((faultSt.vif 0).faults.find? (fun f => f.tag == 4) = some faultRec0 ∧ (faultSt.vifGroups 0).all (fun g => g.pend.isEmpty) = true ∧ faultSt.copies = [] ∧ faultSt.peerWaits.isEmpty = true ∧
      faultGroup.frags.Pairwise (fun a b => a.lanes &&& b.lanes = 0)) := by decide

/-- A clean and a dirty copy under a snoop, and a filter's entry; a ring with a failed link, and one that is split; a launch whose log is due. -/
def snoopSt (dirty : Bool) : State := { memSt with
  snoops := [{ src := 0, die := 1, sector := 2048, at_ := 0 }], filters := [(0, 64)], linksFailed := [3]
  caches := [{ id := .rdc 1, bytes := [(65536, { val := 7, dirty, vif := 0 })], poison := [] }] }
def logEntry1 : LogEntry := { logEntry0 with thread := 1 }
def logSt : State := { memSt memGroup { memLaunch with ending := true } with blocks := [{ ref := ⟨1, 0⟩, cores := [0], place := .exited, log := [logEntry1, logEntry0] }] }

theorem witness_PackageEvents :
    (snoopSt true).snoopHeads.find? (fun x => x.die == 1 && x.sector == 2048) = some { src := 0, die := 1, sector := 2048, at_ := 0 } ∧
    ((snoopSt true).cache (.rdc 1)).dirty 2048 ≠ [] ∧ ((snoopSt false).cache (.rdc 1)).dirty 2048 = [] ∧ ((snoopSt false).cache (.rdc 1)).bad = [] ∧
    (({ memSt with caches := [{ id := .rdc 1, bytes := [], poison := [2048], bad := [(2048, 0)] }] } : State).cache (.rdc 1)).bad = [(2048, 0)] ∧ (0, 64) ∈ (snoopSt true).filters ∧
    0 ∈ (snoopSt true).route (homeDie 2048) 1 ∧ 3 ∈ (snoopSt true).linksFailed ∧
    ({ memSt with linksFailed := [0, 1] } : State).cutOff.all ([] : List Nat).contains = false ∧ memSt.cutOff = [] ∧
    (logSt.launch? 1).any (fun l => logSt.logDue l) = true ∧ (memSt.launch? 1).any (fun l => memSt.logDue l) = false := by decide

/-- A member key that is bound to a launch; a peer's load of a mapped word, and of one that is not; an access that waits for a peer, and one for
the host. -/
def member0 : Member := { valid := true, key := 9, vif := 0, ctx := 0, launch := 1, lbound := true }
def peerSt (host : Bool) : State := { walkSt with
  members := member0 :: List.replicate 63 {}
  groups := [{ memGroup with pend := [{ collPend with entry := { collPend.entry with word := word 0x300 1 (if host then 3 else 4) 0 0 0 4 }, doing := .response 6 }] }]
  requests := [{ id := 6, g := ⟨⟨1, 0⟩, 0⟩, seq := 0, rank := 1, at_ := 0, host, key := 9, accs := [] }] }

theorem witness_PeerTraffic :
    ((peerSt false).member? 9 = some member0 ∧ (peerSt false).member? 8 = none ∧ (match ((peerSt false).peerFind member0 [{ va := 0x10000, op := .load 1 }]).1 with | .at_ ks => ks == [[0x10000]] | _ => false) = true ∧
      (match ((peerSt false).peerFind member0 [{ va := 2 ^ 39, op := .load 1 }]).1 with | .fault va _ _ => va == 2 ^ 39 | _ => false) = true) ∧
    [true, false].all (fun host => ((peerSt host).request? 6).any (fun r => r.host == host && r.answer.isNone && ((peerSt host).member? r.key).isSome && ((peerSt host).group? r.g).any (fun g =>
      (g.pend.find? (fun p => p.doing == .response 6)).any (fun p => p.res.isEmpty && p.trap.isNone && (p.frag &&& g.running != 0) && g.frags.all (fun f => decide (f.since ≤ p.entry.seq)) && (!host || (peerSt host).hostTurn r) && ((peerSt host).entryCtx g { lanes := p.frag, pc := 0 } p.entry).isSome &&
        decide (decodeInstr 3 p.entry.word p.entry.exts = .ok (.ld k0 .x2 false .none (.v 1) (if host then 3 else 4) .none)))))) = true := by decide

/-- An earlier store of the group to the host holds back a later one; an interface with ATS, and one without. -/
theorem witness_PeerTraffic_turn :
    (let w := fun (id seq : Nat) => ({ id, g := ⟨⟨1, 0⟩, 0⟩, seq, rank := 1, at_ := 0, host := true, key := 9, accs := [{ va := 8, op := .store [1] }] } : Request);
      ({ peerSt true with requests := [w 5 0, w 6 1] } : State).hostTurn (w 6 1) = false ∧ ({ peerSt true with requests := [w 5 0, w 6 1] } : State).hostTurn (w 5 0) = true) ∧
    (({ peerSt true with vifs := [(0, { ats := true })] } : State).vif 0).ats = true ∧ ((peerSt true).vif 0).ats = false ∧ (peerSt true).recovery = false := by decide

/-- A launch whose block waits for its turn; a block that waits at CJOIN, resident and evicted; a launch that has ended; and launch rings. -/
def placeSt : State := { st fetchGroup { fetchLaunch with placed := 0 } with groups := [], blocks := [], vifs := [(0, { accept := some 8191, poolLen := 33024 })] }
def resideSt : State := { st cjoinGroup with vifs := [(0, { accept := some 8191, poolLen := 2 ^ 30 })], blocks := [{ ref := ⟨1, 0⟩, cores := [0], children := [2] }] }
def leftSt (place : Place) (children : List Nat) : State :=
  { resideSt with groups := [], blocks := [{ ref := ⟨1, 0⟩, cores := [0], children, place, saved := [cjoinGroup] }] }
def endedSt : State := { st fetchGroup { fetchLaunch with ending := true, status := 3 } with groups := [], blocks := [] }
def ring0 (running : Option Nat) (entries : List Nat) : LQueue := { q := 3, k := 4, ctx := 0, entries, running }
def ringsSt (q : LQueue) : State := { memSt with vifs := [(0, { accept := some 8191, queues := [q] })] }

theorem witness_LaunchLife_start : (memSt.vif 5).accept = none ∧ (ringsSt (ring0 none [33])).vifs.length = 1 ∧
    ((ringsSt (ring0 none [33])).vif 0).queues.find? (fun q => q.q == 3) = some (ring0 none [33]) ∧ (ring0 none [33]).running = none ∧ (33 % 2 ^ 57) % 64 ≠ 0 ∧
    ((ringsSt (ring0 none [64])).readLaunch 0 0 64 none).1 = 0x10 ∧ (ring0 (some 1) [64]).running ≠ none := by decide

theorem witness_LaunchLife_place : placeSt.turn.map (·.1) = some ⟨1, 0⟩ ∧ (placeSt.block? ⟨1, 0⟩).isNone = true ∧
    (leftSt (.evicted true) []).turn.map (·.1) = some ⟨1, 0⟩ ∧ (leftSt (.evicted true) []).allOps.isEmpty = true ∧ [cjoinGroup].Pairwise (fun a b => a.ref ≠ b.ref) ∧
    resideSt.turn.isNone = true := by decide +kernel

theorem witness_LaunchLife_evict : (resideSt.block? ⟨1, 0⟩).any (fun b => resideSt.evictable b) = true ∧ ((st fetchGroup).block? ⟨1, 0⟩).any (fun b => (st fetchGroup).evictable b) = false ∧
    ((leftSt (.evicted false) []).block? ⟨1, 0⟩).any (fun b => (leftSt (.evicted false) []).awake b cjoinGroup { lanes := allLanes, pc := 80, wait := .cjoin 3 }) = true ∧
    ((leftSt (.evicted false) [2]).block? ⟨1, 0⟩).any (fun b => (leftSt (.evicted false) [2]).awake b cjoinGroup { lanes := allLanes, pc := 80, wait := .cjoin 3 }) = false := by
  decide +kernel

theorem witness_LaunchLife_end : (endedSt.launch? 1).any (fun l => endedSt.completes l && l.ending && l.stat == 0) = true ∧
    ((st fetchGroup).launch? 1).any (fun l => !(st fetchGroup).completes l && !l.ending) = true := by decide +kernel

/-- An expired watchdog; a ring that is full, and one with room, each with a record; a lane-cycle record; and a mapped window page. -/
def trace0 : TraceRec := { time := 0, source := 0, kind := 1, name := 0, pc := 72, payload := 0 }
def hostSt (slots : Nat) : State := { st fetchGroup { fetchLaunch with laneRec := some { starts := [64, 128], counters := [] } } with
  groups := [{ fetchGroup with seq := 1 }], time := 5000000, windowPages := [(3, 2 ^ 21, 0)]
  vifs := [(0, { accept := some 8191, wdLimit := 5, wdSince := some 0, ringSlots := slots, trace := [trace0], debugger := true })] }

theorem witness_HostSettings :
    ((hostSt 0).vif 0).wdExpired 5000000 = true ∧ ((hostSt 0).vif 0).wdExpired 4999999 = false ∧ (hostSt 0).feature 0 9 = true ∧ (hostSt 0).feature 5 9 = false ∧
    ((hostSt 0).vif 0).ringSlots ≤ ((hostSt 0).vif 0).ringUsed ∧ ¬((hostSt 1).vif 0).ringSlots ≤ ((hostSt 1).vif 0).ringUsed ∧ (hostSt 0).recovery = false ∧
    (hostSt 0).poolUsed 5 = 0 ∧ (hostSt 0).windowAt (3 * 2 ^ 21 + 5) = some (2 ^ 21 + 5, 0) ∧ (hostSt 0).windowAt 5 = none ∧ (hostSt 0).lostDies.contains (homeDie ((2 ^ 21 + 5) / 32)) = false ∧
    (hostSt 0).feature 0 10 = true ∧ (((hostSt 0).counted 0 0).any (fun g => (chooseFrag g.frags).isSome)) = true := by decide +kernel

/-- The words at a header, and at the instruction after it. -/
theorem witness_HostSettings_idle :
    (match (({ hostSt 0 with ilines := [line0] } : State).fetch 0 fetchLaunch 64).1, (({ hostSt 0 with ilines := [line0] } : State).fetch 0 fetchLaunch 72).1 with
      | .word w, .word y => wordKind w == 3 && wordKind y == 0
      | _, _ => false) = true ∧ ((hostSt 0).counted 0 0).any (fun g => (chooseFrag g.frags).any (fun f => f.inject.isEmpty)) = true := by decide +kernel

/-- A stopped group of an interface with a debugger. -/
theorem witness_HostSettings_debug : ((dbgSt stopGroup).group? ⟨⟨1, 0⟩, 0⟩).any (fun g => g.frags.any (fun f => f.stopped)) = true ∧ ((dbgSt stopGroup).vif 0).debugger = true ∧
    ((dbgSt fetchGroup).group? ⟨⟨1, 0⟩, 0⟩).any (fun g => g.frags.all (fun f => !f.stopped)) = true := by decide

theorem witness_ResetsAndPower : ({ memSt with recovery := true } : State).recovery = true ∧ memSt.recovery = false ∧ (memSt.bounds 63).1 ≤ (memSt.bounds 63).2 ∧
    sget memSt.band 2048 = some (band0 2048) ∧ sget (dirtySt.cache (.l1 0)).bytes 65536 = some { val := 7, dirty := true, vif := 0 } ∧
    memSt.caches = [] := by decide

/-- A partition that issues the instruction word placed at its fragment, and an entry that runs again. -/
def issueSt : State := State.withFetchWord State.reset 64 (word 0x102 1 2 3 0 0 0)
def injectFrag : Frag := { handledFrag with inject := [{ seq := 3, word := word 0x102 1 2 3 0 0 0, exts := [], lanes := 1, ops := {}, flag := none, tpc := 64 }] }
def injectSt : State := { st { fetchGroup with frags := [injectFrag] } with agenda := [.issue 0 0] }

theorem witness_StepRunsDecoded :
    ((issueSt.begin.chooseGroup (issueSt.begin.eligibleGroups 0 0)).any (fun g => (chooseFrag (issueSt.begin.eligibleFrags g)).any (fun f =>
      decide (f.inject = []) && f.clause.isSome && (issueSt.begin.next g f).isSome && (issueSt.begin.launch? 1).any (fun l => l.inCode f.pc &&
        (match issueSt.begin.fetch 0 l f.pc with
          | (.word w, t) => wordKind w == 0 && decide (decodeHead 3 w = .ok 0) && l.fits (.vadd k0 .wrap 1 (v 2) (v 3)) &&
            decide (decodeFront 3 w = .ok (.vadd k0 .wrap 1 (v 2) (v 3))) && decide (decodeInstr 3 w [] = .ok (.vadd k0 .wrap 1 (v 2) (v 3))) &&
            !(Instr.vadd k0 .wrap 1 (v 2) (v 3)).setsFlag && (match (t.fetchExts 0 l 576 0 80).1 with | some (.ok []) => true | _ => false)
          | _ => false))))) = true ∧ issueSt.begin.pressing.isNone = true ∧ issueSt.agenda = [.issue 0 0] ∧
    ((injectSt.begin.chooseGroup (injectSt.begin.eligibleGroups 0 0)).any (fun g => (chooseFrag (injectSt.begin.eligibleFrags g)).any (fun f => match f.inject with
      | e :: _ => !e.bad && !e.mtx && e.peer.isNone && decide (decodeInstr 3 e.word e.exts = .ok (.vadd k0 .wrap 1 (v 2) (v 3)))
      | [] => false))) = true := by decide +kernel

/-- A set of a core's L1 that holds one line more than its ways. -/
def pressedSt : State := { st fetchGroup with caches := [{ id := .l1 0, poison := [], bytes := (List.range 17).map (fun k => (2 ^ 17 * k, { val := 0, dirty := false, vif := 0 })) }] }
theorem witness_StepRunsDecoded_pressing : pressedSt.begin.pressing.isSome = true := by decide +kernel

theorem witness_DecodeEncode : (Instr.mloop k0 (mloop0 1)).ctl = some k0 ∧ (Instr.mloop k0 (mloop0 1)).wellFormed = true ∧ (Instr.sread k0 0x012 (.s 124)).wellFormed = true := by decide

/-- A step from a state whose memories keep their form. -/
theorem witness_StepKeepsMemoryForm : MemOk issueSt ∧ ∃ t, step issueSt = .next t := by
  refine ⟨⟨by decide, by decide⟩, ?_⟩
  have : (match step issueSt with | .next _ => true | _ => false) = true := by decide +kernel
  split at this
  · exact ⟨_, by assumption⟩
  · cases this

/-! ### Single steps, against values that the spec prints or that its rules give by hand -/

/-- A vector register's lane, a uniform register, a predicate's lane and a window byte after an instruction, whatever it left under way done. -/
def vOut (s : State) (i : Instr) (r l : Nat) : Option Nat := match exec i s with
  | .next t => (t.group? ⟨⟨1, 0⟩, 0⟩).map (fun g => ((g.pend.foldl (fun (h : Group) p => p.res.foldl Group.put h) g).vcell r l).toNat)
  | _ => none
def sOut (s : State) (i : Instr) (r : Nat) : Option Nat := match exec i s with
  | .next t => (t.group? ⟨⟨1, 0⟩, 0⟩).map (fun g => ((g.pend.foldl (fun (h : Group) p => p.res.foldl Group.put h) g).scell r).toNat)
  | _ => none
def pOut (s : State) (i : Instr) (r l : Nat) : Option Bool := match exec i s with
  | .next t => (t.group? ⟨⟨1, 0⟩, 0⟩).map (fun g => ((g.pend.foldl (fun (h : Group) p => p.res.foldl Group.put h) g).pcell r).getLsbD l)
  | _ => none
def wOut (s : State) (i : Instr) (k : Nat) : Option Nat := match exec i s with
  | .next t => (t.winRead ⟨1, 0⟩ k).map (·.toNat)
  | _ => none
/-- The PC of lane 0's fragment, and its handler mode. -/
def pcOut (s : State) (i : Instr) : Option (Nat × Bool) := match exec i s with
  | .next t => ((t.group? ⟨⟨1, 0⟩, 0⟩).bind (fun g => g.frag? 0)).map (fun f => (f.pc, f.handler))
  | _ => none

/-- A state whose v2 and v3 hold a value in every lane, and v4 each lane's number plus 1. -/
def vSt (x y : Word) : State := st { fetchGroup with v := [(2, List.replicate 64 x), (3, List.replicate 64 y), (4, (List.range 64).map (fun l => BitVec.ofNat 32 (l + 1)))] }
/-- A state whose s2 to s7 hold some values. -/
def sSt (xs : List Word) : State := st { fetchGroup with s := ((List.range xs.length).map (2 + ·)).zip xs |>.filter (fun y => y.2 != 0) }

/-- R265: the sum wraps, saturates, and carries. -/
theorem test_vadd : vOut (vSt 0xFFFFFFFF 2) (.vadd k0 .wrap 1 (v 2) (v 3)) 1 63 = some 1 ∧ vOut (vSt 0x7FFFFFFF 1) (.vadd k0 .sats 1 (v 2) (v 3)) 1 0 = some 0x7FFFFFFF := by decide
theorem test_vsub : vOut (vSt 1 2) (.vsub k0 .satu 1 (v 2) (v 3)) 1 0 = some 0 ∧ vOut (vSt 1 2) (.vsub k0 .wrap 2 (v 2) (v 3)) 2 0 = some 0xFFFFFFFF := by decide
theorem test_vaddc : pOut (vSt 5 5) (.vaddc k0 true 1 5 (v 2) (v 3) none) 5 0 = some true ∧ vOut (vSt 5 6) (.vaddc k0 true 1 5 (v 2) (v 3) none) 1 0 = some 0xFFFFFFFF := by decide
/-- Table 12-8: v8 and v10. -/
theorem test_vmulh : vOut (vSt 0xFFFFFFFF 0xFFFFFFFF) (.vmulh k0 false 8 (v 2) (v 3)) 8 0 = some 0 ∧ vOut (vSt 0xFFFFFFFF 0xFFFFFFFF) (.vmulh k0 true 10 (v 2) (v 3)) 10 0 = some 0xFFFFFFFE := by
  decide
theorem test_vmad : vOut (vSt 3 5) (.vmad k0 false 1 (v 2) (v 3) (v 4)) 1 9 = some 25 ∧ vOut (vSt 0x10000 0x10000) (.vmul k0 false 1 (v 2) (v 3)) 1 0 = some 0 := by decide
/-- R285: a failed check ends the instruction in SOFTERR with no result. -/
theorem test_softerr : (match exec (.vmul k0 true 1 (v 2) (v 3)) { vSt 3 5 with strikes := strike2 } with
    | .next t => (t.group? ⟨⟨1, 0⟩, 0⟩).map (fun g => g.pend.map (fun p => (p.trap.map (fun u => (u.cause, u.lanes)), p.res.length)))
    | _ => none) = some [(some (.softerr, 4), 0)] := by decide
/-- R267: a count of the width or more. -/
theorem test_shifts : vOut (vSt 0x80000000 32) (.vshl k0 1 (v 2) (v 3)) 1 0 = some 0 ∧ vOut (vSt 0x80000000 40) (.vsar k0 1 (v 2) (v 3)) 1 0 = some 0xFFFFFFFF ∧
    vOut (vSt 0x80000000 31) (.vshr k0 1 (v 2) (v 3)) 1 0 = some 1 := by decide
/-- R269: a field of 8 bits at bit 4. -/
theorem test_bitfields : vOut (vSt 0x00000F80 0x0804) (.vbfe k0 true 1 (v 2) (v 3)) 1 0 = some 0xFFFFFFF8 ∧ vOut (vSt 0 0x0101) (.vbfi k0 1 (v 2) (v 4) (v 3)) 1 0 = some 2 := by decide
theorem test_vclz : vOut (vSt 0 0) (.vclz k0 1 (v 2)) 1 0 = some 32 ∧ vOut (vSt 0xF000000F 0) (.vpopc k0 1 (v 2)) 1 0 = some 8 := by decide
theorem test_vabs : vOut (vSt 0x80000000 0) (.vabs k0 true 1 (v 2)) 1 0 = some 0x7FFFFFFF ∧ vOut (vSt 0x80000000 0) (.vneg k0 false 1 (v 2)) 1 0 = some 0x80000000 := by decide
theorem test_vcmp : pOut (vSt 0xFFFFFFFF 1) (.vcmp k0 .lt false 1 (v 2) (v 3)) 1 0 = some true ∧ pOut (vSt 0xFFFFFFFF 1) (.vcmp k0 .lt true 1 (v 2) (v 3)) 1 0 = some false := by decide
/-- R280 to R282. -/
theorem test_sadd : sOut (sSt [0xFFFFFFFF, 0, 1, 0]) (.sadd k0 .wrap true 6 2 4) 7 = some 1 ∧ sOut (sSt [0xFFFFFFFF, 1]) (.sadd k0 .satu false 6 2 3) 6 = some 0xFFFFFFFF := by decide
theorem test_smulh : sOut (sSt [0xFFFFFFFF, 2]) (.smulh k0 false 6 2 3) 6 = some 0xFFFFFFFF ∧ sOut (sSt [0xFFFFFFFF, 2]) (.smulh k0 true 6 2 3) 6 = some 1 := by decide
theorem test_ssar : sOut (sSt [0, 0x80000000, 63]) (.ssar k0 true 6 2 4) 7 = some 0xFFFFFFFF ∧ sOut (sSt [1, 0, 32]) (.sshl k0 true 6 2 4) 7 = some 1 := by decide
theorem test_sdivu : sOut (sSt [7, 0]) (.sdivu k0 false false 6 2 3) 6 = some 0xFFFFFFFF ∧ sOut (sSt [7, 0]) (.sdivu k0 true false 6 2 3) 6 = some 7 := by decide
theorem test_scmp : sOut (sSt [1, 0, 0, 1]) (.scmp k0 .gt true true (.s 6) 2 4) 6 = some 0 ∧ pOut (sSt [5, 5]) (.scmp k0 .ge false false (.p 1) 2 3) 1 63 = some true := by decide

/-- Table 12-8: v2, v3, v5 and v11. -/
theorem test_vfma : vOut (vSt 0x3F800001 0xBF800002) (.vfma k0 .f32 .rne false false false 2 (v 2) (v 2) (v 3)) 2 0 = some 0x28800000 := by decide
theorem test_vfmul : vOut (vSt 0x3F800001 0) (.vfmul k0 .f32 .rne false 3 (v 2) (v 2)) 3 0 = some 0x3F800002 ∧
    vOut (vSt 0x3F800001 0) (.vfmul k0 .f32 .rup false 5 (v 2) (v 2)) 5 0 = some 0x3F800003 := by decide
theorem test_vrcp : vOut (vSt 0x40800000 0) (.vrcp k0 .rne 11 (v 2)) 11 0 = some 0x3E800000 ∧ vOut (vSt 0x40800000 0) (.vsqrt k0 .f32 .rne 11 (v 2)) 11 0 = some 0x40000000 := by decide
/-- R251, Table 11-2: 500 saturates at the largest E4M3 number, 448, or is the NaN without saturation. -/
theorem test_vcvt : vOut (vSt 0x43FA0000 0) (.vcvt k0 .e4m3 .f32 .rne false 1 ⟨2, false⟩) 1 0 = some 0x7E ∧ vOut (vSt 0xC0200000 0) (.vcvt k0 .sint32 .f32 .rne false 1 ⟨2, false⟩) 1 0 = some 0xFFFFFFFE := by
  decide

/-- R228 to R231. -/
theorem test_lanes : sOut (vSt 0 0) (.v2s k0 (.imm 63) 1 ⟨4, false⟩) 1 = some 64 ∧ vOut (vSt 0 0) (.vshfl k0 (.by .up (.imm 3)) .w8 1 ⟨4, false⟩) 1 9 = some 10 := by decide
theorem test_vrot : vOut (vSt 0 0) (.vrot k0 .w8 1 ⟨4, false⟩ (.imm 3)) 1 14 = some 10 ∧ vOut (vSt 0 0) (.vshfl k0 (.by .xor (.imm 1)) .w64 1 ⟨4, false⟩) 1 62 = some 64 := by decide
theorem test_vredu : sOut (vSt 0 0) (.vredu k0 .add .w64 (.s 2) ⟨4, false⟩) 2 = some 2080 ∧ vOut (vSt 0 0) (.vscan k0 .add true .w16 1 ⟨4, false⟩) 1 18 = some 35 := by decide
/-- Table 10-7: PCNT.below counts the true lanes below; PMOV.ps takes lanes 32 up from the upper word. -/
theorem test_predicates : vOut (st { fetchGroup with p := [(1, 0b1011)] }) (.pcnt k0 (.below 7 1)) 7 3 = some 2 ∧ pOut (sSt [0, 1]) (.pmov k0 (.ps 1 2)) 1 32 = some true := by decide

/-- R160, R161: the bytes of a word lie in order; R163: a compare and swap. -/
theorem test_st : wOut (memSt { memGroup with v := [(3, [0x04030201])] }) (.st k0 .x1 false false .none 1 (.imm 2) (v 3)) 9 = some 2 := by decide
theorem test_ld : vOut { memSt with blocks := [{ ref := ⟨1, 0⟩, cores := [0], window := [(4, 0x80), (5, 0xFF)] }] } (.ld k0 .x1 false .none (.v 9) 1 (.imm 1)) 9 0 = some 0xFF80 := by decide
theorem test_atom : wOut (memSt { memGroup with v := [(30, [0]), (31, [9])] }) (.atom k0 .cas none 1 .none (v 30)) 0 = some 9 ∧
    vOut (memSt { memGroup with v := [(30, [7])] }) (.atom k0 .add (some (.v 9)) 1 .none (v 30)) 9 0 = some 0 := by decide
theorem test_padv : (match exec (.padv k0 1 2 (.imm 4096)) memSt with
    | .next t => (t.group? ⟨⟨1, 0⟩, 0⟩).map (fun g => (pBase (g.acell 1), pLen (g.acell 1), pValid (g.acell 1)))
    | _ => none) = some (0x11000, 0, true) := by decide

/-- Table 8-6: the record of the example, the address of box element (10, 1), and a fill byte below the matrix. -/
def record86 : Nat := 0x80007F0040000000 + 0x000C0480000927C0 * 2 ^ 64 + 0x000003E80000012C * 2 ^ 128 + 0x0000025800000000 * 2 ^ 256 + 0xF000000000000000 * 2 ^ 384 + 0x03FE001000000077 * 2 ^ 448
theorem test_layout : (layoutOf record86).size = [300, 1000] ∧ (layoutOf record86).box = [128, 8] ∧ layoutWf record86 [256, 996] = true ∧
    (match (layoutOf record86).byteAt [256, 996] 276 with | .ok n => n == 598732 | _ => false) = true ∧
    (match (layoutOf record86).byteAt [256, 996] 1025 with | .error b => b == 0xFF | _ => false) = true ∧ (layoutOf record86).last [256, 996] = some (8 * 600000) := by decide
/-- R182: the chunk lands in the tile. -/
theorem test_copy : wOut { copySt with copies := [copy0], hbm := [(0x10001, 5)] } (.copyChunkDone 7 0) 1025 = some 5 := by decide +kernel

/-- The element of 13's example: 448 and thirty-one values of 2⁻⁹, against ones and against 2⁻⁹, added in two steps. -/
theorem test_mtile :
    let row := (0x7E :: List.replicate 31 1).map (fun b => fpE4m3.value b)
    let s0 := blockSum row (List.replicate 32 (fpE4m3.value 0x38)) (.one unitScale) unitScale
    addNe s0 (blockSum row (List.replicate 32 (fpE4m3.value 1)) (.one unitScale) unitScale) = 0x43E077C4 := by decide

/-- R359: the neighbour wraps, or is none. -/
theorem test_nbr : sOut (st fetchGroup { fetchLaunch with rank := 3, team := 4, extents := [2, 2, 1, 1] }) (.nbr k0 0 false 5 (.imm 1)) 5 = some 2 ∧
    sOut (st fetchGroup { fetchLaunch with rank := 3, team := 4, extents := [2, 2, 1, 1] }) (.nbr k0 1 true 5 (.imm 1)) 5 = some 0xFFFFFFFF := by decide

/-- R371, R414, R415: a branch, and a TRAP with its handler at 64. -/
theorem test_bra : pcOut (stc at64) (.bra k0 64) = some (64, false) ∧ pcOut (stc handled) (.trap k0 1) = some (64, true) := by decide
/-- R423: back from the handler. -/
theorem test_eret : pcOut (stc (inHandler 80)) (.eret k0) = some (80, false) := by decide

/-- R77: a written byte that equals what an unlisted address reads as is not listed. -/
theorem test_memory : Memory.write [(5, 1)] 5 0 = [] ∧ Memory.read (Memory.write [(5, 1)] 3 2) 3 = 2 := by decide

/-- Tables 5-8, 27-3 and R455: the queue entries' bytes. -/
theorem test_queue_entries :
    Completion.bytes { time := 1, launch := 2, status := 1, queue := 15, seq := 7 } = [7, 0, 0, 0, 0xF0, 1, 2, 0, 1, 0, 0, 0, 0, 0, 0, 0] ∧
    (FaultRec.bytes { tag := 9, vif := 0, ctx := 0, va := 1, kind := .write, cause := 2, launch := 3, source := 5, die := 0, block := 0, time := 0 }).getD 24 0 = 0x92 ∧
    let e := ErrRec.bytes { time := 0, source := 87, kind := 5, launch := 0, arg := 3 }
    (e.getD 8 0, e.getD 10 0, e.getD 16 0, e.length) = (87, 5, 3, 320) := by decide

end Sys2Proof.Tests
end

/-! SUPPORT. The vector and scalar integer instructions (12 R265 to R270, R280 to R282): what the numbers of the arithmetic units
are as 32-bit words, what the common forms of a meaning give a statement, and the proofs of the statements about them. -/

namespace Sys2Proof.Proofs

open Sys2Proof Sys2Proof.Machine Sys2Proof.Laws

/-! ### From the common forms of a meaning to the words of a statement -/

/-- An instruction of the fixed-latency form yields what its results come to. -/
theorem yields_of_fixed {i : Instr} {lat : Nat} {f g : Ctx → List Res} (he : ∀ s, exec i s = s.fixed i lat f)
    (hv : ∀ x, f x = g x) : Yields i g := by
  intro s x hx
  rw [he s, ← hv x]
  exact fixed_done hx lat f

/-- A flag-covered instruction on registers that raises nothing and takes no trap is under way with its results. -/
theorem begins_of_covered {i : Instr} {f g : Ctx → List Res} (he : ∀ s, exec i s = s.covered i (fun x => { res := f x }))
    (hv : ∀ x, f x = g x) : Begins i (fun x => (g x, 0)) := by
  intro s x hx
  rw [he s, ← funext hv]
  exact covered_started hx _

/-- A vector result by its lanes: the number of each lane is the word that the statement names. -/
theorem yields_vec {i : Instr} {lat : Nat} {d : VReg} {f : Ctx → Nat → Nat} {g : Ctx → Nat → Word}
    (he : ∀ s, exec i s = s.fixed i lat (fun x => x.toV d (f x))) (hv : ∀ x l, BitVec.ofNat 32 (f x l) = g x l) :
    Yields i (fun x => vec x d (g x)) :=
  yields_of_fixed he (fun x => by simp only [Ctx.toV, vec, hv x])

/-- A predicate result by its lanes. -/
theorem yields_prd {i : Instr} {lat : Nat} {p : PReg} {f g : Ctx → Nat → Bool}
    (he : ∀ s, exec i s = s.fixed i lat (fun x => x.toP p (f x))) (hv : ∀ x l, f x l = g x l) :
    Yields i (fun x => prd x p (g x)) :=
  yields_of_fixed he (fun x => by rw [Ctx.toP, prd, funext (hv x)])

/-- A uniform result by its number. -/
theorem toS_eq_uni (w : Bool) (d : SReg) (n : Nat) : toS w d n = uni w d n := by
  simp [toS, uni, wordAt]

/-- A uniform result of the fixed-latency form, at either width. -/
theorem yields_uni {i : Instr} {lat : Nat} {w : Bool} {d : SReg} {f g : Ctx → Nat}
    (he : ∀ s, exec i s = s.fixed i lat (fun x => toS w d (f x))) (hv : ∀ x, f x = g x) :
    Yields i (fun x => uni w d (g x)) :=
  yields_of_fixed he (fun x => by rw [toS_eq_uni, hv x])

/-! ### Numbers as words -/

@[simp] theorem signed_toNat (x : Word) : signed 32 x.toNat = x.toInt := by
  have := x.isLt
  rw [signed, BitVec.toInt_eq_toNat_cond, Nat.mod_eq_of_lt this]
  split <;> split <;> omega

@[simp] theorem ofNat_wrap (e : Int) : BitVec.ofNat 32 (wrap 32 e) = BitVec.ofInt 32 e :=
  BitVec.eq_of_toNat_eq (by
    rw [BitVec.toNat_ofNat, BitVec.toNat_ofInt, wrap]
    omega)

theorem ofNat_toNat_word (x : Word) : BitVec.ofNat 32 x.toNat = x := by simp

theorem toNat_eq_zero_iff (x : Word) : x.toNat = 0 ↔ x = 0 := by simp [BitVec.toNat_eq_nat]

/-- The two words of a register pair's number are its registers (R7). -/
theorem wordAt_pairVal (lo hi : Word) : wordAt (pairVal lo hi) 0 = lo ∧ wordAt (pairVal lo hi) 1 = hi := by
  have := lo.isLt
  constructor <;> apply BitVec.eq_of_toNat_eq <;> simp only [wordAt, pairVal, BitVec.toNat_ofNat] <;> omega

/-- The complement of a mask within 32 bits. -/
theorem ofNat_compl {m : Nat} (h : m < 2 ^ 32) : BitVec.ofNat 32 (2 ^ 32 - 1 - m) = ~~~(BitVec.ofNat 32 m) :=
  BitVec.eq_of_toNat_eq (by
    rw [BitVec.toNat_not, BitVec.toNat_ofNat, BitVec.toNat_ofNat, Nat.mod_eq_of_lt h]
    omega)

theorem ofNat_mul_two_pow (x : Word) (n : Nat) : BitVec.ofNat 32 (x.toNat * 2 ^ n) = x <<< n :=
  BitVec.eq_of_toNat_eq (by rw [BitVec.toNat_ofNat, BitVec.toNat_shiftLeft, Nat.shiftLeft_eq])

/-! ### Complement and shifts (R267) -/

theorem aluNot_word (x : Word) : BitVec.ofNat 32 (aluNot 32 x.toNat) = ~~~x := by
  rw [aluNot, ofNat_compl x.isLt, ofNat_toNat_word]

theorem aluShl_word (x : Word) (n : Nat) : BitVec.ofNat 32 (aluShl 32 x.toNat n) = if 32 ≤ n then 0 else x <<< n := by
  rw [aluShl, apply_ite (BitVec.ofNat 32)]
  congr 1
  rw [← ofNat_mul_two_pow]
  exact BitVec.eq_of_toNat_eq (by simp)

theorem aluShr_word (x : Word) (n : Nat) : BitVec.ofNat 32 (aluShr 32 x.toNat n) = if 32 ≤ n then 0 else x >>> n := by
  rw [aluShr, apply_ite (BitVec.ofNat 32)]
  congr 1
  rw [← Nat.shiftRight_eq_div_pow, ← BitVec.toNat_ushiftRight, ofNat_toNat_word]

theorem aluSar_word (x : Word) (n : Nat) : BitVec.ofNat 32 (aluSar 32 x.toNat n) =
    if 32 ≤ n then (if x.toInt < 0 then BitVec.allOnes 32 else 0) else BitVec.ofInt 32 (x.toInt / 2 ^ n) := by
  rw [aluSar, signed_toNat]
  split
  · split <;> rfl
  · rw [ofNat_wrap, Nat.cast_pow, Nat.cast_ofNat]

/-! ### Bit fields (R269) -/

/-- The control names no field: it starts past bit 31, or has no width. -/
theorem bfNone_iff (k : Nat) : bfNone k = true ↔ 32 ≤ k % 256 ∨ k / 256 % 256 = 0 := by
  rw [bfNone, bfPos, Bool.or_eq_true, decide_eq_true_iff, beq_iff_eq]

theorem aluBfe_word (sgn : Bool) (x : Word) (k : Nat) : BitVec.ofNat 32 (aluBfe sgn x.toNat k) =
    if 32 ≤ k % 256 ∨ k / 256 % 256 = 0 then 0
    else
      let w := min (k / 256 % 256) (32 - k % 256)
      let f := x.toNat / 2 ^ (k % 256) % 2 ^ w
      if sgn ∧ 2 ^ (w - 1) ≤ f then BitVec.ofInt 32 ((f : Int) - 2 ^ w) else BitVec.ofNat 32 f := by
  unfold aluBfe
  simp only [bfNone_iff]
  split
  · rfl
  · simp only [bfPos, bfWidth]
    generalize min (k / 256 % 256) (32 - k % 256) = w
    generalize hf : x.toNat / 2 ^ (k % 256) % 2 ^ w = f
    have hlt : f < 2 ^ w := hf ▸ Nat.mod_lt _ (Nat.two_pow_pos w)
    have hs : signed w f = if 2 ^ (w - 1) ≤ f then (f : Int) - 2 ^ w else f := by
      rw [signed, Nat.mod_eq_of_lt hlt, Nat.cast_pow, Nat.cast_ofNat]
      split <;> split <;> omega
    cases sgn
    · simp
    · rw [if_pos rfl, ofNat_wrap, hs]
      split <;> simp [*]

/-- A field that ends at bit 31 or below has its mask within 32 bits. -/
theorem fieldMask_lt {p w : Nat} (h : w + p ≤ 32) : (2 ^ w - 1) * 2 ^ p < 2 ^ 32 :=
  calc (2 ^ w - 1) * 2 ^ p < 2 ^ w * 2 ^ p := Nat.mul_lt_mul_of_pos_right (Nat.sub_lt (Nat.two_pow_pos w) one_pos) (Nat.two_pow_pos p)
    _ = 2 ^ (w + p) := (pow_add 2 w p).symm
    _ ≤ 2 ^ 32 := Nat.pow_le_pow_right two_pos h

theorem aluBfi_word (x y : Word) (k : Nat) : BitVec.ofNat 32 (aluBfi x.toNat y.toNat k) =
    let m := BitVec.ofNat 32 ((2 ^ min (k / 256 % 256) (32 - k % 256) - 1) * 2 ^ (k % 256))
    if 32 ≤ k % 256 ∨ k / 256 % 256 = 0 then x else (x &&& ~~~m) ||| ((y <<< (k % 256)) &&& m) := by
  unfold aluBfi
  simp only [bfNone_iff]
  split
  · exact ofNat_toNat_word x
  · rename_i h
    simp only [bfPos, bfWidth]
    have hm := fieldMask_lt (p := k % 256) (w := min (k / 256 % 256) (32 - k % 256)) (by omega)
    rw [BitVec.ofNat_or, BitVec.ofNat_and, BitVec.ofNat_and, ofNat_compl hm, ofNat_toNat_word, ofNat_mul_two_pow]

/-! ### Smaller, larger and comparisons (R268, R270) -/

theorem cmpRead_word (u : Bool) (x : Word) : cmpRead 32 u x.toNat = if u then (x.toNat : Int) else x.toInt := by
  rw [cmpRead, signed_toNat]

theorem aluMin_word (u : Bool) (x y : Word) : BitVec.ofNat 32 (aluMin 32 u x.toNat y.toNat) =
    if cmpRead 32 u x.toNat ≤ cmpRead 32 u y.toNat then x else y := by
  rw [aluMin, apply_ite (BitVec.ofNat 32), ofNat_toNat_word, ofNat_toNat_word]

theorem aluMax_word (u : Bool) (x y : Word) : BitVec.ofNat 32 (aluMax 32 u x.toNat y.toNat) =
    if cmpRead 32 u x.toNat ≤ cmpRead 32 u y.toNat then y else x := by
  rw [aluMax, apply_ite (BitVec.ofNat 32), ofNat_toNat_word, ofNat_toNat_word]

/-- The truth of a comparison of two integers, by its code. -/
def compares (cc : CmpI) (y z : Int) : Bool :=
  match cc with
  | .eq => y == z | .ne => y != z | .lt => decide (y < z) | .le => decide (y ≤ z) | .gt => decide (z < y)
  | .ge => decide (z ≤ y)

/-- A comparison compares its operands as it reads them. -/
theorem aluCmp_eq (w : Nat) (cc : CmpI) (u : Bool) (m n : Nat) :
    aluCmp w cc u m n = compares cc (cmpRead w u m) (cmpRead w u n) := by
  cases cc
  case ne => simp [aluCmp, compares, bne, beq_eq_decide]
  all_goals rfl

/-! ### Negation and magnitude (R268) -/

theorem aluNeg_word (sat : Bool) (x : Word) : BitVec.ofNat 32 (aluNeg sat x.toNat) =
    if x = 0x80000000 then (if sat then 0x7FFFFFFF else 0x80000000) else -x := by
  have hx : x.toNat = 2 ^ 31 ↔ x = 0x80000000 := by simp [BitVec.toNat_eq_nat]
  simp only [aluNeg, hx]
  split
  · exact apply_ite ..
  · rw [ofNat_wrap, signed_toNat, BitVec.ofInt_neg, BitVec.ofInt_toInt]

theorem aluAbs_word (sat : Bool) (x : Word) : BitVec.ofNat 32 (aluAbs sat x.toNat) =
    if x = 0x80000000 then (if sat then 0x7FFFFFFF else 0x80000000) else if x.toInt < 0 then -x else x := by
  rw [aluAbs, signed_toNat, apply_ite (BitVec.ofNat 32), aluNeg_word, ofNat_toNat_word]
  by_cases hx : x = 0x80000000
  · subst hx; rfl
  · simp only [if_neg hx]

/-! ### Leading zeros and ones (R268) -/

theorem bitLen_eq {x n : Nat} (h : x < 2 ^ n) : bitLen x n = if x = 0 then 0 else x.log2 + 1 := by
  induction n with
  | zero => simp [bitLen, Nat.lt_one_iff.mp h]
  | succ n ih =>
    unfold bitLen
    by_cases hn : x < 2 ^ n
    · rw [Nat.testBit_lt_two_pow hn, ih hn]; rfl
    · have hle : 2 ^ n ≤ x := Nat.le_of_not_lt hn
      have h0 : x ≠ 0 := Nat.ne_of_gt (Nat.lt_of_lt_of_le (Nat.two_pow_pos n) hle)
      rw [Nat.testBit_of_two_pow_le_and_two_pow_add_one_gt hle h, if_pos rfl, if_neg h0, (Nat.log2_eq_iff h0).mpr ⟨hle, h⟩]

theorem aluClz_word (x : Word) : BitVec.ofNat 32 (aluClz x.toNat) =
    if x = 0 then 32 else BitVec.ofNat 32 (31 - Nat.log2 x.toNat) := by
  simp only [aluClz, bitLen_eq x.isLt, toNat_eq_zero_iff]
  split
  · rfl
  · congr 1; omega

theorem bitCount_eq (x n : Nat) : bitCount x n = ((List.range n).filter x.testBit).length := by
  induction n with
  | zero => rfl
  | succ n ih =>
    rw [bitCount, ih, List.range_succ, List.filter_append, List.length_append, List.filter_singleton]
    cases x.testBit n <;> rfl

/-! ### Scalar operands (R280) -/

/-- A scalar operand is a number of its width. -/
theorem su_lt (x : Ctx) (f : Fld) (w : Bool) (r : SReg) : x.su f w r < 2 ^ bits w := by
  have h0 := (x.s f r.val 0).isLt
  have h1 := (x.s f r.val 1).isLt
  cases w
  · exact h0
  · simp only [Ctx.su, Ctx.s2, pairVal, bits, if_true]
    omega

/-- A scalar operand as a comparison reads it: from half of its range on, a signed one is negative. -/
theorem cmpRead_su (x : Ctx) (u w : Bool) (f : Fld) (r : SReg) : cmpRead (bits w) u (x.su f w r) =
    let half : Int := if w then 9223372036854775808 else 2147483648
    if u ∨ (x.su f w r : Int) < half then (x.su f w r : Int) else x.su f w r - 2 * half := by
  have h := su_lt x f w r
  generalize x.su f w r = k at h
  cases u
  · rw [cmpRead, if_neg Bool.false_ne_true, signed, Nat.mod_eq_of_lt h]
    cases w <;> simp [bits]
  · rw [cmpRead, if_pos rfl]; simp

/-! ### The statements -/

/-- Settles O2: each meaning is of the fixed-latency form, and its number in each lane is the word of R267 or R269. -/
theorem vectorBits : Obligations.VectorBits := by
  unfold Obligations.VectorBits
  refine ⟨fun c d a b => ⟨?and, ?or, ?xor, ?not, ?shl, ?shr, ?sar⟩, fun c d a b e => ⟨fun sgn => ?bfe, ?bfi⟩⟩
  case and => exact yields_vec (exec_vand c d a b) (fun x l => by simp [Ctx.u])
  case or => exact yields_vec (exec_vor c d a b) (fun x l => by simp [Ctx.u])
  case xor => exact yields_vec (exec_vxor c d a b) (fun x l => by simp [Ctx.u])
  case not => exact yields_vec (exec_vnot c d a) (fun x l => aluNot_word _)
  case shl => exact yields_vec (exec_vshl c d a b) (fun x l => aluShl_word _ _)
  case shr => exact yields_vec (exec_vshr c d a b) (fun x l => aluShr_word _ _)
  case sar => exact yields_vec (exec_vsar c d a b) (fun x l => aluSar_word _ _)
  case bfe => exact yields_vec (exec_vbfe c sgn d a b) (fun x l => aluBfe_word sgn _ _)
  case bfi => exact yields_vec (exec_vbfi c d a b e) (fun x l => aluBfi_word _ _ _)

/-- Settles O3: each meaning is of the fixed-latency form, and its result in each lane is that of R268, R270 or R226. -/
theorem vectorSelection : Obligations.VectorSelection := by
  unfold Obligations.VectorSelection
  refine ⟨fun c d a b => ⟨?minS, ?minU, ?maxS, ?maxU, fun sat => ⟨?neg, ?abs⟩, ?clz, ?popc⟩,
    fun c d a b p v => ⟨?sel, fun cc u => ?cmp, ?mov, ?mov2, ?imm⟩⟩
  case minS => exact yields_vec (exec_vmin c false d a b) (fun x l => by simp [Ctx.u, aluMin_word, cmpRead_word])
  case minU => exact yields_vec (exec_vmin c true d a b) (fun x l => by simp [Ctx.u, aluMin_word, cmpRead_word])
  case maxS => exact yields_vec (exec_vmax c false d a b) (fun x l => by simp [Ctx.u, aluMax_word, cmpRead_word])
  case maxU => exact yields_vec (exec_vmax c true d a b) (fun x l => by simp [Ctx.u, aluMax_word, cmpRead_word])
  case neg => exact yields_vec (exec_vneg c sat d a) (fun x l => aluNeg_word sat _)
  case abs => exact yields_vec (exec_vabs c sat d a) (fun x l => aluAbs_word sat _)
  case clz => exact yields_vec (exec_vclz c d a) (fun x l => aluClz_word _)
  case popc => exact yields_vec (exec_vpopc c d a) (fun x l => congrArg _ (bitCount_eq _ 32))
  case sel =>
    exact yields_vec (exec_vsel c d a b p) (fun x l => by
      rw [apply_ite (BitVec.ofNat 32), Ctx.u, Ctx.u, ofNat_toNat_word, ofNat_toNat_word])
  case cmp =>
    refine yields_prd (exec_vcmp c cc u p a b) (fun x l => ?_)
    rw [aluCmp_eq, Ctx.u, Ctx.u, cmpRead_word, cmpRead_word]
    rfl
  case mov => exact yields_vec (exec_vmov c false d a) (fun x l => ofNat_toNat_word _)
  case mov2 =>
    exact yields_of_fixed (exec_vmov c true d a) (fun x => by
      simp only [if_true, Ctx.toV2, vec2, Ctx.src2, wordAt_pairVal])
  case imm => exact yields_vec (exec_vimm c d v) (fun x l => ofNat_toNat_word v)

/-- Settles O5: SMIN, SMAX, SCMP and SSEL are of the fixed-latency form and SDIVU of the flag-covered one, and the number of
each is that of R280 to R282. -/
theorem scalarSelectAndDivide : Obligations.ScalarSelectAndDivide := by
  unfold Obligations.ScalarSelectAndDivide
  intro c u w d a b e half rd
  have hrd : ∀ (x : Ctx) f r, cmpRead (bits w) u (x.su f w r) = rd (x.su f w r) := fun x f r => cmpRead_su x u w f r
  have hcmp : ∀ cc (x : Ctx), aluCmp (bits w) cc u (x.su .a w a) (x.su .b w b) =
      compares cc (rd (x.su .a w a)) (rd (x.su .b w b)) := fun cc x => by rw [aluCmp_eq, hrd, hrd]
  refine ⟨?min, ?max, fun cc => ⟨?cmpS, fun p => ?cmpP⟩, ?sel, fun rem => ?div⟩
  case min => exact yields_uni (exec_smin c u w d a b) (fun x => by rw [aluMin, hrd, hrd])
  case max => exact yields_uni (exec_smax c u w d a b) (fun x => by rw [aluMax, hrd, hrd])
  case cmpS =>
    refine yields_of_fixed (exec_scmp c cc u w (.s d) a b) (fun x => ?_)
    simp only [hcmp, toS_eq_uni]
    exact congrArg (fun y => [Res.s d.val y]) (apply_ite (BitVec.ofNat 32) _ _ _)
  case cmpP => exact yields_prd (exec_scmp c cc u w (.p p) a b) (fun x _ => hcmp cc x)
  case sel =>
    exact yields_uni (exec_ssel c w d a b e) (fun x => if_congr (not_congr (toNat_eq_zero_iff _)) rfl rfl)
  case div =>
    exact begins_of_covered (exec_sdivu c rem w d a b) (fun x => by
      rw [toS_eq_uni, aluDiv]
      cases w <;> rfl)

end Sys2Proof.Proofs
